-- ==== Sys2Proof/Word.lean ====
section
/-! DEFINITION. The widths of the machine's words and the plainest arithmetic on them. -/

namespace Sys2Proof

/-- A 64-bit register, instruction word or memory word (R2, R262). -/
abbrev Word := BitVec 64

/-- One byte of memory (R2). -/
abbrev Byte := BitVec 8

/-- Lanes of a warp: bit L stands for lane L, for at most 128 lanes (R224). -/
abbrev Mask := BitVec 128

end Sys2Proof
end

