-- ==== Sys2Proof/Config.lean ====
section
/-! DEFINITION. What the spec leaves open: free values with no body, so that no statement can rest on one, and constants that
each implementation decides. -/

namespace Sys2Proof.Config

/-- The n-th undefined 64-bit value (R7): log entry 10. -/
opaque freeWord : Nat → Word

/-- The n-th choice among listed values (R7, unspecified): a number that the user of it reduces to its range. -/
opaque choice : Nat → Nat

/-- The first token that the controller considers for the n-th record (R86). -/
opaque freeToken : Nat → BitVec 16

/-- The 128-bit AES-256-GCM tag under a key and nonce of header and payload (R36): the spec names the function, and no
rule depends on its values. -/
opaque gcmTag : BitVec 256 → BitVec 96 → List Word → List Byte → BitVec 128

/-- The Falcon-1024 signature over the SHAKE256 hash of a receipt (R82): 1280 bytes. -/
opaque signature : List Byte → Nat → Byte

/-- A byte of HBM written under one key and read under another (R78, AES-256-XTS): the key it was written under, the key it is read under,
its address, and the 16-byte block as written. -/
opaque otherKey : Nat → Nat → Nat → List Byte → Byte

/-- SHAKE256 of a measured object (R84). -/
opaque shake256 : List Byte → List Byte

/-- The boot ROM and the Sireg controller's firmware, which measurements 1 and 2 cover (R84). -/
opaque bootRom : List Byte
opaque firmware : List Byte

/-- Whether the controller retires the whole 4 KiB page of lines that have taken uncorrectable errors (R82): the page and those lines. -/
opaque retiresPage : Nat → List Nat → Bool

/-- Folier's device chain of certificate slot 0 (R84). -/
opaque deviceChain : List Byte

/-- The bits of a special function that is not correctly rounded (R239): by function number 0 VRCP, 1 VRSQ, 2 VEXP2,
3 VLOG2, 4 VSIN, 5 VCOS, 6 VTANH, by type (true for f64) and operand encoding. -/
opaque special : Nat → Bool → Word → Word

end Sys2Proof.Config
end

