-- ==== Sys2Proof/Syntax.lean ====
section
/-! DEFINITION. The instruction set as syntax: operands, options and the ONE inductive of all rows of the table.
The 152 program instructions carry the fields that their encodings give them (14_encoding.md); the 120 module, host
and engine events carry what arrives with them (a register value, the choice of the agent that acts). A packet that arrives stands in the
state, at the port that presents it, and the packet's step takes it from there. -/

namespace Sys2Proof

/-- Special registers, in the code order 448 to 479 of R267. -/
inductive Spec where
  | lane | width | warp | wg | gang | core | vchip | mode | flags | cyc | utvec | tpc | tcause | taddr | tmask | xop
  | xd | xa | xb | xc | ximm | xtype | gdim | gidx | nwg | level | nwarp | lid | utcause | utpc | npod | vlt
deriving DecidableEq, Repr

/-- The type field (R269), in code order 0 to 14. -/
inductive Ty where
  | b64 | i8 | n8 | i16 | n16 | i32 | n32 | i64 | n64 | f16 | bf16 | f32 | f64 | cb4 | b1
deriving DecidableEq, Repr

/-- An operand code (R265), or an immediate that takes operand fields' place: `imm` is the 18-bit IMM of the I form
(R270). Numbers are register numbers; `int` holds -16 to 31; `flt` the order of the float constants of R266. -/
inductive Operand where
  | v (n : Nat)
  | s (n : Nat)
  | int (k : Int)
  | flt (n : Nat)
  | spec (r : Spec)
  | f (n : Nat)
  | imm (x : BitVec 18)
deriving DecidableEq, Repr

/-- The guard (R264): predicate number and sense; `neg` is GS = 1, the lane acts where the predicate is false. -/
structure Guard where
  p : Nat
  neg : Bool
deriving DecidableEq, Repr

/-- The unguarded form: p7 with GS = 0 (R264). -/
def Guard.always : Guard := ⟨7, false⟩

/-- COND of SCMP and VCMP (R274). -/
inductive Cond where
  | eq | ne | lt | le | gt | ge | un
deriving DecidableEq, Repr

/-- RMO, the rounding override of VCVT and VRND (R274). -/
inductive Rmo where
  | mode | rne | rtz | rup | rdn
deriving DecidableEq, Repr

/-- G, the group of a cross-lane instruction (R274). -/
inductive Grp where
  | whole | g8 | g16
deriving DecidableEq, Repr

/-- ROP of VRED and VSCAN (R274). -/
inductive Rop where
  | add | min | max | land | lor | lxor
deriving DecidableEq, Repr

/-- AOP of ATOM (R274). -/
inductive Aop where
  | add | min | max | land | lor | lxor | exch | cas
deriving DecidableEq, Repr

/-- ORD of ATOM (R274). -/
inductive Ord where
  | relaxed | acq | rel | ar
deriving DecidableEq, Repr

/-- SCOPE (R274); `plain` is 0. -/
inductive Scope where
  | plain | wg | gang | vchip | pod | sys
deriving DecidableEq, Repr

/-- The memory-access function bits (R274): SZ as the binary logarithm of the bytes, SX, X2, SC and SCOPE. -/
structure MemOpt where
  sz : Nat
  sx : Bool
  x2 : Bool
  sc : Nat
  scope : Scope
deriving DecidableEq, Repr

/-- A fabric packet (R33): the six header words, the GCM tag of bytes 48 to 63, and the payload bytes. -/
structure Packet where
  w0 : Word
  w1 : Word
  w2 : Word
  w3 : Word
  w4 : Word
  w5 : Word
  tag : BitVec 128
  payload : List Byte
deriving DecidableEq, Repr

/-- Where an arriving packet comes from: the wire of a fabric port, entry `n` of the loopback path (R56), or entry `n`
of the halo messages that travel on the Sound within a gang (R165). -/
inductive PktSrc where
  | wire (port : Nat) (p : Packet)
  | loop (n : Nat)
  | sound (n : Nat)
deriving DecidableEq, Repr

/-- What a write of the power register carries beside REQ (R14, R17): the W1C bits TWARN and REFUSED of the value
written, and the hottest sensor at that time in degrees C. -/
structure PowerReq where
  clearTwarn : Bool
  clearRefused : Bool
  hottest : Nat
deriving DecidableEq, Repr

/-- A failed start's record fields (R25) that the unit under test supplies. -/
structure BistRecord where
  unit : BitVec 8
  stage : BitVec 8
  code : BitVec 8
  temp : BitVec 8
  detail : BitVec 32
  dump : List Word
deriving DecidableEq, Repr

/-- The name of an ordering stream at its source (R38): source slot, destination guest vchip, STREAM. -/
structure StreamId where
  slot : Nat
  dvch : Nat
  stream : Nat
deriving DecidableEq, Repr

/-- What the source fabric interface unit is told to inject next (R30, R38): the next request of a stream, or the
oldest queued response or control packet. -/
inductive SendSel where
  | stream (id : StreamId)
  | control
  | response
deriving DecidableEq, Repr

/-- TDISP interface states (R26). -/
inductive Tdi where
  | unlocked | locked | run | error
deriving DecidableEq, Repr

/-- A register of a PF or VF window that has no row of its own (R5, R6): its block and offset. -/
inductive RegAddr where
  | pf (offset : Nat)
  | perSlot (slot : Nat) (offset : Nat)
  | vf (slot : Nat) (offset : Nat)
deriving DecidableEq, Repr

/-- What comes to the network engine from Ethernet (R41, R42, R379): bytes placed into a
vchip's memory at a guest physical address or into the vault of one of its cores, bytes that a posted read fetched, an acknowledgement of
bytes of a posted request, or a request to send one of its packets again; and the moment at which a post's first packet leaves. -/
inductive EtherMsg where
  | place (slot : Nat) (endpoint : Nat) (addr : Word) (data : List Byte)
  | placeVault (slot : Nat) (endpoint : Nat) (core : Nat) (off : Nat) (data : List Byte)
  | readData (post : Nat) (offset : Nat) (data : List Byte)
  | acked (post : Nat) (bytes : Nat)
  | sent (post : Nat)
  | resend (post : Nat) (offset : Nat)
deriving DecidableEq, Repr

/-- It with the transport's nonce and tag (R41). -/
structure EtherFrame where
  msg : EtherMsg
  nonce : BitVec 96
  mac : BitVec 128
deriving DecidableEq, Repr

/-- What a started copy or post met (R149): a stage-1 fault, a stage-2 violation, an uncorrectable error. -/
inductive EngineErr where
  | stage1 | stage2 | uncorrectable | abandoned
deriving DecidableEq, Repr

/-- The network engine's operations of NPOST (R379). -/
inductive NpostOp where
  | write | read | send
deriving DecidableEq, Repr

/-- Every step of the table, one constructor each. -/
inductive Instr where
  -- start-up and power (01_module.md)
  | bistFail (r : BistRecord)
  | bistTimeout (temp : BitVec 8) (dump : List Word)
  | powerReqM0 (w : PowerReq)
  | powerReqM1 (w : PowerReq)
  | powerReqM2 (w : PowerReq)
  | powerReqM3 (w : PowerReq)
  -- hypervisor commands (04_host_interface.md)
  | hvcmdResumeMaster (token : BitVec 16)
  | hvcmdResumeStream (token : BitVec 16)
  | hvcmdAbandonStream (token : BitVec 16)
  -- links (02_links.md)
  | modcfgWrite (v : Word)
  | frameCrcError (port : Nat) (seq : BitVec 12)
  | linkReplay (port : Nat) (seq : BitVec 12)
  | portDown (port : Nat)
  | noCreditTimeout (port : Nat)
  | fabricSend (sel : SendSel)
  | sourceTimeout (id : StreamId)
  | keyMove (keyix : Nat)
  | tdispStateChange (slot : Nat) (st : Tdi)
  | networkTransferFailed (post : Nat)
  -- table rewrite and receive log (03_virtual_pod.md)
  | tableRewrite (v : Word)
  | rewriteDrainDone (us : Nat)
  | logReplayRecord (slot : Nat)
  | logReplayDone (slot : Nat)
  | logReplayLimit (slot : Nat)
  | logSpaceResume (slot : Nat)
  | rlogbaseWrite (slot : Nat) (v : Word)
  -- launches and scheduling (05_scheduler.md)
  | launchPortWrite (slot : Nat) (v : Word)
  | launchRecordRead (slot : Nat)
  | flagDependencePoll (slot : Nat) (launch : Nat) (dep : Nat)
  | gangPlace (slot : Nat)
  | gangRetire (gang : Nat)
  | podGangReserveTimeout (slot : Nat) (launch : Nat)
  | podGangCommitResend (slot : Nat) (launch : Nat)
  | podGangCommitTimeout (slot : Nat) (launch : Nat)
  | sliceEnd (slot : Nat)
  | schedWrite (slot : Nat) (v : Word)
  | preemptGo (slot : Nat) (v : Word)
  | preemptResume (slot : Nat)
  | graceWindowEnd (slot : Nat)
  | preemptionComplete (slot : Nat)
  -- translation, reset, events, attestation (04_host_interface.md)
  | tinvnWrite (slot : Nat) (v : Word)
  | s2invnWrite (slot : Nat) (v : Word)
  | invalidationDrainDone (slot : Nat)
  | vfFlr (slot : Nat)
  | flrcmdGo (slot : Nat) (v : Word)
  | flrDrainDone (slot : Nat)
  | flrDrainTimeout (slot : Nat)
  | generationAssigned (slot : Nat)
  | evqbaseWrite (v : Word)
  | evqheadWrite (v : Word)
  | vchipCreate (v : Word)
  | vchipDestroy (v : Word)
  | spdmChallenge (mailbox : Nat) (cslot : Nat)
  | setCertificate (mailbox : Nat) (cslot : Nat) (chain : List Byte)
  | challengeBusyTimeout (cslot : Nat)
  | registerWrite (reg : RegAddr) (v : Word)
  -- memory completions and engines (07_memory_hierarchy.md)
  | loadComplete (warp : Nat) (op : Nat) (lane : Nat)
  | storePerformed (warp : Nat) (op : Nat) (lane : Nat)
  | atomicPerformed (warp : Nat) (op : Nat) (lane : Nat)
  | fadddArrive (warp : Nat) (op : Nat) (lane : Nat)
  | barrierArrivalApply (warp : Nat) (op : Nat) (lane : Nat)
  | copyStart (copy : Nat)
  | copyBeat (copy : Nat) (ahead : Nat)
  | copyFault (copy : Nat) (err : EngineErr)
  | faceCopyStart (publish : Nat) (face : Nat)
  | staleHaloTimeout (warp : Nat)
  | matrixOpComplete (core : Nat)
  | mvnComplete (op : Nat)
  | npostComplete (post : Nat)
  | fuseTimeout (warp : Nat)
  | remoteAbandonTrap (warp : Nat)
  | boostAbortTaken (warp : Nat)
  | boostDrainADone (warp : Nat)
  | boostCommitDone (warp : Nat)
  | bctlTableReplaced (slot : Nat)
  /-- An encoding that the map leaves empty (R279): its SUB below SUB 6, and whether the word is privileged, so that
  SUB 6 goes before SUBs 4, 3, 2 and 7 below level 2. -/
  | illegalInstruction (sub : Nat) (priv : Bool)
  -- scalar, predicate and control instructions (15_isa_scalar_control.md)
  | nop (g : Guard)
  | sadd (g : Guard) (t : Ty) (d : Nat) (a b : Operand)
  | ssub (g : Guard) (t : Ty) (d : Nat) (a b : Operand)
  | smul (g : Guard) (t : Ty) (d : Nat) (a b : Operand)
  | smulh (g : Guard) (t : Ty) (d : Nat) (a b : Operand)
  | sdiv (g : Guard) (t : Ty) (d : Nat) (a b : Operand)
  | srem (g : Guard) (t : Ty) (d : Nat) (a b : Operand)
  | sand (g : Guard) (t : Ty) (d : Nat) (a b : Operand)
  | sor (g : Guard) (t : Ty) (d : Nat) (a b : Operand)
  | sxor (g : Guard) (t : Ty) (d : Nat) (a b : Operand)
  | sshl (g : Guard) (t : Ty) (d : Nat) (a b : Operand)
  | sshr (g : Guard) (t : Ty) (d : Nat) (a b : Operand)
  | ssra (g : Guard) (t : Ty) (d : Nat) (a b : Operand)
  | smin (g : Guard) (t : Ty) (d : Nat) (a b : Operand)
  | smax (g : Guard) (t : Ty) (d : Nat) (a b : Operand)
  | scmp (g : Guard) (t : Ty) (c : Cond) (d : Nat) (a b : Operand)
  | ssel (g : Guard) (t : Ty) (d : Nat) (a b c : Operand)
  | sbfx (g : Guard) (t : Ty) (d : Nat) (a b : Operand)
  | sbfi (g : Guard) (t : Ty) (d : Nat) (a b : Operand)
  | spopc (g : Guard) (t : Ty) (d : Nat) (a : Operand)
  | sclz (g : Guard) (t : Ty) (d : Nat) (a : Operand)
  | smov (g : Guard) (t : Ty) (d : Nat) (a : Operand)
  | sli (g : Guard) (d : Nat) (value : Word)
  | sld (g : Guard) (m : MemOpt) (d : Nat) (a : Nat) (b : Operand)
  | sst (g : Guard) (m : MemOpt) (d : Nat) (a : Nat) (b : Operand)
  | pand (g : Guard) (d a b : Nat)
  | por (g : Guard) (d a b : Nat)
  | pxor (g : Guard) (d a b : Nat)
  | pnot (g : Guard) (d a : Nat)
  | pany (g : Guard) (d a : Nat)
  | pall (g : Guard) (d a : Nat)
  | pcnt (g : Guard) (d a : Nat)
  | srd (g : Guard) (d : Operand) (r : Spec)
  | swr (g : Guard) (r : Spec) (a : Operand)
  | bra (g : Guard) (td : BitVec 18)
  | bru (g : Guard) (bp : Nat) (bs : Bool) (td : BitVec 18)
  | brc (g : Guard) (bp : Nat) (bs : Bool) (td jd : BitVec 18)
  | brx (g : Guard) (k : Nat) (td : BitVec 18)
  | join (g : Guard)
  | call (g : Guard) (d : Nat) (td : BitVec 18)
  | calli (g : Guard) (d : Nat) (a : Operand)
  | ret (g : Guard) (a : Operand)
  | exit (g : Guard)
  | wait (g : Guard) (ld st cp tl : Nat)
  | tstf (g : Guard) (d : Nat) (f : Nat)
  | canf (g : Guard) (d : Nat) (f : Nat)
  | yield (g : Guard) (n zfirst zcount : Nat) (start len : Operand)
  | rget (g : Guard) (d : Nat) (b : Operand)
  | launch (g : Guard) (d : Nat) (a b : Operand)
  -- vector, cross-lane and width instructions (16_isa_vector.md)
  | vadd (g : Guard) (t : Ty) (sat : Bool) (d : Nat) (a b : Operand)
  | vsub (g : Guard) (t : Ty) (sat : Bool) (d : Nat) (a b : Operand)
  | vmul (g : Guard) (t : Ty) (sat : Bool) (d : Nat) (a b : Operand)
  | vfma (g : Guard) (t : Ty) (d : Nat) (a b c : Operand)
  | vmin (g : Guard) (t : Ty) (d : Nat) (a b : Operand)
  | vmax (g : Guard) (t : Ty) (d : Nat) (a b : Operand)
  | vabs (g : Guard) (t : Ty) (sat : Bool) (d : Nat) (a : Operand)
  | vneg (g : Guard) (t : Ty) (sat : Bool) (d : Nat) (a : Operand)
  | vcmp (g : Guard) (t : Ty) (c : Cond) (any : Bool) (p : Nat) (a b : Operand)
  | vsel (g : Guard) (t : Ty) (d : Nat) (a b : Operand) (p : Nat)
  | vand (g : Guard) (t : Ty) (d : Nat) (a b : Operand)
  | vor (g : Guard) (t : Ty) (d : Nat) (a b : Operand)
  | vxor (g : Guard) (t : Ty) (d : Nat) (a b : Operand)
  | vnot (g : Guard) (t : Ty) (d : Nat) (a : Operand)
  | vshl (g : Guard) (t : Ty) (d : Nat) (a b : Operand)
  | vshr (g : Guard) (t : Ty) (d : Nat) (a b : Operand)
  | vsra (g : Guard) (t : Ty) (d : Nat) (a b : Operand)
  | vcvt (g : Guard) (t st : Ty) (sat : Bool) (rm : Rmo) (d : Nat) (a : Operand)
  | vrnd (g : Guard) (t : Ty) (rm : Rmo) (d : Nat) (a : Operand)
  | vrcp (g : Guard) (t : Ty) (d : Nat) (a : Operand)
  | vrsq (g : Guard) (t : Ty) (d : Nat) (a : Operand)
  | vsqrt (g : Guard) (t : Ty) (d : Nat) (a : Operand)
  | vdiv (g : Guard) (t : Ty) (d : Nat) (a b : Operand)
  | vexp2 (g : Guard) (t : Ty) (d : Nat) (a : Operand)
  | vlog2 (g : Guard) (t : Ty) (d : Nat) (a : Operand)
  | vsin (g : Guard) (t : Ty) (d : Nat) (a : Operand)
  | vcos (g : Guard) (t : Ty) (d : Nat) (a : Operand)
  | vtanh (g : Guard) (t : Ty) (d : Nat) (a : Operand)
  | vpack (g : Guard) (t st : Ty) (sat : Bool) (d : Nat) (a b : Operand)
  | vunpk (g : Guard) (t st : Ty) (d : Nat) (a b : Operand)
  | vperms (g : Guard) (t : Ty) (d : Nat) (a b : Operand)
  | vmov (g : Guard) (t : Ty) (d : Nat) (a : Operand ⊕ Word)
  | vmulh (g : Guard) (t : Ty) (d : Nat) (a b : Operand)
  | vpopc (g : Guard) (t : Ty) (d : Nat) (a : Operand)
  | vclz (g : Guard) (t : Ty) (d : Nat) (a : Operand)
  | vbfx (g : Guard) (t : Ty) (d : Nat) (a b : Operand)
  | vbfi (g : Guard) (t : Ty) (d : Nat) (a b : Operand)
  | shfl (g : Guard) (t : Ty) (grp : Grp) (d : Nat) (a b : Operand)
  | shflx (g : Guard) (t : Ty) (grp : Grp) (d : Nat) (a b : Operand)
  | shflup (g : Guard) (t : Ty) (grp : Grp) (d : Nat) (a b : Operand)
  | shfldn (g : Guard) (t : Ty) (grp : Grp) (d : Nat) (a b : Operand)
  | vred (g : Guard) (t : Ty) (rop : Rop) (grp : Grp) (d a : Operand)
  | vscan (g : Guard) (t : Ty) (rop : Rop) (grp : Grp) (exc : Bool) (d : Nat) (a : Operand)
  | bcst (g : Guard) (t : Ty) (grp : Grp) (d : Nat) (a b : Operand)
  | vballot (g : Guard) (grp : Grp) (d : Operand) (p : Nat)
  | split (g : Guard) (d : Nat) (factor : Nat)
  | fuse (g : Guard) (d : Nat) (factor tag : Nat) (lim : Operand)
  -- memory, atomic, copy and synchronisation instructions (17_isa_memory.md)
  | ld (g : Guard) (m : MemOpt) (d : Nat) (a b : Operand)
  | st (g : Guard) (m : MemOpt) (d a b : Operand)
  | ldv (g : Guard) (m : MemOpt) (d : Nat) (a b : Operand)
  | stv (g : Guard) (m : MemOpt) (d a b : Operand)
  | lda (g : Guard) (m : MemOpt) (d : Nat) (a b : Operand)
  | stl (g : Guard) (m : MemOpt) (d a b : Operand)
  | atom (g : Guard) (t : Ty) (aop : Aop) (ord : Ord) (scope : Scope) (d : Option Nat) (a b c : Operand)
  | faddd (g : Guard) (t : Ty) (scope : Scope) (d : Option Nat) (a b c : Operand)
  | fdset (g : Guard) (t : Ty) (scope : Scope) (d : Option Nat) (a b c : Operand)
  | fence (g : Guard) (scope : Scope)
  | fenceX (g : Guard)
  | bari (g : Guard) (a b : Operand)
  | bara (g : Guard) (a b : Operand)
  | barw (g : Guard) (esc : Bool) (d : Nat) (a b : Operand)
  | rcas4 (g : Guard) (scope : Scope) (words : Nat) (d : Option Nat) (a : Operand) (b c : Nat)
  | renq (g : Guard) (scope : Scope) (d : Option Nat) (a b : Operand)
  | rchase (g : Guard) (scope : Scope) (hops : Nat) (d : Nat) (a b : Operand)
  | copy (g : Guard) (ext : Bool) (d : Nat) (a b c : Operand) (bar : Option Operand)
  | copys (g : Guard) (d : Nat) (a b c : Operand) (bar : Option Operand) (e1 e2 e3 : Nat)
  | copyx (g : Guard) (wide : Bool) (d : Nat) (a b c : Operand) (bar : Option Operand) (e1 : Operand)
  | psend (g : Guard) (mc : Bool) (d : Nat) (a b c : Operand)
  | precv (g : Guard) (d : Nat) (a b : Operand)
  | npostWrite (g : Guard) (d : Nat) (a b c e0 e1 : Operand)
  | npostRead (g : Guard) (d : Nat) (a b c e0 e1 : Operand)
  | npostSend (g : Guard) (d : Nat) (a b c e0 e1 : Operand)
  -- matrix instructions (18_isa_matrix.md)
  | mopf (g : Guard)
  | mma (g : Guard) (av bt : Bool) (d zt : Nat) (b c fb geo : Operand)
  | mmaz (g : Guard) (av bt : Bool) (d zt : Nat) (b c fb geo : Operand)
  | mmab (g : Guard) (av bt z walk : Bool) (d zt : Nat) (b c fb geo bstr tab : Operand)
  | mdsq (g : Guard) (av bt z : Bool) (d zt : Nat) (b c fb geo : Operand)
  | mtopk (g : Guard) (t : Ty) (max : Bool) (k : Nat) (d zt : Nat) (b c : Operand)
  | mzmv (g : Guard) (t : Ty) (into : Bool) (d zt : Nat)
  | mzld (g : Guard) (t : Ty) (d zt : Nat) (b c : Operand)
  | mzst (g : Guard) (t : Ty) (d zt : Nat) (b c : Operand)
  | mzclr (g : Guard) (d zt : Nat) (b : Operand)
  | mvn (g : Guard) (acc : Bool) (d : Nat) (a b c fb geo pitch : Operand)
  -- grid, boosted-task, pod and system instructions (19_isa_system.md)
  | gbind (g : Guard) (slot : Nat) (a : Operand)
  | ldg (g : Guard) (t : Ty) (d slot : Nat) (b c : Operand)
  | stg (g : Guard) (t : Ty) (d : Operand) (slot : Nat) (b : Operand)
  | hpub (g : Guard) (d slot : Nat) (b : Operand)
  | hwait (g : Guard) (slot : Nat) (b : Operand)
  | bbegin (g : Guard) (d : Nat) (a b : Operand) (vb : Nat) (disp : BitVec 26)
  | bop (g : Guard) (kind : Nat) (a b c : Operand) (disp : BitVec 26)
  | bret (g : Guard)
  | bcommit (g : Guard)
  | babort (g : Guard) (u : Nat)
  | bstat (g : Guard) (d : Nat) (a : Operand)
  | bctlLoad (g : Guard) (a : Operand)
  | bctlVerdict (g : Guard) (a : Operand)
  | trap (g : Guard) (n : Nat)
  | rft (g : Guard) (skip : Bool)
  | tlbi (g : Guard) (a b : Operand)
  | halt (g : Guard)
  | bkpt (g : Guard)
  | ctxs (g : Guard) (d : Nat) (a : Operand)
  | ctxl (g : Guard) (a : Operand)
  -- the table's last rows
  | packetHop (port : Nat) (p : Packet)
  | ethernetPacketReceive (m : EtherFrame)
  | controlBlockWrite (slot : Nat) (w0 w1 : Word)
  -- steps that carry nothing of their own: power steps and the ends of a phase, and every arriving packet, which
  -- the port presents in the state (R33, R37)
  | powerUp
  | bistPass
  | lossOfPower
  | mcmdRestart
  | mcmdClearStarts
  | powerTransitionComplete
  | thermalWarning
  | thermalHalt
  | write
  | read
  | readrsp
  | agentAdd
  | agentLogic
  | agentExchange
  | agentCompareAndSwap
  | agentDeterministicAdd
  | agentSlotSetup
  | agentMultiwordCas
  | agentListEnqueue
  | agentPointerChase
  | agentrsp
  | send
  | haloData
  | haloAnnounce
  | haloCredit
  | ack
  | freeze
  | resume
  | resumeAbandon
  | abandonConfirm
  | hintNextWindow
  | hintDescheduled
  | hintCancel
  | gangReserve
  | gangAck
  | gangCommit
  | gangRelease
  | rewriteShadowLoadDone
  | rewriteDrainLimit
  | scrubberPassEnd
  | headerError
deriving DecidableEq, Repr

end Sys2Proof
end

