-- ==== Sys2Proof/WellFormed.lean ====
section
/-! DEFINITION. Which instruction terms the encodings of 14_encoding.md can write: operand kinds (R268), types (R269,
R283, R301, R326, R343), runs of registers and literal ranges (R275, R278). An event is well formed as it stands. -/

namespace Sys2Proof

/-- Bits of a sub-element of the type (R114): 64 divided by the count. -/
def Ty.width : Ty → Nat
  | .b64 | .i64 | .n64 | .f64 => 64
  | .i32 | .n32 | .f32 => 32
  | .i16 | .n16 | .f16 | .bf16 => 16
  | .i8 | .n8 => 8
  | .cb4 => 4
  | .b1 => 1

/-- Sub-elements of a 64-bit register under the type (R114). -/
def Ty.count (t : Ty) : Nat := 64 / t.width

/-- INT of R301. -/
def Ty.isInt : Ty → Bool
  | .i8 | .n8 | .i16 | .n16 | .i32 | .n32 | .i64 | .n64 => true
  | _ => false

/-- FLT of R301. -/
def Ty.isFlt : Ty → Bool
  | .f16 | .bf16 | .f32 | .f64 => true
  | _ => false

/-- Read as signed (R227). -/
def Ty.signed : Ty → Bool
  | .i8 | .i16 | .i32 | .i64 => true
  | _ => false

/-- Types of the scalar ALU and of VBFX and VBFI (R282, R301). -/
def Ty.isScalarAlu : Ty → Bool
  | .b64 | .i32 | .n32 | .i64 | .n64 => true
  | _ => false

/-- Types of VAND, VOR, VXOR and VNOT (R301). -/
def Ty.isLogic (t : Ty) : Bool := t == .b64 || t == .b1 || t.isInt

/-- Types of shifts, VPOPC and VCLZ (R301). -/
def Ty.isShift (t : Ty) : Bool := t == .b64 || t.isInt

/-- INT or FLT. -/
def Ty.isNum (t : Ty) : Bool := t.isInt || t.isFlt

/-- Types of VABS and VNEG (R301). -/
def Ty.isAbs (t : Ty) : Bool := t.signed || t.isFlt

/-- Types of MZMV, MZLD and MZST (R343). -/
def Ty.isTile : Ty → Bool
  | .f32 | .bf16 | .f16 | .i32 => true
  | _ => false

/-- A special register marked L in R267. -/
def Spec.isLane : Spec → Bool
  | .lane | .taddr | .tmask => true
  | _ => false

/-- A special register marked RW in R267. -/
def Spec.isRw : Spec → Bool
  | .mode | .flags | .utvec | .tpc | .utpc => true
  | _ => false

/-- A special register marked P in R267. -/
def Spec.isPriv : Spec → Bool
  | .utcause | .utpc => true
  | _ => false

/-- The guard is not p7 with GS = 1 (R264). -/
def Guard.wf (g : Guard) : Bool := g.p < 8 && !(g.p == 7 && g.neg)

/-- An integer constant of R265. -/
def intConstOk (k : Int) : Bool := -16 ≤ k && k ≤ 31

/-- Source of a V or X instruction, or data of an M instruction, under type `t` (R266, R268). A float constant needs a
float type. -/
def Operand.vSrc (t : Ty) : Operand → Bool
  | .v n => n < 320
  | .s n => n < 64
  | .int k => intConstOk k
  | .flt n => n < 16 && t.isFlt
  | .spec _ => true
  | .f _ | .imm _ => false

/-- Source of an S, A or C instruction: s, constants, special registers not marked L (R268). -/
def Operand.uSrc (t : Ty) : Operand → Bool
  | .s n => n < 64
  | .int k => intConstOk k
  | .flt n => n < 16 && t.isFlt
  | .spec r => !r.isLane
  | .v _ | .f _ | .imm _ => false

/-- Address of an M instruction: v or s (R268). -/
def Operand.addr : Operand → Bool
  | .v n => n < 320
  | .s n => n < 64
  | _ => false

/-- v or s with a run of registers (R268). -/
def Operand.vOrS (run : Nat) : Operand → Bool
  | .v n => n + run ≤ 320
  | .s n => n + run ≤ 64
  | _ => false

/-- The address of BARW: an s register or a constant (R332). -/
def Operand.sOrConst : Operand → Bool
  | .s n => n < 64
  | .int k => intConstOk k
  | _ => false

/-- The key of BOP: v, s or a constant (R362, R375). -/
def Operand.key : Operand → Bool
  | .v n => n < 320
  | .s n => n < 64
  | .int k => intConstOk k
  | _ => false

/-- An argument of BOP: v, s, a constant or a handle (R371). -/
def Operand.arg : Operand → Bool
  | .v n => n < 320
  | .s n => n < 64
  | .int k => intConstOk k
  | .f n => n < 16
  | _ => false

/-- B as a source or as IMM in the I form. -/
def Operand.orImm (ok : Operand → Bool) : Operand → Bool
  | .imm _ => true
  | o => ok o

def MemOpt.isImm : Operand → Bool
  | .imm _ => true
  | _ => false

/-- Memory-access bits of a load or store (R274, R285, R325). -/
def MemOpt.wf (m : MemOpt) (store needScope : Bool) (b : Operand) : Bool :=
  m.sz < 4 && m.sc < 4 && (!m.x2 || m.sz == 3) && (!m.sx || (!store && m.sz != 3 && !m.x2)) &&
  (!MemOpt.isImm b || m.sc == 0) && (!needScope || m.scope != .plain)

/-- Vector registers `d` to `d + run - 1` lie within v319 (R268). -/
def vRun (d run : Nat) : Bool := d + run ≤ 320

def sRun (d run : Nat) : Bool := d + run ≤ 64

/-- ATOM's types by operation (R326). -/
def Aop.takes (o : Aop) (t : Ty) : Bool :=
  match o with
  | .add | .min | .max => t == .i32 || t == .n32 || t == .i64 || t == .n64 || t == .f32 || t == .f64
  | _ => t == .n32 || t == .n64 || t == .b64

/-- VRED's and VSCAN's types by operation (R301). -/
def Rop.takes (o : Rop) (t : Ty) : Bool :=
  match o with
  | .add | .min | .max => t.isNum
  | _ => t.isShift

/-- Index registers that SHFL reads in the W form (R313). -/
def shflRun (t : Ty) : Nat := (t.count + 3) / 4

/-- Registers that MZMV moves (R355). -/
def mzmvRun (t : Ty) : Nat := if t == .f32 || t == .i32 then 16 else 8

/-- Immediate forms that a scalar or vector operand b takes. -/
def salu (g : Guard) (t : Ty) (d : Nat) (a b : Operand) : Bool :=
  g.wf && t.isScalarAlu && d < 64 && a.uSrc t && b.orImm (·.uSrc t)

def valu (g : Guard) (ok : Bool) (t : Ty) (d : Nat) (a b : Operand) : Bool :=
  g.wf && ok && d < 320 && a.vSrc t && b.orImm (·.vSrc t)

def vun (g : Guard) (ok : Bool) (t : Ty) (d : Nat) (a : Operand) : Bool :=
  g.wf && ok && d < 320 && a.vSrc t

def optV (d : Option Nat) (run : Nat) : Bool :=
  match d with
  | none => true
  | some n => vRun n run

def loadWf (g : Guard) (m : MemOpt) (needScope : Bool) (d : Nat) (a b : Operand) : Bool :=
  g.wf && m.wf false needScope b && vRun d (if m.x2 then 2 else 1) && a.addr && b.orImm (·.vSrc .b64)

def storeWf (g : Guard) (m : MemOpt) (needScope : Bool) (d a b : Operand) : Bool :=
  g.wf && m.wf true needScope b && (if m.x2 then d.vOrS 2 else d.vSrc .b64) && a.addr && b.orImm (·.vSrc .b64)

def mmaWf (g : Guard) (av : Bool) (d zt : Nat) (b c fb geo : Operand) : Bool :=
  g.wf && d < 16 && zt < 384 && (if av then b.uSrc .b64 else match b with | .v n => vRun n 8 | _ => false) &&
  c.uSrc .b64 && fb.uSrc .b64 && geo.uSrc .b64

def optBar : Option Operand → Bool
  | none => true
  | some o => o.uSrc .b64

/-- A well-formed instruction: an encoding writes it and decoding gives it back. Events are well formed. -/
def Instr.wf : Instr → Bool
  | .nop g | .join g | .exit g | .mopf g | .bret g | .bcommit g | .halt g | .bkpt g | .fenceX g => g.wf
  | .sadd g t d a b | .ssub g t d a b | .smul g t d a b | .smulh g t d a b | .sdiv g t d a b | .srem g t d a b
  | .sand g t d a b | .sor g t d a b | .sxor g t d a b | .sshl g t d a b | .sshr g t d a b | .ssra g t d a b
  | .smin g t d a b | .smax g t d a b | .sbfx g t d a b | .sbfi g t d a b => salu g t d a b
  | .scmp g t c d a b => salu g t d a b && c != .un
  | .ssel g t d a b c => g.wf && t.isScalarAlu && d < 64 && a.uSrc t && b.uSrc t && c.uSrc t
  | .spopc g t d a | .sclz g t d a => g.wf && t.isScalarAlu && d < 64 && a.uSrc t
  | .smov g t d a => g.wf && t.isScalarAlu && d < 64 && a.orImm (·.uSrc t)
  | .sli g d _ => g.wf && d < 64
  | .sld g m d a b => g.wf && m.wf false false b && !m.x2 && d < 64 && a < 64 && b.orImm (·.uSrc .b64)
  | .sst g m d a b => g.wf && m.wf true false b && !m.x2 && d < 64 && a < 64 && b.orImm (·.uSrc .b64)
  | .pand g d a b | .por g d a b | .pxor g d a b => g.wf && d < 8 && a < 8 && b < 8
  | .pnot g d a => g.wf && d < 8 && a < 8
  | .pany g d a | .pall g d a | .pcnt g d a => g.wf && d < 64 && a < 8
  | .srd g d r => g.wf && d.vOrS 1 && !r.isLane
  | .swr g r a => g.wf && r.isRw && a.uSrc .b64
  | .bra g _ => g.wf
  | .bru g bp _ _ => g.wf && bp < 8
  | .brc g bp _ _ _ => g.wf && bp < 8
  | .brx g k _ => g.wf && 1 ≤ k && k < 32
  | .call g d _ => g.wf && d < 64
  | .calli g d a => g.wf && d < 64 && a.uSrc .b64
  | .ret g a => g.wf && a.uSrc .b64
  | .wait g l m n o => g.wf && l < 64 && m < 64 && n < 32 && o < 16
  | .tstf g d f => g.wf && sRun d 2 && f < 16
  | .canf g d f => g.wf && d < 64 && f < 16
  | .yield g n zf zc b c => g.wf && n ≤ 320 && zf ≤ 383 && zc ≤ 384 && b.uSrc .b64 && c.uSrc .b64
  | .rget g d b => g.wf && sRun d 2 && b.orImm (·.uSrc .b64)
  | .launch g d a b => g.wf && d < 64 && a.uSrc .b64 && b.uSrc .b64
  | .vadd g t sat d a b | .vsub g t sat d a b | .vmul g t sat d a b => valu g (t.isNum && (!sat || t.isInt)) t d a b
  | .vfma g t d a b c => g.wf && t.isNum && d < 320 && a.vSrc t && b.vSrc t && c.vSrc t
  | .vmin g t d a b | .vmax g t d a b => valu g t.isNum t d a b
  | .vabs g t sat d a | .vneg g t sat d a => vun g (t.isAbs && (!sat || t.isInt)) t d a
  | .vcmp g t c _ p a b => g.wf && t.isNum && p < 8 && (c != .un || t.isFlt) && a.vSrc t && b.orImm (·.vSrc t)
  | .vsel g t d a b p => g.wf && d < 320 && a.vSrc t && b.vSrc t && p < 8
  | .vand g t d a b | .vor g t d a b | .vxor g t d a b => valu g t.isLogic t d a b
  | .vnot g t d a => vun g t.isLogic t d a
  | .vshl g t d a b | .vshr g t d a b | .vsra g t d a b => valu g t.isShift t d a b
  | .vcvt g t u sat _ d a => vun g (t.isNum && u.isNum && (!sat || t.isInt)) u d a
  | .vrnd g t _ d a => vun g t.isFlt t d a
  | .vrcp g t d a | .vrsq g t d a | .vsqrt g t d a | .vexp2 g t d a | .vlog2 g t d a | .vsin g t d a | .vcos g t d a
  | .vtanh g t d a => vun g t.isFlt t d a
  | .vdiv g t d a b => g.wf && t.isFlt && d < 320 && a.vSrc t && b.vSrc t
  | .vpack g t u sat d a b =>
    g.wf && t.isNum && u.isNum && t.count == 2 * u.count && (!sat || t.isInt) && d < 320 && a.vSrc u && b.vSrc u
  | .vunpk g t u d a b =>
    g.wf && t.isNum && u.isNum && t.count < u.count && d < 320 && a.vSrc u && b.vSrc .b64
  | .vperms g t d a b => g.wf && d < 320 && a.vSrc t && b.vSrc t
  | .vmov g t d (.inl a) => g.wf && d < 320 && a.orImm (·.vSrc t)
  | .vmov g t d (.inr _) => g.wf && t == .b64 && d < 320
  | .vmulh g t d a b => valu g t.isInt t d a b
  | .vpopc g t d a | .vclz g t d a => vun g t.isShift t d a
  | .vbfx g t d a b | .vbfi g t d a b => valu g t.isScalarAlu t d a b
  | .shfl g t _ d a b =>
    g.wf && t != .b1 && d < 320 && a.vSrc t && (match b with | .v n => vRun n (shflRun t) | .imm _ => true | _ => false)
  | .shflx g t _ d a b | .shflup g t _ d a b | .shfldn g t _ d a b =>
    g.wf && t != .b1 && d < 320 && a.vSrc t && b.orImm (·.uSrc .b64)
  | .vred g t rop grp d a =>
    g.wf && rop.takes t && d.vOrS 1 && (match d with | .s _ => grp == .whole | _ => true) && a.vSrc t
  | .vscan g t rop _ _ d a => g.wf && rop.takes t && d < 320 && a.vSrc t
  | .bcst g t _ d a b => g.wf && d < 320 && a.vSrc t && b.orImm (·.uSrc .b64)
  | .vballot g grp d p =>
    g.wf && p < 8 && (match d with | .s n => sRun n 2 && grp == .whole | .v n => n < 320 | _ => false)
  | .split g d f => g.wf && d < 64 && f < 8
  | .fuse g d f tag lim => g.wf && d < 64 && f < 8 && tag < 16 && lim.orImm (·.uSrc .b64)
  | .ld g m d a b | .ldv g m d a b => loadWf g m false d a b
  | .lda g m d a b => loadWf g m true d a b
  | .st g m d a b | .stv g m d a b => storeWf g m false d a b
  | .stl g m d a b => storeWf g m true d a b
  | .atom g t aop _ scope d a b c =>
    g.wf && aop.takes t && scope != .plain && optV d 1 && a.addr && b.vSrc t &&
    (if aop == .cas then c.vSrc t else c == .v 0)
  | .faddd g t scope d a b c | .fdset g t scope d a b c =>
    g.wf && (t == .f32 || t == .f64) && scope != .plain && optV d 1 && a.addr && b.vSrc t && c.vSrc .n64
  | .fence g scope => g.wf && scope != .plain
  | .bari g a b | .bara g a b => g.wf && a.addr && b.vSrc .b64
  | .barw g _ d a b => g.wf && d < 64 && a.sOrConst && b.uSrc .b64
  | .rcas4 g scope words d a b c =>
    g.wf && scope != .plain && 1 ≤ words && words ≤ 4 && optV d words && a.addr && vRun b words && vRun c words
  | .renq g scope d a b => g.wf && scope != .plain && optV d 2 && a.addr && b.vSrc .b64
  | .rchase g scope hops d a b =>
    g.wf && scope != .plain && 1 ≤ hops && hops ≤ 8 && vRun d 2 && a.addr && b.uSrc .b64
  | .copy g ext d a b c bar =>
    g.wf && d < 16 && a.uSrc .b64 && b.uSrc .b64 && c.uSrc .b64 && optBar bar && (ext || bar.isNone)
  | .copys g d a b c bar e1 e2 e3 =>
    g.wf && d < 16 && a.uSrc .b64 && b.uSrc .b64 && c.uSrc .b64 && optBar bar && sRun e1 2 && sRun e2 2 && e3 < 64
  | .copyx g _ d a b c bar e1 =>
    g.wf && d < 16 && a.uSrc .b64 && b.uSrc .b64 && c.uSrc .b64 && optBar bar && e1.uSrc .b64
  | .psend g _ d a b c => g.wf && d < 16 && a.uSrc .b64 && b.uSrc .b64 && c.uSrc .b64
  | .precv g d a b => g.wf && d < 64 && a.uSrc .b64 && b.uSrc .b64
  | .npostWrite g d a b c e0 e1 | .npostRead g d a b c e0 e1 | .npostSend g d a b c e0 e1 =>
    g.wf && d < 16 && a.uSrc .b64 && b.uSrc .b64 && c.uSrc .b64 && e0.uSrc .b64 && e1.uSrc .b64
  | .mma g av _ d zt b c fb geo | .mmaz g av _ d zt b c fb geo | .mdsq g av _ _ d zt b c fb geo =>
    mmaWf g av d zt b c fb geo
  | .mmab g av _ _ _ d zt b c fb geo bstr tab => mmaWf g av d zt b c fb geo && bstr.uSrc .b64 && tab.uSrc .b64
  | .mtopk g t _ k d zt b c =>
    g.wf && (t == .f32 || t == .i32) && 1 ≤ k && k ≤ 32 && d < 16 && zt < 384 && b.uSrc t && c.uSrc t
  | .mzmv g t _ d zt => g.wf && t.isTile && vRun d (mzmvRun t) && zt < 384
  | .mzld g t d zt b c | .mzst g t d zt b c => g.wf && t.isTile && d < 16 && zt < 384 && b.uSrc t && c.uSrc t
  | .mzclr g d zt b => g.wf && d < 16 && zt < 384 && b.uSrc .b64
  | .mvn g _ d a b c fb geo pitch =>
    g.wf && d < 16 && a.uSrc .b64 && b.uSrc .b64 && c.uSrc .b64 && fb.uSrc .b64 && geo.uSrc .b64 && pitch.uSrc .b64
  | .gbind g slot a => g.wf && slot < 8 && a.uSrc .b64
  | .ldg g t d slot b c => g.wf && d < 320 && slot < 8 && b.addr && c.uSrc t
  | .stg g _ d slot b => g.wf && d.vOrS 1 && slot < 8 && b.addr
  | .hpub g d slot b => g.wf && d < 16 && slot < 8 && b.uSrc .b64
  | .hwait g slot b => g.wf && slot < 8 && b.uSrc .b64
  | .bbegin g d a b vb _ => g.wf && d < 64 && a.uSrc .b64 && b.uSrc .b64 && vb ≤ 317
  | .bop g k a b c _ => g.wf && k < 64 && a.key && b.arg && c.arg
  | .babort g u => g.wf && u < 256
  | .bstat g d a => g.wf && d < 64 && a.uSrc .b64
  | .bctlLoad g a | .bctlVerdict g a => g.wf && a.uSrc .b64
  | .trap g n => g.wf && n < 256
  | .rft g _ => g.wf
  | .tlbi g a b => g.wf && a.uSrc .b64 && b.uSrc .b64
  | .ctxs g d a => g.wf && d < 64 && a.uSrc .b64
  | .ctxl g a => g.wf && a.uSrc .b64
  | _ => true

end Sys2Proof
end

