-- ==== Sys2Proof/Decode.lean ====
section
/-! DEFINITION. The decoder of 14_encoding.md, total on any words, and after it the encoder from the same tables. An
encoding that the map leaves empty decodes to `Instr.illegalInstruction`, with its SUB (R278, R279). -/

namespace Sys2Proof

/-! ### Words, fields and operand codes -/

/-- Bits `[lo + n - 1 : lo]` of a word (R2). -/
def Word.bits (w : Word) (lo n : Nat) : Nat := (w.extractLsb' lo n).toNat

/-- The value of the bytes of a little-endian word, lowest address first (R2). -/
def leNat : List Byte → Nat
  | [] => 0
  | b :: bs => b.toNat + 256 * leNat bs

/-- `n` bytes of a value, lowest first (R2). -/
def leBytes : Nat → Nat → List Byte
  | 0, _ => []
  | n + 1, x => BitVec.ofNat 8 x :: leBytes n (x / 256)

/-- The fields of an instruction's first word and, for a 128-bit instruction, of its extension block (R262, R273);
`w1` is the whole second word. -/
structure Raw where
  lp : BitVec 2
  major : BitVec 8
  gp : BitVec 3
  gs : BitVec 1
  d : BitVec 9
  a : BitVec 9
  b : BitVec 9
  c : BitVec 9
  ty : BitVec 4
  func : BitVec 10
  w1 : Word
deriving DecidableEq, Repr

/-- The first word from its fields, high bits first (R262). -/
def word0 (lp : BitVec 2) (major : BitVec 8) (gp : BitVec 3) (gs : BitVec 1) (d a b c : BitVec 9) (ty : BitVec 4)
    (func : BitVec 10) : Word :=
  lp ++ major ++ gp ++ gs ++ d ++ a ++ b ++ c ++ ty ++ func

/-- The fields of the words at an instruction start (R262). -/
def Raw.ofWords (w0 w1 : Word) : Raw where
  lp := w0.extractLsb' 62 2
  major := w0.extractLsb' 54 8
  gp := w0.extractLsb' 51 3
  gs := w0.extractLsb' 50 1
  d := w0.extractLsb' 41 9
  a := w0.extractLsb' 32 9
  b := w0.extractLsb' 23 9
  c := w0.extractLsb' 14 9
  ty := w0.extractLsb' 10 4
  func := w0.extractLsb' 0 10
  w1 := w1

def Raw.word (r : Raw) : Word := word0 r.lp r.major r.gp r.gs r.d r.a r.b r.c r.ty r.func

/-- The extension block (R273): MARK, E0 to E3, LIT. -/
def extWord (e0 e1 e2 e3 : BitVec 9) (lit : BitVec 26) : Word := (3 : BitVec 2) ++ e0 ++ e1 ++ e2 ++ e3 ++ lit

def Raw.mark (r : Raw) : BitVec 2 := r.w1.extractLsb' 62 2
def Raw.e0 (r : Raw) : BitVec 9 := r.w1.extractLsb' 53 9
def Raw.e1 (r : Raw) : BitVec 9 := r.w1.extractLsb' 44 9
def Raw.e2 (r : Raw) : BitVec 9 := r.w1.extractLsb' 35 9
def Raw.e3 (r : Raw) : BitVec 9 := r.w1.extractLsb' 26 9
def Raw.lit (r : Raw) : BitVec 26 := r.w1.extractLsb' 0 26

/-- Bits `[lo + n - 1 : lo]` of FUNC. -/
def Raw.fn (r : Raw) (lo n : Nat) : Nat := (r.func.extractLsb' lo n).toNat

/-- FUNC [9] = 1: the I form, where the opcode takes it (R270). -/
def Raw.isI (r : Raw) : Bool := r.fn 9 1 == 1

def Raw.guard (r : Raw) : Guard := ⟨r.gp.toNat, r.gs == 1⟩

/-- IMM of the I form, bits [31:14] (R270). -/
def Raw.imm (r : Raw) : BitVec 18 := r.b ++ r.c

/-- Special registers in code order from 448 (R267). -/
def Spec.all : List Spec :=
  [.lane, .width, .warp, .wg, .gang, .core, .vchip, .mode, .flags, .cyc, .utvec, .tpc, .tcause, .taddr, .tmask, .xop,
   .xd, .xa, .xb, .xc, .ximm, .xtype, .gdim, .gidx, .nwg, .level, .nwarp, .lid, .utcause, .utpc, .npod, .vlt]

def Spec.index (r : Spec) : Nat := r.ctorIdx

def Spec.ofIndex (n : Nat) : Spec := Spec.all.getD n .lane

/-- The 9-bit operand code (R265). -/
def Operand.code : Operand → BitVec 9
  | .v n => BitVec.ofNat 9 n
  | .s n => BitVec.ofNat 9 (320 + n)
  | .int k => if 0 ≤ k then BitVec.ofNat 9 (384 + k.toNat) else BitVec.ofNat 9 (432 - (-k).toNat)
  | .flt n => BitVec.ofNat 9 (432 + n)
  | .spec r => BitVec.ofNat 9 (448 + r.index)
  | .f n => BitVec.ofNat 9 (480 + n)
  | .imm _ => 0

/-- The operand of a code (R265). Codes 496 to 511 are refused before this is read. -/
def Operand.ofCode (c : BitVec 9) : Operand :=
  let n := c.toNat
  if n < 320 then .v n
  else if n < 384 then .s (n - 320)
  else if n < 416 then .int ((n : Int) - 384)
  else if n < 432 then .int ((n : Int) - 432)
  else if n < 448 then .flt (n - 432)
  else if n < 480 then .spec (Spec.ofIndex (n - 448))
  else .f (n - 480)

/-- Types in code order (R269). -/
def Ty.all : List Ty :=
  [.b64, .i8, .n8, .i16, .n16, .i32, .n32, .i64, .n64, .f16, .bf16, .f32, .f64, .cb4, .b1]

def Ty.code (t : Ty) : Nat := t.ctorIdx

def Ty.ofCode (n : Nat) : Option Ty := Ty.all[n]?

def Cond.all : List Cond := [.eq, .ne, .lt, .le, .gt, .ge, .un]
def Rmo.all : List Rmo := [.mode, .rne, .rtz, .rup, .rdn]
def Grp.all : List Grp := [.whole, .g8, .g16]
def Rop.all : List Rop := [.add, .min, .max, .land, .lor, .lxor]
def Aop.all : List Aop := [.add, .min, .max, .land, .lor, .lxor, .exch, .cas]
def Ord.all : List Ord := [.relaxed, .acq, .rel, .ar]
def Scope.all : List Scope := [.plain, .wg, .gang, .vchip, .pod, .sys]

/-! ### What each position accepts -/

/-- What an operand field holds (R265, R268, R275). Literals and predicates are numbers, not operand codes. -/
inductive Kind where
  | none                 -- unused: zero
  | ignore               -- part of IMM
  | v (run : Nat)
  | s (run : Nat)
  | vs (run : Nat)
  | vSrc
  | vInt                 -- a source read as n64, whatever TYPE holds
  | uSrc
  | addr
  | sOrConst
  | key
  | arg
  | handle
  | rdSpec
  | wrSpec
  | vb                   -- a v code 0-317
  | bar                  -- zero, or a source
  | lit (max : Nat)
deriving DecidableEq, Repr

/-- The field holds an operand code (R265). -/
def Kind.isCode : Kind → Bool
  | .none | .ignore | .lit _ => false
  | _ => true

/-- The code is one the position accepts (R268); `flt` where a float constant may stand (R266). -/
def Kind.accepts (flt : Bool) (k : Kind) (c : BitVec 9) : Bool :=
  let n := c.toNat
  let fltOk := flt || !(432 ≤ n && n < 448)
  let notLane := !(Spec.ofIndex (n - 448)).isLane || n < 448
  match k with
  | .none | .ignore => true
  | .v run => n + run ≤ 320
  | .s run => 320 ≤ n && n + run ≤ 384
  | .vs run => n + run ≤ 320 || (320 ≤ n && n + run ≤ 384)
  | .vSrc => n < 480 && fltOk
  | .vInt => n < 480 && !(432 ≤ n && n < 448)
  | .uSrc => 320 ≤ n && n < 480 && fltOk && notLane
  | .addr => n < 384
  | .sOrConst => 320 ≤ n && n < 432
  | .key => n < 432
  | .arg => n < 432 || (480 ≤ n && n < 496)
  | .handle => 480 ≤ n && n < 496
  | .rdSpec => 448 ≤ n && n < 480 && notLane
  | .wrSpec => 448 ≤ n && n < 480 && (Spec.ofIndex (n - 448)).isRw
  | .vb => n ≤ 317
  | .bar => n == 0 || (320 ≤ n && n < 480 && fltOk && notLane)
  | .lit max => n ≤ max

/-- What one encoding of the map takes: the kind of each field, whether TYPE (and a source type) is taken, the FUNC and
LIT bits it may set, and the instruction it stands for. -/
structure Row where
  d : Kind := .none
  a : Kind := .none
  b : Kind := .none
  c : Kind := .none
  e0 : Kind := .none
  e1 : Kind := .none
  e2 : Kind := .none
  e3 : Kind := .none
  tyOk : Bool
  fmask : BitVec 10 := 0
  lmask : BitVec 26 := 0
  flt : Bool := false
  bIndex : Bool := false
  sub2 : Bool := false
  sub7 : Bool := false
  instr : Instr

/-- Forms a major opcode takes (R270, R275). -/
structure Forms where
  w : Bool := false
  i : Bool := false
  l : Bool := false
  e : Bool := false
  b : Bool := false
  t : Bool := false

/-- The forms of a major opcode, or none for an unassigned one (R275). -/
def formsOf (m : Nat) : Option Forms :=
  let w : Option Forms := some { w := true }
  let wi : Option Forms := some { w := true, i := true }
  let e : Option Forms := some { e := true }
  let b : Option Forms := some { b := true }
  if m = 0x00 then w
  else if m = 0x01 then wi
  else if m = 0x02 then some { l := true }
  else if m ≤ 0x04 then wi
  else if m = 0x05 then w
  else if m < 0x08 then none
  else if m ≤ 0x0B then b
  else if m = 0x0C then w
  else if m = 0x0D then b
  else if m ≤ 0x10 then w
  else if m = 0x11 then some { t := true }
  else if m ≤ 0x13 then w
  else if m = 0x14 then e
  else if m = 0x15 then wi
  else if m ≤ 0x18 then w
  else if m < 0x20 then none
  else if m = 0x23 ∨ m = 0x26 ∨ m = 0x27 ∨ m = 0x29 ∨ m = 0x2D then w
  else if m ≤ 0x30 then wi
  else if m ≤ 0x3E then w
  else if m = 0x3F then some { w := true, i := true, l := true }
  else if m = 0x40 then wi
  else if m ≤ 0x42 then w
  else if m ≤ 0x44 then wi
  else if m < 0x60 then none
  else if m ≤ 0x63 then wi
  else if m ≤ 0x65 then w
  else if m = 0x66 then wi
  else if m ≤ 0x68 then w
  else if m = 0x69 then wi
  else if m < 0x70 then none
  else if m ≤ 0x75 then wi
  else if m ≤ 0x7F then w
  else if m < 0xA0 then none
  else if m = 0xA0 then some { w := true, e := true }
  else if m ≤ 0xA2 then e
  else if m = 0xA3 then none
  else if m ≤ 0xA5 then w
  else if m = 0xA6 then e
  else if m < 0xB0 then none
  else if m = 0xB0 then w
  else if m ≤ 0xB5 then e
  else if m ≤ 0xB9 then w
  else if m = 0xBA then e
  else if m < 0xC0 then none
  else if m ≤ 0xC4 then w
  else if m < 0xC8 then none
  else if m ≤ 0xC9 then e
  else if m ≤ 0xCE then w
  else if m < 0xD0 then none
  else if m ≤ 0xD6 then w
  else none

/-- FUNC [9] is AV and not I for the multiply family (R343). -/
def isAvMajor (m : Nat) : Bool := 0xB1 ≤ m && m ≤ 0xB4

/-- A form the map does not list for the major (R279, SUB 1). -/
def formRefused (f : Forms) (r : Raw) : Bool :=
  let i := r.isI && !isAvMajor r.major.toNat
  if f.t then r.lp == 2 || i
  else if f.b then r.lp == 2 || i
  else if r.lp == 2 then !(f.e || f.l) || i
  else !f.w || (i && !f.i)

/-! ### The map, row by row -/

/-- B, or IMM in the I form. -/
def Raw.opB (r : Raw) : Operand := if r.isI then .imm r.imm else .ofCode r.b

/-- A, or IMM in the I form of SMOV, VMOV and FUSE. -/
def Raw.opAi (r : Raw) : Operand := if r.isI then .imm r.imm else .ofCode r.a

def Raw.immB (r : Raw) (k : Kind) : Kind := if r.isI then .ignore else k
def Raw.immC (r : Raw) : Kind := if r.isI then .ignore else .none
def Raw.immA (r : Raw) (k : Kind) : Kind := if r.isI then .none else k
def Raw.vD (r : Raw) : Nat := r.d.toNat
def Raw.sD (r : Raw) : Nat := r.d.toNat - 320
def Raw.hD (r : Raw) : Nat := r.d.toNat - 480
def Raw.oA (r : Raw) : Operand := .ofCode r.a
def Raw.oB (r : Raw) : Operand := .ofCode r.b
def Raw.oC (r : Raw) : Operand := .ofCode r.c
def Raw.oE0 (r : Raw) : Operand := .ofCode r.e0
def Raw.oE1 (r : Raw) : Operand := .ofCode r.e1
def Raw.oE2 (r : Raw) : Operand := .ofCode r.e2
def Raw.oE3 (r : Raw) : Operand := .ofCode r.e3

def Raw.type? (r : Raw) : Option Ty := Ty.ofCode r.ty.toNat
def Raw.tyD (r : Raw) : Ty := r.type?.getD .b64
/-- The source type of VCVT, VPACK and VUNPK (R274). -/
def Raw.stype? (r : Raw) : Option Ty := Ty.ofCode (r.fn 0 4)
def Raw.tyOk (r : Raw) (ok : Ty → Bool) : Bool := r.type?.any ok
def Raw.tyZero (r : Raw) : Bool := r.ty == 0

/-- SCOPE of FUNC [8:6] (R274). -/
def Raw.scope? (r : Raw) : Option Scope := Scope.all[r.fn 6 3]?
def Raw.scopeD (r : Raw) : Scope := r.scope?.getD .plain

/-- SCOPE 1-5 (R274). -/
def Raw.scopeOk (r : Raw) : Bool := 1 ≤ r.fn 6 3 && r.fn 6 3 ≤ 5

def Raw.memOpt (r : Raw) : MemOpt where
  sz := r.fn 4 2
  sx := r.fn 0 1 == 1
  x2 := r.fn 3 1 == 1
  sc := if r.isI then 0 else r.fn 1 2
  scope := r.scopeD

/-- D where RV = 1 (R321). -/
def Raw.rvD (r : Raw) : Option Nat := if r.fn 0 1 == 1 then some r.vD else none
def Raw.rvK (r : Raw) (run : Nat) : Kind := if r.fn 0 1 == 1 then .v run else .none

/-- The scalar ALU by OP (R275, R283). -/
def aluInstr (r : Raw) (op : Nat) : Option Instr :=
  let g := r.guard; let t := r.tyD; let d := r.sD; let a := r.oA; let b := r.opB
  match op with
  | 0 => some (.sadd g t d a b)
  | 1 => some (.ssub g t d a b)
  | 2 => some (.smul g t d a b)
  | 3 => some (.smulh g t d a b)
  | 4 => some (.sdiv g t d a b)
  | 5 => some (.srem g t d a b)
  | 6 => some (.sand g t d a b)
  | 7 => some (.sor g t d a b)
  | 8 => some (.sxor g t d a b)
  | 9 => some (.sshl g t d a b)
  | 10 => some (.sshr g t d a b)
  | 11 => some (.ssra g t d a b)
  | 12 => some (.smin g t d a b)
  | 13 => some (.smax g t d a b)
  | 14 => (Cond.all.take 6)[r.fn 0 3]?.map fun c => .scmp g t c d a b
  | 15 => some (.ssel g t d a r.oB r.oC)
  | 16 => some (.sbfx g t d a b)
  | 17 => some (.sbfi g t d a b)
  | 18 => some (.spopc g t d a)
  | 19 => some (.sclz g t d a)
  | 20 => some (.smov g t d r.opAi)
  | _ => none

/-- The scalar ALU's row (R282). -/
def aluRow (r : Raw) : Option Row :=
  let op := r.fn 3 6
  if r.isI && (op == 15 || op == 18 || op == 19) then none
  else (aluInstr r op).map fun i =>
    { d := .s 1
      a := if op == 20 then r.immA .uSrc else .uSrc
      b := if op == 18 || op == 19 then .none else if op == 20 then r.immB .none else r.immB .uSrc
      c := if op == 15 then .uSrc else r.immC
      tyOk := r.tyOk Ty.isScalarAlu
      fmask := if op == 14 then 0x3FF else 0x3F8
      instr := i }

/-- The predicate instructions (R286). -/
def predRow (r : Raw) : Option Row :=
  let g := r.guard; let d := r.d.toNat; let a := r.a.toNat; let b := r.b.toNat
  let ppp (i : Instr) : Option Row :=
    some { d := .lit 7, a := .lit 7, b := .lit 7, tyOk := r.tyZero, fmask := 0x1F8, instr := i }
  let cnt (i : Instr) : Option Row := some { d := .s 1, a := .lit 7, tyOk := r.tyZero, fmask := 0x1F8, instr := i }
  match r.fn 3 6 with
  | 0 => ppp (.pand g d a b)
  | 1 => ppp (.por g d a b)
  | 2 => ppp (.pxor g d a b)
  | 3 => some { d := .lit 7, a := .lit 7, tyOk := r.tyZero, fmask := 0x1F8, instr := .pnot g d a }
  | 4 => cnt (.pany g r.sD a)
  | 5 => cnt (.pall g r.sD a)
  | 6 => cnt (.pcnt g r.sD a)
  | _ => none

/-- Loads and stores (R282, R321, R324, R325). -/
def memRow (r : Raw) (scalar store needScope : Bool) (i : Instr) : Option Row :=
  let x2 := r.fn 3 1 == 1
  let sc := r.fn 6 3
  if sc > 5 || (needScope && sc == 0) then none
  else some
    { d := if scalar then .s 1 else if store then (if x2 then .vs 2 else .vSrc) else .v (if x2 then 2 else 1)
      a := if scalar then .s 1 else .addr
      b := r.immB (if scalar then .uSrc else .vSrc)
      c := r.immC
      tyOk := r.tyZero
      fmask := 0x3F0 ||| (if scalar then 0 else 0x008) ||| (if r.isI then 0 else 0x006) ||| (if store then 0 else 0x001)
      sub2 := (x2 && r.fn 4 2 != 3) || (r.fn 0 1 == 1 && r.fn 4 2 == 3)
      instr := i }

/-- A vector instruction of two sources with an I form (R300). -/
def vRow (r : Raw) (ok : Ty → Bool) (sat : Bool) (i : Instr) : Option Row :=
  some { d := .v 1, a := .vSrc, b := r.immB .vSrc, c := r.immC, tyOk := r.tyOk ok, flt := r.tyD.isFlt
         fmask := 0x200 ||| (if sat && r.tyD.isInt then 0x100 else 0), instr := i }

/-- A vector instruction of one source (R300). -/
def v1Row (r : Raw) (ok : Ty → Bool) (fmask : BitVec 10) (i : Instr) : Option Row :=
  some { d := .v 1, a := .vSrc, tyOk := r.tyOk ok, flt := r.tyD.isFlt, fmask := fmask, instr := i }

/-- A shuffle with a delta, or BCST (R300, R313, R315). -/
def deltaRow (r : Raw) (ok : Ty → Bool) (i : Grp → Instr) : Option Row :=
  (Grp.all[r.fn 7 2]?).map fun gr =>
    { d := .v 1, a := .vSrc, b := r.immB .uSrc, c := r.immC, tyOk := r.tyOk ok, flt := r.tyD.isFlt
      bIndex := true, fmask := 0x380, instr := i gr }

/-- The multiply family (R343). -/
def mmaRow (r : Raw) (fmask : BitVec 10) (mmab : Bool) (i : Instr) : Option Row :=
  some { d := .handle, a := .lit 383, b := if r.isI then .uSrc else .v 8, c := .uSrc, e0 := .uSrc, e1 := .uSrc
         e2 := if mmab then .uSrc else .none, e3 := if mmab then .uSrc else .none
         tyOk := r.tyZero, fmask := fmask, instr := i }

/-- Majors 0x00 to 0x18 but for the B and WAIT forms (R275, R282). -/
def rowScalar (r : Raw) (m : Nat) : Option Row :=
  let g := r.guard
  match m with
  | 0x00 => some { tyOk := r.tyZero, instr := .nop g }
  | 0x01 => aluRow r
  | 0x02 => some { d := .s 1, tyOk := r.tyZero, instr := .sli g r.sD r.w1 }
  | 0x03 => memRow r true false false (.sld g r.memOpt r.sD (r.a.toNat - 320) r.opB)
  | 0x04 => memRow r true true false (.sst g r.memOpt r.sD (r.a.toNat - 320) r.opB)
  | 0x05 => predRow r
  | 0x0C => some { tyOk := r.tyZero, instr := .join g }
  | 0x0E => some { d := .s 1, a := .uSrc, tyOk := r.tyZero, instr := .calli g r.sD r.oA }
  | 0x0F => some { a := .uSrc, tyOk := r.tyZero, instr := .ret g r.oA }
  | 0x10 => some { tyOk := r.tyZero, instr := .exit g }
  | 0x12 => some { d := .s 2, a := .handle, tyOk := r.tyZero, instr := .tstf g r.sD (r.a.toNat - 480) }
  | 0x13 => some { d := .s 1, a := .handle, tyOk := r.tyZero, instr := .canf g r.sD (r.a.toNat - 480) }
  | 0x14 => some { d := .lit 320, a := .lit 383, b := .lit 384, e0 := .uSrc, e1 := .uSrc, tyOk := r.tyZero
                   instr := .yield g r.d.toNat r.a.toNat r.b.toNat r.oE0 r.oE1 }
  | 0x15 => some { d := .s 2, b := r.immB .uSrc, c := r.immC, tyOk := r.tyZero, fmask := 0x200
                   instr := .rget g r.sD r.opB }
  | 0x16 => some { d := .s 1, a := .uSrc, b := .uSrc, tyOk := r.tyZero, instr := .launch g r.sD r.oA r.oB }
  | 0x17 => some { d := .vs 1, a := .rdSpec, tyOk := r.tyZero
                   instr := .srd g (.ofCode r.d) (.ofIndex (r.a.toNat - 448)) }
  | 0x18 => some { d := .wrSpec, a := .uSrc, tyOk := r.tyZero, instr := .swr g (.ofIndex (r.d.toNat - 448)) r.oA }
  | _ => none

/-- Majors 0x20 to 0x44 (R275, R300). -/
def rowVector (r : Raw) (m : Nat) : Option Row :=
  let g := r.guard; let t := r.tyD; let d := r.vD; let a := r.oA; let b := r.opB
  let sat := r.fn 8 1 == 1
  let rm? := Rmo.all[r.fn 5 3]?
  if r.fn 5 3 > 4 then none else
  match m with
  | 0x20 => vRow r Ty.isNum true (.vadd g t sat d a b)
  | 0x21 => vRow r Ty.isNum true (.vsub g t sat d a b)
  | 0x22 => vRow r Ty.isNum true (.vmul g t sat d a b)
  | 0x23 => some { d := .v 1, a := .vSrc, b := .vSrc, c := .vSrc, tyOk := r.tyOk Ty.isNum, flt := t.isFlt
                   instr := .vfma g t d a r.oB r.oC }
  | 0x24 => vRow r Ty.isNum false (.vmin g t d a b)
  | 0x25 => vRow r Ty.isNum false (.vmax g t d a b)
  | 0x26 => v1Row r Ty.isAbs (if t.isInt then 0x100 else 0) (.vabs g t sat d a)
  | 0x27 => v1Row r Ty.isAbs (if t.isInt then 0x100 else 0) (.vneg g t sat d a)
  | 0x28 =>
    match Cond.all[r.fn 0 3]? with
    | none => none
    | some c =>
      if r.fn 3 2 ≥ 2 || (c == .un && t.isInt) then none
      else some { d := .lit 7, a := .vSrc, b := r.immB .vSrc, c := r.immC, tyOk := r.tyOk Ty.isNum, flt := t.isFlt
                  fmask := 0x21F, instr := .vcmp g t c (r.fn 3 2 == 1) d a b }
  | 0x29 => some { d := .v 1, a := .vSrc, b := .vSrc, c := .lit 7, tyOk := r.tyOk fun _ => true, flt := t.isFlt
                   instr := .vsel g t d a r.oB r.c.toNat }
  | 0x2A => vRow r Ty.isLogic false (.vand g t d a b)
  | 0x2B => vRow r Ty.isLogic false (.vor g t d a b)
  | 0x2C => vRow r Ty.isLogic false (.vxor g t d a b)
  | 0x2D => v1Row r Ty.isLogic 0 (.vnot g t d a)
  | 0x2E => vRow r Ty.isShift false (.vshl g t d a b)
  | 0x2F => vRow r Ty.isShift false (.vshr g t d a b)
  | 0x30 => vRow r Ty.isShift false (.vsra g t d a b)
  | 0x31 =>
    let st := r.stype?.getD .b64
    some { d := .v 1, a := .vSrc, tyOk := r.tyOk Ty.isNum && st.isNum, flt := st.isFlt
           fmask := 0x0EF ||| (if t.isInt then 0x100 else 0)
           instr := .vcvt g t st sat (rm?.getD .mode) d a }
  | 0x32 => v1Row r Ty.isFlt 0x0E0 (.vrnd g t (rm?.getD .mode) d a)
  | 0x33 => v1Row r Ty.isFlt 0 (.vrcp g t d a)
  | 0x34 => v1Row r Ty.isFlt 0 (.vrsq g t d a)
  | 0x35 => v1Row r Ty.isFlt 0 (.vsqrt g t d a)
  | 0x36 => some { d := .v 1, a := .vSrc, b := .vSrc, tyOk := r.tyOk Ty.isFlt, flt := true
                   instr := .vdiv g t d a r.oB }
  | 0x37 => v1Row r Ty.isFlt 0 (.vexp2 g t d a)
  | 0x38 => v1Row r Ty.isFlt 0 (.vlog2 g t d a)
  | 0x39 => v1Row r Ty.isFlt 0 (.vsin g t d a)
  | 0x3A => v1Row r Ty.isFlt 0 (.vcos g t d a)
  | 0x3B => v1Row r Ty.isFlt 0 (.vtanh g t d a)
  | 0x3C =>
    let st := r.stype?.getD .b64
    some { d := .v 1, a := .vSrc, b := .vSrc
           tyOk := r.tyOk Ty.isNum && st.isNum && t.count == 2 * st.count, flt := st.isFlt
           fmask := 0x00F ||| (if t.isInt then 0x100 else 0), instr := .vpack g t st sat d a r.oB }
  | 0x3D =>
    let st := r.stype?.getD .b64
    some { d := .v 1, a := .vSrc, b := .vSrc
           tyOk := r.tyOk Ty.isNum && st.isNum && t.count < st.count, flt := st.isFlt, bIndex := true
           fmask := 0x00F, instr := .vunpk g t st d a r.oB }
  | 0x3E => some { d := .v 1, a := .vSrc, b := .vSrc, tyOk := r.tyOk fun _ => true, flt := t.isFlt
                   instr := .vperms g t d a r.oB }
  | 0x3F =>
    if r.lp == 2 then some { d := .v 1, tyOk := r.tyZero, instr := .vmov g t d (.inr r.w1) }
    else some { d := .v 1, a := r.immA .vSrc, b := r.immB .none, c := r.immC, tyOk := r.tyOk fun _ => true
                flt := t.isFlt, fmask := 0x200, instr := .vmov g t d (.inl r.opAi) }
  | 0x40 => vRow r Ty.isInt false (.vmulh g t d a b)
  | 0x41 => v1Row r Ty.isShift 0 (.vpopc g t d a)
  | 0x42 => v1Row r Ty.isShift 0 (.vclz g t d a)
  | 0x43 => vRow r Ty.isScalarAlu false (.vbfx g t d a b)
  | 0x44 => vRow r Ty.isScalarAlu false (.vbfi g t d a b)
  | _ => none

/-- Majors 0x60 to 0x69 (R275, R300). -/
def rowCross (r : Raw) (m : Nat) : Option Row :=
  let g := r.guard; let t := r.tyD; let d := r.vD; let a := r.oA
  let gr? := Grp.all[r.fn 7 2]?
  let isS := 320 ≤ r.d.toNat
  match m with
  | 0x60 =>
    gr?.map fun gr => { d := .v 1, a := .vSrc, b := r.immB (.v (shflRun t)), c := r.immC, tyOk := r.tyOk (· != .b1)
                        flt := t.isFlt, fmask := 0x380, instr := .shfl g t gr d a r.opB }
  | 0x61 => deltaRow r (· != .b1) fun gr => .shflx g t gr d a r.opB
  | 0x62 => deltaRow r (· != .b1) fun gr => .shflup g t gr d a r.opB
  | 0x63 => deltaRow r (· != .b1) fun gr => .shfldn g t gr d a r.opB
  | 0x64 =>
    match gr?, Rop.all[r.fn 4 3]? with
    | some gr, some rop => some { d := .vs 1, a := .vSrc, tyOk := r.tyOk rop.takes, flt := t.isFlt, fmask := 0x1F0
                                  sub7 := isS && gr != .whole, instr := .vred g t rop gr (.ofCode r.d) a }
    | _, _ => none
  | 0x65 =>
    match gr?, Rop.all[r.fn 4 3]? with
    | some gr, some rop => some { d := .v 1, a := .vSrc, tyOk := r.tyOk rop.takes, flt := t.isFlt, fmask := 0x1F8
                                  instr := .vscan g t rop gr (r.fn 3 1 == 1) d a }
    | _, _ => none
  | 0x66 => deltaRow r (fun _ => true) fun gr => .bcst g t gr d a r.opB
  | 0x67 =>
    gr?.map fun gr => { d := if isS then .s 2 else .v 1, a := .lit 7, tyOk := r.tyZero, fmask := 0x180
                        sub7 := isS && gr != .whole, instr := .vballot g gr (.ofCode r.d) r.a.toNat }
  | 0x68 => some { d := .s 1, tyOk := r.tyZero, fmask := 0x007, instr := .split g r.sD (r.fn 0 3) }
  | 0x69 => some { d := .s 1, a := r.immA .uSrc, b := r.immB .none, c := r.immC, tyOk := r.tyZero, fmask := 0x27F
                   instr := .fuse g r.sD (r.fn 0 3) (r.fn 3 4) r.opAi }
  | _ => none

/-- Majors 0x70 to 0x7F (R275, R321). -/
def rowMemory (r : Raw) (m : Nat) : Option Row :=
  let g := r.guard; let t := r.tyD; let d := r.vD; let a := r.oA; let b := r.oB; let c := r.oC
  let mo := r.memOpt
  match m with
  | 0x70 => memRow r false false false (.ld g mo d a r.opB)
  | 0x71 => memRow r false true false (.st g mo (.ofCode r.d) a r.opB)
  | 0x72 => memRow r false false false (.ldv g mo d a r.opB)
  | 0x73 => memRow r false true false (.stv g mo (.ofCode r.d) a r.opB)
  | 0x74 => memRow r false false true (.lda g mo d a r.opB)
  | 0x75 => memRow r false true true (.stl g mo (.ofCode r.d) a r.opB)
  | 0x76 =>
    match Aop.all[r.fn 3 3]?, Ord.all[r.fn 1 2]? with
    | some aop, some ord =>
      if !r.scopeOk then none
      else some { d := r.rvK 1, a := .addr, b := .vSrc, c := if aop == .cas then .vSrc else .none
                  tyOk := r.tyOk aop.takes, flt := t.isFlt, fmask := 0x1FF
                  instr := .atom g t aop ord r.scopeD r.rvD a b c }
    | _, _ => none
  | 0x77 =>
    if !r.scopeOk then none
    else some { d := r.rvK 1, a := .addr, b := .vSrc, c := .vInt, tyOk := r.tyOk fun t => t == .f32 || t == .f64
                flt := t.isFlt, fmask := 0x1C1, instr := .faddd g t r.scopeD r.rvD a b c }
  | 0x78 =>
    if !r.scopeOk then none
    else some { d := r.rvK 1, a := .addr, b := .vSrc, c := .vInt, tyOk := r.tyOk fun t => t == .f32 || t == .f64
                flt := t.isFlt, fmask := 0x1C1, instr := .fdset g t r.scopeD r.rvD a b c }
  | 0x79 =>
    if r.fn 0 1 == 0 then
      if !r.scopeOk then none else some { tyOk := r.tyZero, fmask := 0x1C0, instr := .fence g r.scopeD }
    else if r.fn 6 3 != 0 then none else some { tyOk := r.tyZero, fmask := 0x001, instr := .fenceX g }
  | 0x7A => some { a := .addr, b := .vSrc, tyOk := r.tyZero, instr := .bari g a b }
  | 0x7B => some { a := .addr, b := .vSrc, tyOk := r.tyZero, instr := .bara g a b }
  | 0x7C => some { d := .s 1, a := .sOrConst, b := .uSrc, tyOk := r.tyZero, fmask := 0x001
                   instr := .barw g (r.fn 0 1 == 1) r.sD a b }
  | 0x7D =>
    let n := r.fn 3 2 + 1
    if !r.scopeOk then none
    else some { d := r.rvK n, a := .addr, b := .v n, c := .v n, tyOk := r.tyZero, fmask := 0x1D9
                instr := .rcas4 g r.scopeD n r.rvD a r.b.toNat r.c.toNat }
  | 0x7E =>
    if !r.scopeOk then none
    else some { d := r.rvK 2, a := .addr, b := .vSrc, tyOk := r.tyZero, fmask := 0x1C1
                instr := .renq g r.scopeD r.rvD a b }
  | 0x7F =>
    if !r.scopeOk || r.fn 0 1 == 0 then none
    else some { d := .v 2, a := .addr, b := .uSrc, tyOk := r.tyZero, fmask := 0x1F9
                instr := .rchase g r.scopeD (r.fn 3 3 + 1) d a b }
  | _ => none

/-- The barrier operand of a copy: code 0 names none (R341). -/
def Raw.bar (r : Raw) : Option Operand := if r.e0 = 0 then none else some r.oE0

/-- Majors 0xA0 to 0xA6 (R275, R321, R362). -/
def rowAsync (r : Raw) (m : Nat) : Option Row :=
  let g := r.guard; let d := r.hD; let a := r.oA; let b := r.oB; let c := r.oC
  match m with
  | 0xA0 =>
    some { d := .handle, a := .uSrc, b := .uSrc, c := .uSrc, e0 := .bar, tyOk := r.tyZero
           instr := .copy g (r.lp == 2) d a b c (if r.lp = 2 then r.bar else none) }
  | 0xA1 =>
    some { d := .handle, a := .uSrc, b := .uSrc, c := .uSrc, e0 := .bar, e1 := .s 2, e2 := .s 2, e3 := .s 1
           tyOk := r.tyZero
           instr := .copys g d a b c r.bar (r.e1.toNat - 320) (r.e2.toNat - 320) (r.e3.toNat - 320) }
  | 0xA2 =>
    some { d := .handle, a := .uSrc, b := .uSrc, c := .uSrc, e0 := .bar, e1 := .uSrc, tyOk := r.tyZero, lmask := 1
           instr := .copyx g (r.lit.getLsbD 0) d a b c r.bar r.oE1 }
  | 0xA4 => some { d := .handle, a := .uSrc, b := .uSrc, c := .uSrc, tyOk := r.tyZero, fmask := 0x001
                   instr := .psend g (r.fn 0 1 == 1) d a b c }
  | 0xA5 => some { d := .s 1, a := .uSrc, b := .uSrc, tyOk := r.tyZero, instr := .precv g r.sD a b }
  | 0xA6 =>
    let row (i : Instr) : Option Row :=
      some { d := .handle, a := .uSrc, b := .uSrc, c := .uSrc, e0 := .uSrc, e1 := .uSrc, tyOk := r.tyZero, lmask := 3
             instr := i }
    match (r.lit.extractLsb' 0 2).toNat with
    | 0 => row (.npostWrite g d a b c r.oE0 r.oE1)
    | 1 => row (.npostRead g d a b c r.oE0 r.oE1)
    | 2 => row (.npostSend g d a b c r.oE0 r.oE1)
    | _ => none
  | _ => none

/-- Majors 0xB0 to 0xBA (R275, R343). -/
def rowMatrix (r : Raw) (m : Nat) : Option Row :=
  let g := r.guard; let t := r.tyD; let d := r.hD; let z := r.a.toNat; let b := r.oB; let c := r.oC
  let av := r.isI; let bt := r.fn 2 1 == 1; let zf := r.fn 1 1 == 1
  match m with
  | 0xB0 => some { tyOk := r.tyZero, instr := .mopf g }
  | 0xB1 => mmaRow r 0x204 false (.mma g av bt d z b c r.oE0 r.oE1)
  | 0xB2 => mmaRow r 0x204 false (.mmaz g av bt d z b c r.oE0 r.oE1)
  | 0xB3 => mmaRow r 0x207 true (.mmab g av bt zf (r.fn 0 1 == 1) d z b c r.oE0 r.oE1 r.oE2 r.oE3)
  | 0xB4 => mmaRow r 0x206 false (.mdsq g av bt zf d z b c r.oE0 r.oE1)
  | 0xB5 =>
    some { d := .handle, a := .lit 383, b := .uSrc, c := .uSrc, tyOk := r.tyOk fun t => t == .f32 || t == .i32
           flt := t.isFlt, lmask := 0x3F
           instr := .mtopk g t (r.lit.getLsbD 5) ((r.lit.extractLsb' 0 5).toNat + 1) d z b c }
  | 0xB6 => some { d := .v (mzmvRun t), a := .lit 383, tyOk := r.tyOk Ty.isTile, fmask := 0x001
                   instr := .mzmv g t (r.fn 0 1 == 1) r.vD z }
  | 0xB7 => some { d := .handle, a := .lit 383, b := .uSrc, c := .uSrc, tyOk := r.tyOk Ty.isTile, flt := t.isFlt
                   instr := .mzld g t d z b c }
  | 0xB8 => some { d := .handle, a := .lit 383, b := .uSrc, c := .uSrc, tyOk := r.tyOk Ty.isTile, flt := t.isFlt
                   instr := .mzst g t d z b c }
  | 0xB9 => some { d := .handle, a := .lit 383, b := .uSrc, tyOk := r.tyZero, instr := .mzclr g d z b }
  | 0xBA => some { d := .handle, a := .uSrc, b := .uSrc, c := .uSrc, e0 := .uSrc, e1 := .uSrc, e2 := .uSrc
                   tyOk := r.tyZero, fmask := 0x001
                   instr := .mvn g (r.fn 0 1 == 1) d r.oA b c r.oE0 r.oE1 r.oE2 }
  | _ => none

/-- Majors 0xC0 to 0xD6 (R275, R362). -/
def rowSystem (r : Raw) (m : Nat) : Option Row :=
  let g := r.guard; let t := r.tyD; let a := r.oA; let b := r.oB; let c := r.oC
  match m with
  | 0xC0 => some { d := .lit 7, a := .uSrc, tyOk := r.tyZero, instr := .gbind g r.d.toNat a }
  | 0xC1 => some { d := .v 1, a := .lit 7, b := .addr, c := .uSrc, tyOk := r.tyOk fun _ => true, flt := t.isFlt
                   instr := .ldg g t r.vD r.a.toNat b c }
  | 0xC2 => some { d := .vs 1, a := .lit 7, b := .addr, tyOk := r.tyOk fun _ => true
                   instr := .stg g t (.ofCode r.d) r.a.toNat b }
  | 0xC3 => some { d := .handle, a := .lit 7, b := .uSrc, tyOk := r.tyZero, instr := .hpub g r.hD r.a.toNat b }
  | 0xC4 => some { a := .lit 7, b := .uSrc, tyOk := r.tyZero, instr := .hwait g r.a.toNat b }
  | 0xC8 => some { d := .s 1, a := .uSrc, b := .uSrc, c := .vb, tyOk := r.tyZero, lmask := 0x3FFFFFF
                   instr := .bbegin g r.sD a b r.c.toNat r.lit }
  | 0xC9 => some { d := .lit 63, a := .key, b := .arg, c := .arg, tyOk := r.tyZero, lmask := 0x3FFFFFF
                   instr := .bop g r.d.toNat a b c r.lit }
  | 0xCA => some { tyOk := r.tyZero, instr := .bret g }
  | 0xCB => some { tyOk := r.tyZero, instr := .bcommit g }
  | 0xCC => some { tyOk := r.tyZero, fmask := 0x0FF, instr := .babort g (r.fn 0 8) }
  | 0xCD => some { d := .s 1, a := .uSrc, tyOk := r.tyZero, instr := .bstat g r.sD a }
  | 0xCE => some { a := .uSrc, tyOk := r.tyZero, fmask := 0x001
                   instr := if r.fn 0 1 == 0 then .bctlLoad g a else .bctlVerdict g a }
  | 0xD0 => some { tyOk := r.tyZero, fmask := 0x0FF, instr := .trap g (r.fn 0 8) }
  | 0xD1 => some { tyOk := r.tyZero, fmask := 0x001, instr := .rft g (r.fn 0 1 == 1) }
  | 0xD2 => some { a := .uSrc, b := .uSrc, tyOk := r.tyZero, instr := .tlbi g a b }
  | 0xD3 => some { tyOk := r.tyZero, instr := .halt g }
  | 0xD4 => some { tyOk := r.tyZero, instr := .bkpt g }
  | 0xD5 => some { d := .s 1, a := .uSrc, tyOk := r.tyZero, instr := .ctxs g r.sD a }
  | 0xD6 => some { a := .uSrc, tyOk := r.tyZero, instr := .ctxl g a }
  | _ => none

/-- The row of a first word, or none where an OP, COND, ROP, AOP, SCOPE or RMO value is unassigned (R279, SUB 1). -/
def rowOf (r : Raw) : Option Row :=
  let m := r.major.toNat
  if m < 0x20 then rowScalar r m
  else if m < 0x60 then rowVector r m
  else if m < 0x70 then rowCross r m
  else if m < 0x80 then rowMemory r m
  else if m < 0xB0 then rowAsync r m
  else if m < 0xC0 then rowMatrix r m
  else rowSystem r m

/-! ### The checks, in the order of R279 -/

/-- The field and its kind, for every field of the words. -/
def Row.fields (row : Row) (r : Raw) : List (Kind × BitVec 9) :=
  let first := [(row.d, r.d), (row.a, r.a), (row.b, r.b), (row.c, r.c)]
  if r.lp == 2 && (formsOf r.major.toNat).any (·.e) then
    first ++ [(row.e0, r.e0), (row.e1, r.e1), (row.e2, r.e2), (row.e3, r.e3)]
  else first

/-- A field names %utcause or %utpc (R267, SUB 6). -/
def namesPriv (fs : List (Kind × BitVec 9)) : Bool :=
  fs.any fun f => f.1.isCode && (f.2 == 476 || f.2 == 477)

/-- HALT, CTXS and CTXL (R279, SUB 6). -/
def isPrivMajor (m : Nat) : Bool := m == 0xD3 || m == 0xD5 || m == 0xD6

def usesReserved (fs : List (Kind × BitVec 9)) : Bool := fs.any fun f => f.1.isCode && 496 ≤ f.2.toNat

def unusedNonzero (row : Row) (r : Raw) (fs : List (Kind × BitVec 9)) : Bool :=
  fs.any (fun f => f.1 == .none && f.2 != 0) || r.func &&& ~~~row.fmask != 0 ||
  (r.lp == 2 && (formsOf r.major.toNat).any (·.e) && r.lit &&& ~~~row.lmask != 0) || row.sub2

def badField (row : Row) (r : Raw) (fs : List (Kind × BitVec 9)) : Bool :=
  !r.guard.wf || row.sub7 ||
  fs.any (fun f => !f.1.accepts (row.flt && !(row.bIndex && f.2 == r.b && f.1 == row.b)) f.2)

/-- W, I, L and E forms (R279). -/
def decodeRow (row : Row) (r : Raw) : Instr :=
  let fs := row.fields r
  let priv := isPrivMajor r.major.toNat || namesPriv fs
  if !row.tyOk then .illegalInstruction 4 priv
  else if usesReserved fs then .illegalInstruction 3 priv
  else if unusedNonzero row r fs then .illegalInstruction 2 priv
  else if badField row r fs then .illegalInstruction 7 priv
  else row.instr

/-- The B form (R270, R272): BRA, BRU, BRC, BRX, CALL. -/
def decodeBranch (r : Raw) (m : Nat) : Instr :=
  let w := r.word
  let g := r.guard
  let td : BitVec 18 := w.extractLsb' 14 18
  let jd : BitVec 18 := w.extractLsb' 32 18
  let bp := (w.extractLsb' 11 3 : BitVec 3).toNat
  let bs := (w.extractLsb' 10 1 : BitVec 1) == 1
  let noPred := r.ty == 0
  let noJoin := jd == 0
  let bad2 : Bool :=
    match m with
    | 0x08 => !(noPred && noJoin && r.func == 0)
    | 0x09 => !(noJoin && r.func == 0)
    | 0x0A => !(r.func == 0)
    | 0x0B => !(noPred && noJoin && r.func &&& 0x3E0 == 0)
    | _ => !(noPred && r.a == 0 && r.func == 0)
  let priv := m == 0x0D && namesPriv [(.s 1, r.d)]
  if m == 0x0D && 496 ≤ r.d.toNat then .illegalInstruction 3 false
  else if bad2 then .illegalInstruction 2 priv
  else if !g.wf || (m == 0x0B && r.fn 0 5 == 0) || (m == 0x0D && !(Kind.s 1).accepts false r.d) then
    .illegalInstruction 7 priv
  else
    match m with
    | 0x08 => .bra g td
    | 0x09 => .bru g bp bs td
    | 0x0A => .brc g bp bs td jd
    | 0x0B => .brx g (r.fn 0 5) td
    | _ => .call g r.sD td

/-- The WAIT form (R271). -/
def decodeWait (r : Raw) : Instr :=
  let w := r.word
  if (w.extractLsb' 0 29 : BitVec 29) != 0 then .illegalInstruction 2 false
  else if !r.guard.wf then .illegalInstruction 7 false
  else .wait r.guard (w.bits 44 6) (w.bits 38 6) (w.bits 33 5) (w.bits 29 4)

/-- The instruction of the words at an instruction start (R263 to R279). -/
def decodeRaw (r : Raw) : Instr :=
  let m := r.major.toNat
  if r.lp = 3 then .illegalInstruction 5 false
  else
    match formsOf m with
    | none => .illegalInstruction 1 false
    | some f =>
      if r.lp == 2 && f.e && r.mark != 3 then .illegalInstruction 5 false
      else if formRefused f r then .illegalInstruction 1 false
      else if f.b then decodeBranch r m
      else if f.t then decodeWait r
      else
        match rowOf r with
        | none => .illegalInstruction 1 false
        | some row => decodeRow row r

/-- A decoded instruction start: the instruction, whether LP marks a pair (R263), and how many words it has. -/
structure Decoded where
  instr : Instr
  pair : Bool
  words : Nat
deriving DecidableEq, Repr

/-- LP = 0b10: a second word belongs to the instruction (R263). -/
def needsSecond (w0 : Word) : Bool := w0.extractLsb' 62 2 == (2 : BitVec 2)

def decode (w0 w1 : Word) : Decoded where
  instr := decodeRaw (Raw.ofWords w0 w1)
  pair := w0.extractLsb' 62 2 == (1 : BitVec 2)
  words := if needsSecond w0 then 2 else 1

/-- Too few bytes for the words of an instruction. -/
inductive DecodeError where
  | short
deriving DecidableEq, Repr

/-- Decoding bytes in memory order (R2, R262): the instruction and the bytes after it, or the name of the refusal. -/
def decodeBytes (bs : List Byte) : Except DecodeError (Decoded × List Byte) :=
  if bs.length < 8 then .error .short
  else
    let w0 := BitVec.ofNat 64 (leNat (bs.take 8))
    let rest := bs.drop 8
    if needsSecond w0 then
      if rest.length < 8 then .error .short
      else .ok (decode w0 (BitVec.ofNat 64 (leNat (rest.take 8))), rest.drop 8)
    else .ok (decode w0 0, rest)

/-- The host's reading of a table row: bits as the table numbers them, zero above `nbits`. -/
def decodeTableWord (nbits w : Nat) : Option Instr :=
  let x := w % 2 ^ nbits
  match decodeBytes (leBytes 16 x) with
  | .ok (d, _) => some d.instr
  | .error _ => none

/-! ### The encoder -/

/-- B and C and FUNC [9] of a source that may be IMM (R270). -/
def encB (b : Operand) : BitVec 9 × BitVec 9 × BitVec 10 :=
  match b with
  | .imm x => (x.extractLsb' 9 9, x.extractLsb' 0 9, 0x200)
  | o => (o.code, 0, 0)

/-- A, B, C and FUNC [9] where IMM takes A's place (R283, R300). -/
def encA (a : Operand) : BitVec 9 × BitVec 9 × BitVec 9 × BitVec 10 :=
  match a with
  | .imm x => (0, x.extractLsb' 9 9, x.extractLsb' 0 9, 0x200)
  | o => (o.code, 0, 0, 0)

def w1Of (lp : BitVec 2) (m : BitVec 8) (g : Guard) (d a b c : BitVec 9) (t f : Nat) : Word :=
  word0 lp m (BitVec.ofNat 3 g.p) (BitVec.ofBool g.neg) d a b c (BitVec.ofNat 4 t) (BitVec.ofNat 10 f)

/-- A single word. -/
def one (m : BitVec 8) (g : Guard) (d a b c : BitVec 9) (t f : Nat) : List Word := [w1Of 0 m g d a b c t f]

/-- Two words: a first word and its extension block or immediate. -/
def two (m : BitVec 8) (g : Guard) (d a b c : BitVec 9) (t f : Nat) (x : Word) : List Word := [w1Of 2 m g d a b c t f, x]

/-- A single word whose B may be IMM. -/
def oneB (m : BitVec 8) (g : Guard) (d a : BitVec 9) (b : Operand) (t f : Nat) : List Word :=
  let (x, y, i) := encB b
  one m g d a x y t (f + i.toNat)

/-- A single word whose A may be IMM. -/
def oneA (m : BitVec 8) (g : Guard) (d : BitVec 9) (a : Operand) (t f : Nat) : List Word :=
  let (x, y, z, i) := encA a
  one m g d x y z t (f + i.toNat)

def vc (n : Nat) : BitVec 9 := BitVec.ofNat 9 n
def sc (n : Nat) : BitVec 9 := BitVec.ofNat 9 (320 + n)
def hc (n : Nat) : BitVec 9 := BitVec.ofNat 9 (480 + n)
def spc (r : Spec) : BitVec 9 := BitVec.ofNat 9 (448 + r.index)
def bit (b : Bool) (n : Nat) : Nat := if b then 2 ^ n else 0

def aluEnc (op : Nat) (g : Guard) (t : Ty) (d : Nat) (a b : Operand) : List Word :=
  oneB 0x01 g (sc d) a.code b t.code (8 * op)

def MemOpt.func (m : MemOpt) : Nat :=
  64 * m.scope.ctorIdx + 16 * m.sz + bit m.x2 3 + 2 * m.sc + bit m.sx 0

/-- D and RV of an atomic (R274). -/
def rvCode (d : Option Nat) : BitVec 9 := vc (d.getD 0)
def rvBit (d : Option Nat) : Nat := bit d.isSome 0

def barCode : Option Operand → BitVec 9
  | none => 0
  | some o => o.code

/-- The B form (R270). -/
def branch (m : BitVec 8) (g : Guard) (hi : BitVec 18) (td : BitVec 18) (bp : Nat) (bs : Bool) (f : Nat) : List Word :=
  [w1Of 0 m g (hi.extractLsb' 9 9) (hi.extractLsb' 0 9) (td.extractLsb' 9 9) (td.extractLsb' 0 9)
    (2 * bp + bit bs 0) f]

/-- The words of an instruction, unpaired, in memory order; an event has none. -/
def encode : Instr → List Word
  | .nop g => one 0x00 g 0 0 0 0 0 0
  | .sadd g t d a b => aluEnc 0 g t d a b
  | .ssub g t d a b => aluEnc 1 g t d a b
  | .smul g t d a b => aluEnc 2 g t d a b
  | .smulh g t d a b => aluEnc 3 g t d a b
  | .sdiv g t d a b => aluEnc 4 g t d a b
  | .srem g t d a b => aluEnc 5 g t d a b
  | .sand g t d a b => aluEnc 6 g t d a b
  | .sor g t d a b => aluEnc 7 g t d a b
  | .sxor g t d a b => aluEnc 8 g t d a b
  | .sshl g t d a b => aluEnc 9 g t d a b
  | .sshr g t d a b => aluEnc 10 g t d a b
  | .ssra g t d a b => aluEnc 11 g t d a b
  | .smin g t d a b => aluEnc 12 g t d a b
  | .smax g t d a b => aluEnc 13 g t d a b
  | .scmp g t c d a b => oneB 0x01 g (sc d) a.code b t.code (8 * 14 + c.ctorIdx)
  | .ssel g t d a b c => one 0x01 g (sc d) a.code b.code c.code t.code (8 * 15)
  | .sbfx g t d a b => aluEnc 16 g t d a b
  | .sbfi g t d a b => aluEnc 17 g t d a b
  | .spopc g t d a => one 0x01 g (sc d) a.code 0 0 t.code (8 * 18)
  | .sclz g t d a => one 0x01 g (sc d) a.code 0 0 t.code (8 * 19)
  | .smov g t d a => oneA 0x01 g (sc d) a t.code (8 * 20)
  | .sli g d x => two 0x02 g (sc d) 0 0 0 0 0 x
  | .sld g m d a b => oneB 0x03 g (sc d) (sc a) b 0 m.func
  | .sst g m d a b => oneB 0x04 g (sc d) (sc a) b 0 m.func
  | .pand g d a b => one 0x05 g (vc d) (vc a) (vc b) 0 0 0
  | .por g d a b => one 0x05 g (vc d) (vc a) (vc b) 0 0 8
  | .pxor g d a b => one 0x05 g (vc d) (vc a) (vc b) 0 0 16
  | .pnot g d a => one 0x05 g (vc d) (vc a) 0 0 0 24
  | .pany g d a => one 0x05 g (sc d) (vc a) 0 0 0 32
  | .pall g d a => one 0x05 g (sc d) (vc a) 0 0 0 40
  | .pcnt g d a => one 0x05 g (sc d) (vc a) 0 0 0 48
  | .srd g d r => one 0x17 g d.code (spc r) 0 0 0 0
  | .swr g r a => one 0x18 g (spc r) a.code 0 0 0 0
  | .bra g td => branch 0x08 g 0 td 0 false 0
  | .bru g bp bs td => branch 0x09 g 0 td bp bs 0
  | .brc g bp bs td jd => branch 0x0A g jd td bp bs 0
  | .brx g k td => branch 0x0B g 0 td 0 false k
  | .join g => one 0x0C g 0 0 0 0 0 0
  | .call g d td => [w1Of 0 0x0D g (sc d) 0 (td.extractLsb' 9 9) (td.extractLsb' 0 9) 0 0]
  | .calli g d a => one 0x0E g (sc d) a.code 0 0 0 0
  | .ret g a => one 0x0F g 0 a.code 0 0 0 0
  | .exit g => one 0x10 g 0 0 0 0 0 0
  | .wait g l m n o =>
    let x : BitVec 50 := BitVec.ofNat 6 l ++ BitVec.ofNat 6 m ++ BitVec.ofNat 5 n ++ BitVec.ofNat 4 o ++ (0 : BitVec 29)
    [w1Of 0 0x11 g (x.extractLsb' 41 9) (x.extractLsb' 32 9) (x.extractLsb' 23 9) (x.extractLsb' 14 9) 0 0]
  | .tstf g d f => one 0x12 g (sc d) (hc f) 0 0 0 0
  | .canf g d f => one 0x13 g (sc d) (hc f) 0 0 0 0
  | .yield g n zf zc b c => two 0x14 g (vc n) (vc zf) (vc zc) 0 0 0 (extWord b.code c.code 0 0 0)
  | .rget g d b => oneB 0x15 g (sc d) 0 b 0 0
  | .launch g d a b => one 0x16 g (sc d) a.code b.code 0 0 0
  | .vadd g t s d a b => oneB 0x20 g (vc d) a.code b t.code (bit s 8)
  | .vsub g t s d a b => oneB 0x21 g (vc d) a.code b t.code (bit s 8)
  | .vmul g t s d a b => oneB 0x22 g (vc d) a.code b t.code (bit s 8)
  | .vfma g t d a b c => one 0x23 g (vc d) a.code b.code c.code t.code 0
  | .vmin g t d a b => oneB 0x24 g (vc d) a.code b t.code 0
  | .vmax g t d a b => oneB 0x25 g (vc d) a.code b t.code 0
  | .vabs g t s d a => one 0x26 g (vc d) a.code 0 0 t.code (bit s 8)
  | .vneg g t s d a => one 0x27 g (vc d) a.code 0 0 t.code (bit s 8)
  | .vcmp g t c any p a b => oneB 0x28 g (vc p) a.code b t.code (bit any 3 + c.ctorIdx)
  | .vsel g t d a b p => one 0x29 g (vc d) a.code b.code (vc p) t.code 0
  | .vand g t d a b => oneB 0x2A g (vc d) a.code b t.code 0
  | .vor g t d a b => oneB 0x2B g (vc d) a.code b t.code 0
  | .vxor g t d a b => oneB 0x2C g (vc d) a.code b t.code 0
  | .vnot g t d a => one 0x2D g (vc d) a.code 0 0 t.code 0
  | .vshl g t d a b => oneB 0x2E g (vc d) a.code b t.code 0
  | .vshr g t d a b => oneB 0x2F g (vc d) a.code b t.code 0
  | .vsra g t d a b => oneB 0x30 g (vc d) a.code b t.code 0
  | .vcvt g t u s rm d a => one 0x31 g (vc d) a.code 0 0 t.code (bit s 8 + 32 * rm.ctorIdx + u.code)
  | .vrnd g t rm d a => one 0x32 g (vc d) a.code 0 0 t.code (32 * rm.ctorIdx)
  | .vrcp g t d a => one 0x33 g (vc d) a.code 0 0 t.code 0
  | .vrsq g t d a => one 0x34 g (vc d) a.code 0 0 t.code 0
  | .vsqrt g t d a => one 0x35 g (vc d) a.code 0 0 t.code 0
  | .vdiv g t d a b => one 0x36 g (vc d) a.code b.code 0 t.code 0
  | .vexp2 g t d a => one 0x37 g (vc d) a.code 0 0 t.code 0
  | .vlog2 g t d a => one 0x38 g (vc d) a.code 0 0 t.code 0
  | .vsin g t d a => one 0x39 g (vc d) a.code 0 0 t.code 0
  | .vcos g t d a => one 0x3A g (vc d) a.code 0 0 t.code 0
  | .vtanh g t d a => one 0x3B g (vc d) a.code 0 0 t.code 0
  | .vpack g t u s d a b => one 0x3C g (vc d) a.code b.code 0 t.code (bit s 8 + u.code)
  | .vunpk g t u d a b => one 0x3D g (vc d) a.code b.code 0 t.code u.code
  | .vperms g t d a b => one 0x3E g (vc d) a.code b.code 0 t.code 0
  | .vmov g t d (.inl a) => oneA 0x3F g (vc d) a t.code 0
  | .vmov g t d (.inr x) => two 0x3F g (vc d) 0 0 0 t.code 0 x
  | .vmulh g t d a b => oneB 0x40 g (vc d) a.code b t.code 0
  | .vpopc g t d a => one 0x41 g (vc d) a.code 0 0 t.code 0
  | .vclz g t d a => one 0x42 g (vc d) a.code 0 0 t.code 0
  | .vbfx g t d a b => oneB 0x43 g (vc d) a.code b t.code 0
  | .vbfi g t d a b => oneB 0x44 g (vc d) a.code b t.code 0
  | .shfl g t gr d a b => oneB 0x60 g (vc d) a.code b t.code (128 * gr.ctorIdx)
  | .shflx g t gr d a b => oneB 0x61 g (vc d) a.code b t.code (128 * gr.ctorIdx)
  | .shflup g t gr d a b => oneB 0x62 g (vc d) a.code b t.code (128 * gr.ctorIdx)
  | .shfldn g t gr d a b => oneB 0x63 g (vc d) a.code b t.code (128 * gr.ctorIdx)
  | .vred g t rop gr d a => one 0x64 g d.code a.code 0 0 t.code (128 * gr.ctorIdx + 16 * rop.ctorIdx)
  | .vscan g t rop gr exc d a =>
    one 0x65 g (vc d) a.code 0 0 t.code (128 * gr.ctorIdx + 16 * rop.ctorIdx + bit exc 3)
  | .bcst g t gr d a b => oneB 0x66 g (vc d) a.code b t.code (128 * gr.ctorIdx)
  | .vballot g gr d p => one 0x67 g d.code (vc p) 0 0 0 (128 * gr.ctorIdx)
  | .split g d f => one 0x68 g (sc d) 0 0 0 0 f
  | .fuse g d f tag lim => oneA 0x69 g (sc d) lim 0 (8 * tag + f)
  | .ld g m d a b => oneB 0x70 g (vc d) a.code b 0 m.func
  | .st g m d a b => oneB 0x71 g d.code a.code b 0 m.func
  | .ldv g m d a b => oneB 0x72 g (vc d) a.code b 0 m.func
  | .stv g m d a b => oneB 0x73 g d.code a.code b 0 m.func
  | .lda g m d a b => oneB 0x74 g (vc d) a.code b 0 m.func
  | .stl g m d a b => oneB 0x75 g d.code a.code b 0 m.func
  | .atom g t aop ord scope d a b c =>
    one 0x76 g (rvCode d) a.code b.code c.code t.code
      (64 * scope.ctorIdx + 8 * aop.ctorIdx + 2 * ord.ctorIdx + rvBit d)
  | .faddd g t scope d a b c =>
    one 0x77 g (rvCode d) a.code b.code c.code t.code (64 * scope.ctorIdx + rvBit d)
  | .fdset g t scope d a b c =>
    one 0x78 g (rvCode d) a.code b.code c.code t.code (64 * scope.ctorIdx + rvBit d)
  | .fence g scope => one 0x79 g 0 0 0 0 0 (64 * scope.ctorIdx)
  | .fenceX g => one 0x79 g 0 0 0 0 0 1
  | .bari g a b => one 0x7A g 0 a.code b.code 0 0 0
  | .bara g a b => one 0x7B g 0 a.code b.code 0 0 0
  | .barw g e d a b => one 0x7C g (sc d) a.code b.code 0 0 (bit e 0)
  | .rcas4 g scope n d a b c =>
    one 0x7D g (rvCode d) a.code (vc b) (vc c) 0 (64 * scope.ctorIdx + 8 * (n - 1) + rvBit d)
  | .renq g scope d a b => one 0x7E g (rvCode d) a.code b.code 0 0 (64 * scope.ctorIdx + rvBit d)
  | .rchase g scope h d a b => one 0x7F g (vc d) a.code b.code 0 0 (64 * scope.ctorIdx + 8 * (h - 1) + 1)
  | .copy g ext d a b c bar =>
    if ext then two 0xA0 g (hc d) a.code b.code c.code 0 0 (extWord (barCode bar) 0 0 0 0)
    else one 0xA0 g (hc d) a.code b.code c.code 0 0
  | .copys g d a b c bar e1 e2 e3 =>
    two 0xA1 g (hc d) a.code b.code c.code 0 0 (extWord (barCode bar) (sc e1) (sc e2) (sc e3) 0)
  | .copyx g wide d a b c bar e1 =>
    two 0xA2 g (hc d) a.code b.code c.code 0 0
      (extWord (barCode bar) e1.code 0 0 (BitVec.ofNat 26 (bit wide 0)))
  | .psend g mc d a b c => one 0xA4 g (hc d) a.code b.code c.code 0 (bit mc 0)
  | .precv g d a b => one 0xA5 g (sc d) a.code b.code 0 0 0
  | .npostWrite g d a b c e0 e1 => two 0xA6 g (hc d) a.code b.code c.code 0 0 (extWord e0.code e1.code 0 0 0)
  | .npostRead g d a b c e0 e1 => two 0xA6 g (hc d) a.code b.code c.code 0 0 (extWord e0.code e1.code 0 0 1)
  | .npostSend g d a b c e0 e1 => two 0xA6 g (hc d) a.code b.code c.code 0 0 (extWord e0.code e1.code 0 0 2)
  | .mopf g => one 0xB0 g 0 0 0 0 0 0
  | .mma g av bt d z b c fb geo =>
    two 0xB1 g (hc d) (vc z) b.code c.code 0 (bit av 9 + bit bt 2) (extWord fb.code geo.code 0 0 0)
  | .mmaz g av bt d z b c fb geo =>
    two 0xB2 g (hc d) (vc z) b.code c.code 0 (bit av 9 + bit bt 2) (extWord fb.code geo.code 0 0 0)
  | .mmab g av bt zf walk d z b c fb geo bstr tab =>
    two 0xB3 g (hc d) (vc z) b.code c.code 0 (bit av 9 + bit bt 2 + bit zf 1 + bit walk 0)
      (extWord fb.code geo.code bstr.code tab.code 0)
  | .mdsq g av bt zf d z b c fb geo =>
    two 0xB4 g (hc d) (vc z) b.code c.code 0 (bit av 9 + bit bt 2 + bit zf 1) (extWord fb.code geo.code 0 0 0)
  | .mtopk g t max k d z b c =>
    two 0xB5 g (hc d) (vc z) b.code c.code t.code 0 (extWord 0 0 0 0 (BitVec.ofNat 26 (bit max 5 + (k - 1))))
  | .mzmv g t into d z => one 0xB6 g (vc d) (vc z) 0 0 t.code (bit into 0)
  | .mzld g t d z b c => one 0xB7 g (hc d) (vc z) b.code c.code t.code 0
  | .mzst g t d z b c => one 0xB8 g (hc d) (vc z) b.code c.code t.code 0
  | .mzclr g d z b => one 0xB9 g (hc d) (vc z) b.code 0 0 0
  | .mvn g acc d a b c fb geo pitch =>
    two 0xBA g (hc d) a.code b.code c.code 0 (bit acc 0) (extWord fb.code geo.code pitch.code 0 0)
  | .gbind g slot a => one 0xC0 g (vc slot) a.code 0 0 0 0
  | .ldg g t d slot b c => one 0xC1 g (vc d) (vc slot) b.code c.code t.code 0
  | .stg g t d slot b => one 0xC2 g d.code (vc slot) b.code 0 t.code 0
  | .hpub g d slot b => one 0xC3 g (hc d) (vc slot) b.code 0 0 0
  | .hwait g slot b => one 0xC4 g 0 (vc slot) b.code 0 0 0
  | .bbegin g d a b vb disp => two 0xC8 g (sc d) a.code b.code (vc vb) 0 0 (extWord 0 0 0 0 disp)
  | .bop g k a b c disp => two 0xC9 g (vc k) a.code b.code c.code 0 0 (extWord 0 0 0 0 disp)
  | .bret g => one 0xCA g 0 0 0 0 0 0
  | .bcommit g => one 0xCB g 0 0 0 0 0 0
  | .babort g u => one 0xCC g 0 0 0 0 0 u
  | .bstat g d a => one 0xCD g (sc d) a.code 0 0 0 0
  | .bctlLoad g a => one 0xCE g 0 a.code 0 0 0 0
  | .bctlVerdict g a => one 0xCE g 0 a.code 0 0 0 1
  | .trap g n => one 0xD0 g 0 0 0 0 0 n
  | .rft g skip => one 0xD1 g 0 0 0 0 0 (bit skip 0)
  | .tlbi g a b => one 0xD2 g 0 a.code b.code 0 0 0
  | .halt g => one 0xD3 g 0 0 0 0 0 0
  | .bkpt g => one 0xD4 g 0 0 0 0 0 0
  | .ctxs g d a => one 0xD5 g (sc d) a.code 0 0 0 0
  | .ctxl g a => one 0xD6 g 0 a.code 0 0 0 0
  | _ => []

/-- The instruction that the encoder's words decode to. -/
def decodeWords : List Word → Option Instr
  | [w0] => if needsSecond w0 then none else some (decode w0 0).instr
  | [w0, w1] => if needsSecond w0 then some (decode w0 w1).instr else none
  | _ => none

end Sys2Proof
end

