-- ==== Sys2Proof/Machine/State.lean ====
section
/-! DEFINITION. The state of one N1 module as plain data, its faults and refusals, and the state after reset. Every piece of
state that the spec names has a field (INVENTORY.md lists them with their rules). -/

namespace Sys2Proof.Machine

/-- Why a step stops with a fault. -/
inductive Fault where
  /-- Raised by no step of this model: every event and instruction has its effect or none. Safe. -/
  | none
deriving DecidableEq, Repr

/-- Why a step has no meaning. -/
inductive Refusal where
  /-- Raised by `exec` for a row whose meaning is not written. Safe: nothing is claimed of it. -/
  | notModelled (mnemonic : String)
deriving DecidableEq, Repr

/-- A sparse table by number: keys strictly rising, no entry equal to what an unlisted key reads as. -/
abbrev KMap (β : Type) := List (Nat × β)

/-- Bytes by address in the same form (an unlisted byte reads 0). -/
abbrev Memory := List Host.Cell

/-! ### Start-up and power (01_module.md) -/

/-- Start-up states (R21). -/
inductive Start where
  | off | bist | operational | safe | minimal
deriving DecidableEq, Repr

/-- The power register, MCMD and the status page (R14, R21, R23 to R25). -/
structure Power where
  start : Start
  fails : Nat
  cur : BitVec 2
  req : BitVec 2
  busy : Bool
  refused : Bool
  twarn : Bool
  thalt : Bool
  target : Option (BitVec 2)      -- the state a transition in progress enters
  haltUs : Nat                    -- us spent in thermal halt, which many bounds leave out
  mcmdRefused : Bool
  mcmdBusy : Bool
  records : List (List Word)      -- the last three failed attempts, most recent first
deriving DecidableEq, Repr

/-! ### Links (02_links.md) -/

/-- One flit of a packet as sent in a frame (R32): its flit sequence and its place in the packet. -/
structure Frame where
  seq : BitVec 12
  pkt : Packet
  flit : Nat
deriving DecidableEq, Repr

/-- A fabric port (R29 to R32). Credits are kept for each virtual channel. `out` is what it has put on the wire, `ctl` the replay requests it has sent. -/
structure Port where
  up : Bool
  noCredit : Bool                 -- it has had no credit for 2 us (R30)
  full : List Nat                 -- virtual channels without credit (R31): 3 * class + hop - 1; class 0 request, 1 response, 2 control
  txSeq : BitVec 12
  rxSeq : BitVec 12
  replay : List Frame
  replays : List Nat              -- times of its replays, in us
  out : List Frame
  ctl : List (BitVec 12)
deriving DecidableEq, Repr

/-- MODCFG and the ports (R29). -/
structure Links where
  coord : BitVec 8
  sp30 : BitVec 8
  sp31 : BitVec 8
  refused : Bool
  ports : List Port
deriving DecidableEq, Repr

/-- Who waits for the answer to a request packet. -/
inductive Origin where
  | none
  | lane (warp op lane : Nat)
  | copy (id beat : Nat)
  | psend (warp f : Nat)
  | post (id off : Nat)
  | face (publish face : Nat)
deriving DecidableEq, Repr

/-- OWNER and KEY of a stage-2 entry (R73): whose generation a line's tag is held against (R79), and the key index under which the base
die reads and writes the line (R78). -/
structure Owner where
  id : Nat
  key : Nat
deriving DecidableEq, Repr

/-- Where a byte run of an access lies once resolved (R134, R74): HBM with the owner of the stage-2 entry, host memory,
a core's vault, or pod space. -/
inductive Place where
  | hbm (pa : Nat) (owner : Owner)
  | host (addr : Nat)
  | vault (core off : Nat)
  | pod (vch off : Nat)
deriving DecidableEq, Repr

/-- A payload that an engine reads after the issue: where, and the operations of the warp that go before the read: those before its issue
in program order (R190), and every one below a number (R191, R376). -/
structure LateRead where
  place : Place
  addr : Word                     -- the address behind the place (R77)
  len : Nat
  after : List Nat
  xfence : Nat
deriving DecidableEq, Repr

/-- A request as the core hands it to the source fabric interface unit, before its header is built (R46). -/
structure Request where
  typ : Nat
  offset : Nat
  aop : Nat
  atype : Nat
  bytes : Nat
  mset : Nat
  mc : Bool
  oparg : Nat
  imm : Word
  payload : List Byte
  origin : Origin
  late : Option LateRead
deriving DecidableEq, Repr

/-- A request that has left, kept until an ACK covers its SEQ (R39), with the path it took. -/
structure Sent where
  seq : Nat
  pkt : Packet
  loopback : Bool
  port : Nat
  origin : Origin
  age : Nat                       -- us on its timer (R407)
deriving DecidableEq, Repr

/-- A stream frozen at its source: fault code, first unexecuted SEQ, whether frozen locally (R40, R57, R407). -/
structure SrcFreeze where
  code : Nat
  seq : Nat
  isLocal : Bool
deriving DecidableEq, Repr

/-- An ordering stream at its source (R36, R38 to R40). `resend` holds the SEQs that a RESUME sends again, in
order; `await` the reads and agent operations that have been acknowledged and not answered. -/
structure SrcStream where
  id : StreamId
  guest : Nat
  nextSeq : Nat
  wrapped : Bool                  -- SEQ reached its end: waits for the key to move (R36)
  queued : List Request
  resend : List Nat
  sent : List Sent
  await : List (Nat × Origin)
  frozen : Option SrcFreeze
deriving DecidableEq, Repr

/-- The name of a stream at its destination (R38): destination slot, source guest vchip, STREAM. -/
structure DstId where
  slot : Nat
  svch : Nat
  stream : Nat
deriving DecidableEq, Repr

/-- A stream frozen at its destination; `told` once FREEZE has been sent (R86); `msg` where a packet for the message ring was refused
(R65). -/
structure DstFreeze where
  code : Nat
  seq : Nat
  told : Bool
  msg : Bool
deriving DecidableEq, Repr

/-- A remote operation at work at its homes, one access at a time (R334, R335): the packet and its port, the next access's number,
where it goes, and what the earlier ones found. -/
structure AgentJob where
  port : Nat
  pkt : Packet
  step : Nat
  place : Place
  found : Word
deriving DecidableEq, Repr

/-- An ordering stream at its destination (R38, R40). -/
structure DstStream where
  id : DstId
  guest : Nat
  expected : Nat
  held : List (Nat × Packet)      -- early arrivals with their port; 32 is the loopback path
  frozen : Option DstFreeze
  last : Option Packet            -- the last packet that arrived: where answers go
  job : Option AgentJob           -- a remote operation at work: the packets after it wait
deriving DecidableEq, Repr

/-- A response or control packet that waits to be sent (R51). -/
structure OutPkt where
  pkt : Packet
  keyix : Nat
  loopback : Bool
  pin : Bool
deriving DecidableEq, Repr

/-! ### Guest tables (03_virtual_pod.md) -/

/-- A multicast set (R48). -/
structure MSet where
  v : Bool
  members : List Nat
deriving DecidableEq, Repr

/-- A guest known on the module: the header's GUEST field and pod size, vchip map, route labels, multicast sets (R45 to R48). -/
structure Guest where
  ident : Nat
  nvch : Nat
  vmap : KMap Word
  labels : KMap (BitVec 32)
  msets : KMap MSet
deriving DecidableEq, Repr

/-- A key-store entry (R50, R52) with the previous key and each end's return counter (R36). -/
structure Key where
  w0 : Word
  epoch : BitVec 32
  key : BitVec 256
  nkey : BitVec 256
  prev : Option (BitVec 256)
  retFwd : Nat                    -- return counter of the SVCH end
  retRev : Nat                    -- return counter of the DVCH end
  wrap : Bool                     -- a wrap of R36 occurred and the key has not moved
deriving DecidableEq, Repr

/-- A rewrite descriptor (R54). -/
structure RwDesc where
  guest : Nat
  kind : Nat
  slot : Nat
  first : Nat
  count : Nat
  reserved : Bool                 -- a reserved field is nonzero
  image : Nat
deriving DecidableEq, Repr

/-- Phases of a rewrite (R55). -/
inductive RwPhase where
  | idle | loading | paused
deriving DecidableEq, Repr

/-- PODRWS and the rewrite in progress (R54, R55). -/
structure Rewrite where
  drained : Bool
  pause : Nat
  guest : Nat
  result : Nat
  phase : RwPhase
  daddr : Nat
  ndesc : Nat
  shadow : List (RwDesc × List Byte)
  since : Nat                     -- when the pause began, thermal halts left out, in us
deriving DecidableEq, Repr

/-- Guest tables and the key store. -/
structure Tables where
  guests : KMap Guest
  keys : KMap Key
  rewrite : Rewrite
deriving DecidableEq, Repr

/-! ### Events to the hypervisor (04_host_interface.md) -/

/-- An event record (R86); words W4 to W7 are zero. -/
structure EvRec where
  w0 : Word
  w1 : Word
  w2 : Word
  w3 : Word
deriving DecidableEq, Repr

/-- What a token names (R86, R87). -/
inductive TokenOf where
  | master (slot : Nat)
  | tdi (slot : Nat)              -- the host, through the TDI of a slot (R18)
  | dst (id : DstId)
  | src (id : StreamId)
deriving DecidableEq, Repr

/-- The event ring's registers, the held store and the queue behind it, and the valid tokens (R86). -/
structure Evq where
  base : Nat
  log2n : Nat
  head : BitVec 16
  tail : BitVec 16
  lost : BitVec 32
  ovf : Bool
  held : List EvRec
  waiting : List (EvRec × Option DstId)   -- behind a full held store; the stream whose FREEZE waits for it
  tokens : KMap TokenOf
deriving DecidableEq, Repr

/-- What the module signals (R26): an MSI-X vector of the PF or of a VF, an alert; and how it completes a host access through a TDI:
Completer Abort, Unsupported Request, or with data (R19, R27). -/
inductive Signal where
  | pf (vector : Nat)
  | vf (slot vector : Nat)
  | alert
  | completerAbort (slot : Nat)
  | unsupported (slot : Nat)
  | completion (slot : Nat) (data : List Byte)
deriving DecidableEq, Repr

/-- A pending SPDM challenge (R85). -/
structure Challenge where
  mailbox : Nat
  cslot : Nat
deriving DecidableEq, Repr

/-- A rewrite of a certificate slot that waits for a challenge (R85), and since when, in us. -/
structure CertRewrite where
  mailbox : Nat
  cslot : Nat
  since : Nat
  chain : List Byte
deriving DecidableEq, Repr

/-- Answers of the SPDM responder (R84, R85): a response holds the slot's chain, the measurements from index 1 on, and the signature
over both. -/
inductive SpdmAnswer where
  | response (mailbox cslot : Nat) (chain : List Byte) (measured : List (List Byte)) (signature : List Byte)
  | busy (mailbox : Nat)
  | invalid (mailbox : Nat)
  | certSet (mailbox cslot : Nat)
deriving DecidableEq, Repr

/-- The responder: chains by slot, pending challenges, waiting rewrites, challenges that wait for a rewrite. -/
structure Spdm where
  certs : KMap (List Byte)
  challenges : List Challenge
  rewrites : List CertRewrite
  deferred : List Challenge
  answers : List SpdmAnswer
deriving DecidableEq, Repr

/-- PF registers without a structure of their own, and the receipt area (R81, R87, R88). -/
structure HostRegs where
  hvResult : Nat
  hvBusy : Bool
  vchResult : Nat
  vchBusy : Bool
  receipt : List Byte
deriving DecidableEq, Repr

/-! ### Memories (04, 07) -/

/-- HBM: bytes by physical address as written, the generation tag of each 64-byte line and the key it was written under (R78), lines
retired and lines with an uncorrectable error (R79, R82). -/
structure Hbm where
  bytes : Memory
  tags : KMap (BitVec 8)
  keys : KMap Nat
  retired : List Nat
  bad : List Nat
deriving DecidableEq, Repr

/-- Where a value of the generation pool stands (R80): current for a slot, or retired and waiting for a full pass of the
scrubber; `fresh` values that retired during the pass now running need the next one. -/
structure GenPool where
  current : KMap Nat              -- value -> slot
  draining : List (Nat × Bool)    -- value, and whether a pass has begun since it retired
deriving DecidableEq, Repr

/-! ### A vchip's slot (04, 05) -/

/-- Log states (R60, R63). -/
inductive LogSt where
  | running | logging | replaying
deriving DecidableEq, Repr

/-- The vchip of a slot (R88). -/
structure Vchip where
  guest : Nat
  vch : Nat
  clusters : List Nat
  keyIx : Nat
deriving DecidableEq, Repr

/-- A submission that the scheduler has not read (R67, R298): record address, queue, and the operations of the warp
that a `LAUNCH` waits for (R196). -/
structure Submission where
  addr : Word
  queue : Nat
  fence : Option (Nat × List Nat)
deriving DecidableEq, Repr

/-- The command window (R66 to R68, R71, R76). -/
structure Window where
  port : List Submission
  refused : Bool
  lfovf : Bool
  lfault : Word
  s1root : Word
  s1range : Word
  tinva : Word
  tinvBusy : Bool
  tinvRefused : Bool
deriving DecidableEq, Repr

/-- Where a function-level reset stands (R81); whether it is part of a destroy, and when its drain began, in us. -/
inductive FlrPhase where
  | idle | draining (destroy : Bool) (since : Nat) | waitPause (destroy : Bool)
deriving DecidableEq, Repr

/-- The reset has begun: one that waits for a pause stops nothing yet (R55, R83). -/
def FlrPhase.begun : FlrPhase → Bool
  | .draining _ _ => true
  | .idle | .waitPause _ => false

/-- The per-slot block's translation, reset and log registers (R69, R71, R76, R81, R215, R234). -/
structure Block where
  s2root : Word
  s2range : Word
  s2inva : Word
  s2Busy : Bool
  s2Refused : Bool
  rbuf : Option Word
  flrTmo : Bool
  flrRcpt : Bool
  flr : FlrPhase
  phvec : Word
  defmode : Word
  rlogbase : Word
deriving DecidableEq, Repr

/-- SCHED's fields (R97). -/
structure SchedReg where
  slice : Nat
  share : Nat
  group : Nat
  dedic : Bool
deriving DecidableEq, Repr

/-- SCHED, SAVEBASE and PREEMPT (R97), with a write of SCHED that waits. -/
structure SchedRegs where
  now : SchedReg
  next : Option SchedReg
  refused : Bool
  saveBase : Nat
  saveSize : Nat
  preDone : Bool
  preBusy : Bool
  preRefused : Bool
  heldOut : Bool                  -- commanded out until RESUME
deriving DecidableEq, Repr

/-- One range of the range unit (R111). -/
structure RangeReg where
  next : Nat
  remain : Nat
  min : Nat
  k : Nat
deriving DecidableEq, Repr

/-- Whether a dependence entry is satisfied (R94). -/
inductive Dep where
  | done
  | launch (id : Nat)
  | flag (eq : Bool) (addr : Word) (value : Word)
deriving DecidableEq, Repr

/-- A completion word (R96) held until the TDI is in RUN (R27): its write to host memory, with IRQ; or, where a table of its translation
stands in host memory, the record's words and the STATUS, to be translated then. -/
inductive HeldWrite where
  | host (addr : Nat) (word : Word) (irq : Bool)
  | walk (words : List Word) (status : Nat)
deriving DecidableEq, Repr

/-- A pod gang's exchange (R101, R102) at the coordinator or at a member. -/
structure PodGang where
  coordinator : Nat               -- guest vchip number
  members : List Nat              -- every member, the coordinator included
  acked : List Nat
  failed : Option Nat             -- first nonzero STATUS of an ack
  committed : Bool
  commitAcked : List Nat
  doneBy : List Nat
  began : Nat                     -- when the first reserve went, in us
  commitAt : Nat                  -- the first commit
  resent : Nat                    -- the last commit
  lost : Bool
deriving DecidableEq, Repr

/-- A launch (R89 to R96). -/
structure Launch where
  id : Nat
  queue : Nat
  words : List Word                 -- the 32 words as read
  deps : List Dep
  since : Option Nat              -- when it became eligible, in us
  prio : Option Nat               -- effective priority, frozen at the first placement
  placed : Nat
  retired : Nat
  ended : Bool
  isReserve : Bool                -- a member's claim made by GANG_RESERVE
  prev : Option Nat               -- the launch that its queue took before it (R94)
  dead : List Nat                 -- warps that ended early, whose sent stores the completion word waits for (R96)
  pod : Option PodGang
  mode : Option Word              -- the default mode when its first gang was placed (R234)
deriving DecidableEq, Repr

/-- A cached combined translation (R76): input page, aperture, output page, permissions R W X, NME, RAP, owner. -/
structure TlbEntry where
  page : Nat
  aper : Nat
  out : Nat
  r : Bool
  w : Bool
  x : Bool
  nme : Bool
  rap : Bool
  owner : Owner
deriving DecidableEq, Repr

/-- A freeze for a violation (R18): its token. -/
structure Frozen where
  token : Nat
deriving DecidableEq, Repr

/-- A BCTL load that waits for the live tasks (R174): who issued it and the image. -/
structure CtabLoad where
  warp : Nat
  path : Nat
  image : List Byte
deriving DecidableEq, Repr

/-- A grid binding (R155, R158). -/
structure Binding where
  gang : Nat
  wg : Nat
  gslot : Nat
  desc : List Word                -- W0 to W15
  owner : Nat
  stream : Nat                    -- STREAM of the warp that bound it, which carries the answers
  tampered : Bool                 -- a program stored to the tag block (R160)
deriving DecidableEq, Repr

/-- What the scheduler and the host hold for a slot beside its registers. -/
structure Sched where
  queues : List Launch            -- every launch not completed, in submission order
  nextLaunch : Nat
  ranges : KMap RangeReg
  switchedIn : Bool
  inAt : Nat                      -- when the slice began, in us
  runs : List (Nat × Nat)         -- core time received: start and end of each switch-in of the last 100 ms, in us
  hints : List (Nat × Nat × Nat)  -- announced windows (R59): sender, start and length in us
  planned : Bool                  -- its next window has been announced and has not begun (R58)
  lastOf : KMap Nat               -- the launch that each queue took last
  grace : Bool                    -- a grace window is open (R109)
  graceAt : Nat                   -- since when, thermal halts left out, in us
  preempting : Bool
  droppedReserves : List (Nat × Nat)  -- (coordinator, LID) released before the reserve arrived
  refusedReserves : List (Nat × Nat)  -- (coordinator, LID) refused with a STATUS, whose release is still to come
  doneReserves : List (Nat × Nat)  -- (coordinator, LID) of claims that have ended here: a later release finds nothing
  heldWrites : List HeldWrite      -- completion words held until the TDI is in RUN (R27)
deriving DecidableEq, Repr

/-- The receive log's own state (R60 to R65). -/
structure LogCtl where
  st : LogSt
  arrival : Nat
  since : Nat                     -- when the replay under way began, in us
  limit : Bool                    -- it has run 200 us (R63)
  ran : Bool                      -- the vchip has run: W0 and W1 are fixed (R60)
  job : Option AgentJob           -- a remote operation of the record that replays
deriving DecidableEq, Repr

/-- What the host configures for a fabric endpoint of the network engine (R41): its address, the key of its secure domain, congestion
parameters. -/
structure NetCfg where
  addr : Word
  key : BitVec 256
  congestion : Word
deriving DecidableEq, Repr

/-- One of the 64 slots. -/
structure Slot where
  vchip : Option Vchip
  tdi : Option Tdi
  gen : BitVec 8
  keyDraws : Nat                  -- how often the slot's key was drawn (R78)
  frozen : Option Frozen
  win : Window
  blk : Block
  sch : SchedRegs
  sched : Sched
  log : LogCtl
  ktable : KMap Nat
  tlb : List TlbEntry
  ctab : List (BitVec 128)        -- row i holds E(i, 0) to E(i, 63), two bits each
  ctabLoads : List CtabLoad
  bindings : List Binding
  endpoints : List Nat            -- fabric endpoints the host configured (R41)
  netcfg : KMap NetCfg            -- and how
deriving DecidableEq, Repr

/-! ### Warps (06, 11) -/

/-- What a path's instruction waits for once it has issued: operations of the warp below a number (`FENCE`, `MOPF`, `HWAIT`), a `TLBI`
before and after it has joined the queue (R382), the drain of a `CTXS` or `CTXL` (R384, R386), a table load of `BCTL` (R174). -/
inductive Hold where
  | ops (n : Nat)
  | tlbi (n : Nat) (queued : Bool)
  | drain
  | table
deriving DecidableEq, Repr

/-- A path's wait at a FUSE (R118, R319): factor, tag, result register, deadline. -/
structure Rendezvous where
  factor : Nat
  tag : Nat
  d : Nat
  limit : Nat
  deadline : Nat
deriving DecidableEq, Repr

/-- A live path (R121): PC, lanes, quantum counter, region link; the second word of a pair to come; a BARW wait: the object's
16-byte block and what has become of it (0 nothing, 1 the phase advanced, 2 re-initialised, 16 + CAUSE poisoned); a FUSE wait; what its
instruction holds it for; the warps whose keys its `BOP` waits for (R176); a stall on a stale ghost: the core's count it began at
(R167). -/
structure Path where
  pc : Word
  mask : Mask
  q : Nat
  link : Option Nat
  sec : Bool
  barw : Option (Nat × Nat)
  rz : Option Rendezvous
  hold : Option Hold
  bop : Option (List Nat)
  stall : Option Nat
deriving DecidableEq, Repr

/-- A region (R121). -/
structure Region where
  join : Word
  members : Mask
  arrived : Mask
  parked : Mask
  parent : Option Nat
deriving DecidableEq, Repr

/-- What a stack entry holds (R121). -/
inductive StackItem where
  | region (r : Region)
  | deferred (p : Path)
deriving DecidableEq, Repr

/-- A stack entry with its allocation sequence number (R121). -/
structure StackEntry where
  item : StackItem
  seq : Nat
deriving DecidableEq, Repr

/-- Handle states (R132). -/
inductive HState where
  | idle | pending | done
deriving DecidableEq, Repr

/-- A handle (R132, R225, R293, R294). -/
structure Handle where
  st : HState
  op : Nat
  status : Nat
  flags : BitVec 5
  merged : Bool
  info : Word
  fill : Nat
deriving DecidableEq, Repr

/-- Class counters (R131). -/
structure Counters where
  ld : Nat
  st : Nat
  cp : Nat
  tl : Nat
deriving DecidableEq, Repr

/-- Scalar registers and the privileged bank of a scalar set (R112). -/
structure SSet where
  s : KMap Word
  bank : KMap Word
deriving DecidableEq, Repr

/-- The trap state (R215, R219). `own1` and `own2` are the lanes of the path that took the trap of each level: their paths run its
handler. -/
structure TrapState where
  level : Nat
  own1 : Mask
  own2 : Mask
  lower : Nat                     -- the level that level 2 interrupted
  utvec : Word
  tpc1 : Word
  tpc2 : Word
  tcause1 : Word
  tcause2 : Word
  taddr : KMap Word
  tmask : Mask
  xop : Word
  xd : Word
  xa : Word
  xb : Word
  xc : Word
  ximm : Word
  xtype : Word
deriving DecidableEq, Repr

/-- Task states (R172). -/
inductive TaskSt where
  | none | active | drainC | drainA | replay
deriving DecidableEq, Repr

/-- A `BOP` in progress (R177): its address, the lanes of its path and the trap level at which it runs. -/
structure BopId where
  pc : Word
  lanes : Mask
  level : Nat
deriving DecidableEq, Repr

/-- A table miss presented to a handler (R177): the `BOP`, its kind, the other task's kind, the lane, whether the other task
holds the key, that task's warp, the verdict given so far, and whether that task has released its keys meanwhile. -/
structure Miss where
  bop : BopId
  k : Nat
  j : Nat
  lane : Nat
  holds : Bool
  warp : Nat
  verdict : Option Bool
  gone : Bool
deriving DecidableEq, Repr

/-- A memo of a table-miss verdict (R177): the `BOP`, the other task, its kind, whether it holds the key, the verdict. -/
structure Memo where
  bop : BopId
  warp : Nat
  kind : Nat
  holds : Bool
  conflict : Bool
deriving DecidableEq, Repr

/-- The boosted task of a warp (R170 to R182). -/
structure Task where
  st : TaskSt
  target : Word
  sd : Nat
  ub : Word
  sp : Word
  size : Nat                      -- KiB
  vb : Nat
  age : Nat
  retry : Nat
  lanes : Mask
  glanes : Mask
  cause : Nat
  value : Nat
  pendingAbort : Option (Nat × Nat)   -- cause and value, taken at the next boundary (R172)
  lastTarget : Option Word        -- T of the previous task, when it aborted and nothing has begun since (R171)
  lastCode : Word
  memos : List Memo
  miss : List Miss                -- innermost first
  tampered : Bool                 -- a program stored to the live stack (R173)
  keyed : List Nat                -- array operations whose completion the tasks that its `BOP` waits for have told at their release (R180)
deriving DecidableEq, Repr

/-- The kind of a queued memory operation. -/
inductive OpKind where
  | load (sx : Bool)
  | store
  | atom (aop : Aop) (t : Ty)
  | faddd (t : Ty)
  | fdset (t : Ty)
  | rcas (words : Nat)
  | renq
  | rchase (hops off : Nat)
  | bari
  | bara
deriving DecidableEq, Repr

/-- One lane's access of a queued operation: place of each 8-byte piece, size, operands, result. -/
structure LaneOp where
  lane : Nat
  addr : Word
  place : Place
  place2 : Option Place           -- the node of a `RENQ`
  size : Nat
  data : List Word                -- value, values or node
  cmp : List Word                 -- compare values, rank or count
  sent : Bool                     -- a pod request has been handed to the fabric
  done : Bool
deriving DecidableEq, Repr

/-- A memory operation that a warp has issued (R131, R183): ordering bits, destination register, lanes. -/
structure MemOp where
  id : Nat
  kind : OpKind
  strong : Bool
  scope : Scope
  acq : Bool
  rel : Bool
  scalar : Bool                   -- SLD, SST: the destination is an s register
  dst : Option Nat
  pair : Bool                     -- X2
  lanes : List LaneOp
  reach : Mask                    -- the lanes whose next instructions follow it in program order (R184)
  after : List Nat                -- the outstanding operations that it follows in program order
  tells : List (Nat × Bool)       -- array operations whose completion happens before it; true: before a release of it or before a fence
deriving DecidableEq, Repr

/-- Numbers that identify a warp: gang, workgroup, core within the module, slot, first original lane / 8. -/
structure WarpId where
  gang : Nat
  wg : Nat
  core : Nat
  slot : Nat
  first : Nat
deriving DecidableEq, Repr

/-- Vector registers by 128 * register + lane, and predicate masks p0 to p6 (R112). -/
structure VRegs where
  v : KMap Word
  p : KMap Mask
deriving DecidableEq, Repr

/-- A declared live set (R296): prefix count, z tiles, vault extent. -/
structure LiveSet where
  n : Nat
  zfirst : Nat
  zcount : Nat
  start : Nat
  len : Nat
deriving DecidableEq, Repr

/-- An engine write that its operation has counted and that its home has not performed (R146, R190): the copy's channel, where, the
bytes, the handle, the linear index of its end, and the lanes whose next events follow it. -/
structure Landing where
  chan : Option Nat
  place : Place
  bytes : List Byte
  f : Nat
  upTo : Nat
  seen : Mask
deriving DecidableEq, Repr

/-- An aligned word that a plain store of a warp is to write or has written: the operation, the word, and the values that it has held since
the store's issue (R147). -/
structure PastWord where
  op : Nat
  place : Place
  vals : List Word
deriving DecidableEq, Repr

/-- Engine and memory work of a warp that its own instructions can meet. -/
structure WarpWork where
  ops : List MemOp                -- oldest first
  nextOp : Nat
  xfence : Nat                    -- operations below this number go before later engine reads (R330)
  mopf : KMap Word                -- register values as they stood at the last MOPF, where written since (R353)
  mzPending : List (Nat × Nat × Nat × Word)  -- registers of an uncovered MZMV out: array op, register, lane, value
  mzTiles : List (Nat × Nat × Nat)   -- uncovered array operations: number, handle (16 for none), a tile they write (R352)
  abandon : Option Nat            -- a pending remote abandon and its code (R218)
  yielded : Option LiveSet        -- stopped at a YIELD inside a grace window (R109)
  known : List Nat                -- array operations whose completion happens before what it does next, its own covered ones included (R352)
  heard : List Nat                -- those that its next fence or release would make known: its reads have found them
  told : List Nat                 -- those known at its last fence
  landing : List Landing
  late : Bool                     -- its engine writes land after their operations are DONE, where R190 lets them
  lastIssue : Nat
  past : List PastWord            -- oldest first
  shown : Nat                     -- operations below this number: stores that every copy issued from now on finds (R190)
deriving DecidableEq, Repr

/-- What a fused warp keeps of another slot's base warp (R119): its scalar set and its boosted-task entry. -/
structure Shadow where
  set : SSet
  task : Task
deriving DecidableEq, Repr

/-- A warp. -/
structure Warp where
  id : WarpId
  width : Nat
  exited : Mask
  paths : List (Option Path)      -- 4 places
  stack : List (Option StackEntry)  -- 32 entries
  nseq : Nat
  set : SSet
  shadow : List Shadow            -- of a fused warp's other slots, in slot order
  vr : VRegs
  handles : List Handle
  cnt : Counters
  mode : Word
  flags : BitVec 5
  trap : TrapState
  task : Task
  work : WarpWork
deriving DecidableEq, Repr

/-! ### Gangs and engines (05, 07, 08, 18, 19) -/

/-- What the cluster's instruction cache serves a gang: memory as it stood at the placement (R138). -/
structure Code where
  hbm : Hbm
  host : Memory
deriving DecidableEq, Repr

/-- A workgroup's claims (R99, R100): core, slot base, vault base in bytes, the core's z tiles that it
names z0 upwards. -/
structure WgClaim where
  core : Nat
  slot : Nat
  vault : Nat
  ztiles : List Nat
deriving DecidableEq, Repr

/-- Where a gang stands between its core and its record (R105 to R109): resident, stopping for a pre-emption, saved, held
idle until a pod gang's commit (R101), or ending, until its live boosted tasks have replayed (R181). -/
inductive GangSt where
  | resident | stopping | saved | held | ending
deriving DecidableEq, Repr

/-- Where a warp's context block lies in a gang's record. -/
structure SavedWarp where
  warp : Nat
  off : Nat
  len : Nat
deriving DecidableEq, Repr

/-- Where a workgroup's part lies in a gang's record (R107): vault extent and its image, z tiles, context blocks. -/
structure SavedWg where
  lo : Nat
  len : Nat
  voff : Nat
  z : List Nat
  zoff : Nat
  warps : List SavedWarp
deriving DecidableEq, Repr

/-- A pre-empted gang's record in the save area (R105, R107): where its parts lie in HBM, and the vault blocks that hold barrier
objects, which the image does not show. -/
structure Saved where
  barriers : KMap Bool
  yform : Bool
  base : Nat                      -- where the record lies in HBM
  bytes : Nat
  parts : List SavedWg
deriving DecidableEq, Repr

/-- A placed gang (R99, R100). -/
structure Gang where
  id : Nat
  slot : Nat
  launch : Nat
  words : List Word
  gidx : Nat                      -- linear index
  wgs : List WgClaim
  st : GangSt
  saved : Option Saved
  code : Code
  claim : Nat                     -- bytes claimed in the save area
  writers : KMap Nat              -- the array operation issued last that writes a tile, by 384 * workgroup + tile (R352)
  ends : Bool                     -- it has ended or was lost: nothing but its tasks' replay goes on (R102, R181, R221)
deriving DecidableEq, Repr

/-- Kinds of copies (R107). -/
inductive CopyKind where
  | linear
  | strided (row : Nat) (s1 s2 d1 d2 : Int) (n1 n2 : Nat)
  | expand (wide : Bool) (md : Word)
deriving DecidableEq, Repr

/-- A copy of a channel (R145 to R149). `ahead` holds source bytes read and not yet delivered, by source index (none while a
pod read is under way); `words`, `wgs` and `slot` are the gang's, for its vault addresses. -/
structure Copy where
  id : Nat
  warp : Nat
  f : Nat
  core : Nat
  stream : Nat
  slot : Nat
  words : List Word
  wgs : List WgClaim
  kind : CopyKind
  dst : Word
  src : Word
  len : Nat
  fill : Nat
  barrier : Option Word
  started : Bool
  ahead : List (Nat × Option (List Byte))
  after : List Nat                -- the operations before its issue in program order, of which reads and strong writes go before its events (R190)
  xfence : Nat                    -- and every operation below this number (R191)
  metaErr : Bool
  inPod : Nat                     -- bytes of pod beats sent and not acknowledged
  err : Option Nat                -- a status to report once the vchip is resumed (R19)
  early : List (Nat × Nat)        -- destination words past F that hold their copied values: linear index and bytes (R146)
  past : List Nat                 -- the warp's plain stores before its issue that its reads may miss (R147)
  mark : Nat                      -- the warp's operations before its issue: those below this number
deriving DecidableEq, Repr

/-- A publish in progress (R162). -/
structure Publish where
  id : Nat
  slot : Nat
  gang : Nat
  wg : Nat
  gslot : Nat
  warp : Nat
  stream : Nat
  f : Nat
  step : Nat
  waiting : List Nat              -- faces that wait for credit
  pending : Nat                   -- face copies started and not delivered
  status : Nat
  told : List Nat                 -- array operations whose completion happens before the publish (R162, R196, R352)
deriving DecidableEq, Repr

/-- One operand's reading of the format block, at issue (R241, R242): `sc` is the scale array's vault address. -/
structure OperandFmt where
  fmt : Nat
  blk : Nat
  sk : Nat
  sc : Nat
  book : List (BitVec 16)
  scales : List (BitVec 16)
deriving DecidableEq, Repr

/-- Operations of the matrix array (R342). -/
inductive MatKind where
  | mul (zero walk mmab dsq : Bool)
  | topk (t : Ty) (max : Bool) (k : Nat)
  | mzmv (t : Ty) (into : Bool) (d : Nat)
  | mzld (t : Ty)
  | mzst (t : Ty)
  | mzclr (n : Nat)
deriving DecidableEq, Repr

/-- An operation in the array's queue, or an MVN (R342, R357, R225). -/
structure MatOp where
  id : Nat
  warp : Nat
  f : Nat
  w0 : Word
  w1 : Word
  kind : MatKind
  zt : Nat
  a : Word
  b : Word
  c : Word
  geo : Word
  bstr : Word
  tab : Word
  av : Bool
  bt : Bool
  iacc : Bool
  fa : OperandFmt
  fb : OperandFmt
  list : List Nat                 -- block entries read at issue (R350)
  nblk : Nat
  regs : List (Nat × Nat × Word)  -- register operands as they stood at issue
  mopf : List (Nat × Nat × Word)  -- and as they stood at the last MOPF
  rm : Nat
  undef : Bool                    -- it reads a tile whose writer was not covered at its issue (R352)
  kstep : Nat
  block : Nat
  flags : BitVec 5
  mode : Word                     -- %mode at issue
  fbk : Word                      -- the format block's address (R225)
  reread : List (BitVec 16)       -- B's scales of the block in progress, where its entry changed (R360)
  after : List Nat                -- as a copy's (R190, R191)
  xfence : Nat
deriving DecidableEq, Repr

/-- A near-memory operation (R357): weights are read at completion at the places translated at issue. -/
structure MvnOp where
  op : MatOp
  rows : Nat
  klen : Nat
  pitch : Nat
  acc : Bool
  y : Word
  pages : List (Nat × Nat × Owner)  -- virtual page, physical page, owner and key
  err : Option (Nat × Nat)        -- after a restore: status 0, its pages are yet to be translated; another, reported at a resume with a page (R19)
deriving DecidableEq, Repr

/-- A posted work request (R379). -/
structure Post where
  id : Nat
  warp : Nat
  f : Nat
  op : NpostOp
  endpoint : Nat
  addr : Word
  len : Nat
  roff : Word
  tag : Word
  count : Nat
  sent : Bool
  data : List (Nat × List Byte)   -- what write and send have read, by offset
  unsent : List (Nat × List Byte)  -- what of it a freeze of the vchip has kept from leaving (R18)
  err : Option Nat
  slot : Nat
  stream : Nat
  words : List Word
  wgs : List WgClaim
  after : List Nat                -- as a copy's (R190, R191)
  xfence : Nat
deriving DecidableEq, Repr

/-- What a deterministic-add agent holds for a slot at a physical address (R143): early arrivals by rank, and
contributions that wait for a place. -/
structure DetSlot where
  key : Nat
  early : List (Nat × Word × Option (Nat × Nat × Nat))   -- rank, value, and the local store that sent it
deriving DecidableEq, Repr

/-- A boost directory entry (R175). -/
structure DirEntry where
  die : Nat
  slot : Nat
  warp : Nat
  key : Word
  kinds : List Nat
deriving DecidableEq, Repr

/-- What a drain waits for (R77): a lane of a queued operation, a request of a stream, a copy up to a linear index, an `MVN`, or an access
of a remote operation at its home, in a stream or in a log that replays: by its packet's SEQ and its step. -/
inductive DrainItem where
  | lane (warp op lane : Nat)
  | request (id : StreamId) (origin : Origin)
  | copy (id upTo : Nat)
  | mvn (id : Nat)
  | job (id : DstId) (seq step : Nat)
  | replay (slot seq step : Nat)
deriving DecidableEq, Repr

/-- Who asked for an invalidation (R76, R382). -/
inductive InvFrom where
  | tinv
  | s2inv
  | tlbi (warp path : Nat)
deriving DecidableEq, Repr

/-- An invalidation of a vchip's cached translations, in arrival order (R76, R77, R382): first page, pages, all; once begun, what
its drain waits for. -/
structure Inv where
  src : InvFrom
  page : Nat
  count : Nat
  all : Bool
  begun : Bool
  items : List DrainItem
deriving DecidableEq, Repr

/-- A `PSEND` whose copies are not all acknowledged (R53, R376): copies under way and the status so far. -/
structure Psend where
  warp : Nat
  f : Nat
  pending : Nat
  status : Nat
deriving DecidableEq, Repr

/-- The compute dies: vaults, z tiles, cycle counters, age counters, the boost directories. -/
structure Dies where
  vault : Memory                  -- core * 2^22 + offset
  z : KMap (BitVec 32)            -- (core * 384 + tile) * 1024 + 32 m + n
  cyc : KMap Nat                  -- cycles of a core beside the ones that all cores counted (R133)
  ticks : Nat                     -- cycles that every core counted
  ageSeq : KMap Nat
  dirs : List DirEntry
  barriers : KMap Bool            -- 16-byte vault blocks that hold barrier objects; true: a program stored there (R150)
  msgs : KMap (List (Nat × Bool))  -- array operations whose completion is known to the last write of a word, by place (R189, R352)
  keyMsgs : List (Nat × Word × List Nat)  -- those that the releases of a slot's key have told (R180)
deriving DecidableEq, Repr

/-- Gangs, warps and the engines' work. -/
structure Work where
  gangs : KMap Gang
  nextGang : Nat
  warps : KMap Warp
  nextWarp : Nat
  retired : KMap Warp             -- warps that have exited, as they ended, until their slots are claimed again
  copies : KMap Copy
  nextCopy : Nat
  arrays : KMap (List MatOp)      -- by core, oldest first
  nextMat : Nat
  mvns : KMap MvnOp
  posts : KMap Post
  nextPost : Nat
  publishes : KMap Publish
  nextPublish : Nat
  det : List DetSlot
  invs : KMap (List Inv)          -- by slot
  psends : List Psend
  issueClock : Nat
deriving DecidableEq, Repr

/-- A packet of the network engine on an Ethernet port (R41, R42, R379): its post, endpoint and request, where its bytes belong, and the
transport's tag under the endpoint's key. -/
structure EtherPkt where
  post : Nat
  slot : Nat
  endpoint : Nat
  op : NpostOp
  roff : Word
  tag : Word
  off : Nat
  data : List Byte
  mac : BitVec 128
deriving DecidableEq, Repr

/-- The fabric interface units, and what the network engine has sent. -/
structure Fabric where
  src : List SrcStream
  dst : List DstStream
  responses : List OutPkt
  controls : List OutPkt
  loopback : List Packet
  sound : List (Packet × Origin)  -- halo messages within a vchip, oldest first (R165)
  arriving : Option PktSrc
  ether : List EtherPkt
  training : List Word            -- link training of the two Ethernet ports as the host configured it (R41)
deriving DecidableEq, Repr

/-- Who issues the instruction being executed: warp, path, the words it was fetched from, second word of a pair. -/
structure Cur where
  warp : Nat
  path : Nat
  w0 : Word
  w1 : Word
  sec : Bool
deriving DecidableEq, Repr

/-- What happens next: an event, the arrival of a packet, an issue by a core, or time passing; and what the outside world does that
has no row in the opcode table: the host reads or writes device memory through a TDI (R18, R19) or reads BUSY of TINVS or S2INVS (R77,
R196), the channels of a port that have no credit change (R31), the host configures an endpoint or the training of an Ethernet link (R41),
a line of HBM takes an uncorrectable error (R82); and what the rules leave to time: whether a warp's engine writes land late, when one lands, a copy's beat that lands before it counts (R146, R190), the next access
of a remote operation at its home (R334, R335), of a stream or of a log that replays. -/
inductive Turn where
  | event (i : Instr)
  | packet (src : PktSrc) (i : Instr)
  | issue (core : Nat)
  | tick (cycles us : Nat)
  | hostAccess (slot addr len : Nat) (write : Option (List Byte))
  | credit (port : Nat) (full : List Nat)
  | netConfig (slot ep : Nat) (cfg : Option NetCfg)
  | linkTraining (port : Nat) (cfg : Word)
  | readBusy (slot : Nat) (s2 : Bool)
  | lineError (line : Nat)
  | engineLate (warp : Nat) (on : Bool)
  | land (warp n : Nat)
  | early (copy idx : Nat)
  | agent (id : DstId)
  | replayAgent (slot : Nat)
deriving DecidableEq, Repr

/-- The module. `now` is the controller's timer in us since boot; `agenda`, `cur`, `rotor` and `free` are the model's
own (log entries 1 and 10). -/
structure State where
  power : Power
  links : Links
  fabric : Fabric
  tables : Tables
  evq : Evq
  host : HostRegs
  spdm : Spdm
  slots : KMap Slot
  gens : GenPool
  hbm : Hbm
  hostMem : Memory
  dies : Dies
  work : Work
  signals : List Signal
  now : Nat
  agenda : List Turn
  cur : Option Cur
  rotor : Nat
  free : Nat
deriving DecidableEq, Repr

/-! ### Reset -/

/-- A port before any frame (R29, R32). -/
def Port.reset : Port := ⟨true, false, [], 0, 0, [], [], [], []⟩

def Power.reset : Power where
  start := .off
  fails := 0
  cur := 3
  req := 2
  busy := false
  refused := false
  twarn := false
  thalt := false
  target := none
  haltUs := 0
  mcmdRefused := false
  mcmdBusy := false
  records := [List.replicate 8 0, List.replicate 8 0, List.replicate 8 0]

def Window.reset : Window := ⟨[], false, false, 0, 0, 0, 0, false, false⟩

def Block.reset : Block := ⟨0, 0, 0, false, false, none, false, false, .idle, 0, 0, 0⟩

def SchedRegs.reset : SchedRegs := ⟨⟨2000, 0, 0, true⟩, none, false, 0, 0, false, false, false, false⟩

def Sched.reset : Sched := ⟨[], 0, [], false, 0, [], [], false, [], false, 0, false, [], [], [], []⟩

/-- Every entry 0b10 (R174). -/
def ctabReset : List (BitVec 128) := List.replicate 64 (BitVec.ofNat 128 0xAAAAAAAAAAAAAAAAAAAAAAAAAAAAAAAA)

/-- A slot before a vchip is created in it. -/
def Slot.reset : Slot where
  vchip := none
  tdi := none
  gen := 0
  keyDraws := 0
  frozen := none
  win := Window.reset
  blk := Block.reset
  sch := SchedRegs.reset
  sched := Sched.reset
  log := ⟨.running, 0, 0, false, false, none⟩
  ktable := []
  tlb := []
  ctab := ctabReset
  ctabLoads := []
  bindings := []
  endpoints := []
  netcfg := []

/-- The module before power: OFF, every register at its reset value, memories with nothing listed. -/
def State.reset : State where
  power := Power.reset
  links := ⟨0, 0xFF, 0xFF, false, List.replicate 32 Port.reset⟩
  fabric := ⟨[], [], [], [], [], [], none, [], [0, 0]⟩
  tables := ⟨[], [], ⟨false, 0, 0, 0, .idle, 0, 0, [], 0⟩⟩
  evq := ⟨0, 0, 0, 0, 0, false, [], [], []⟩
  host := ⟨0, false, 0, false, []⟩
  spdm := ⟨[], [], [], [], []⟩
  slots := []
  gens := ⟨[], []⟩
  hbm := ⟨[], [], [], [], []⟩
  hostMem := []
  dies := ⟨[], [], [], 0, [], [], [], [], []⟩
  work := ⟨[], 0, [], 0, [], [], 0, [], 0, [], [], 0, [], 0, [], [], [], 0⟩
  signals := []
  now := 0
  agenda := []
  cur := none
  rotor := 0
  free := 0

end Sys2Proof.Machine
end

