-- ==== Sys2Proof/Machine/Mem.lean ====
section
/-! DEFINITION. Sparse tables and byte memories in canonical form: keys strictly rising, no entry equal to what an
unlisted key reads as. Every memory of the machine goes through these operations. -/

namespace Sys2Proof.Machine

/-- What is listed at a key. -/
def KMap.find? {β : Type} : KMap β → Nat → Option β
  | [], _ => none
  | (a, b) :: m, k => if a = k then some b else if k < a then none else KMap.find? m k

/-- List a value at a key, replacing what is there. -/
def KMap.put {β : Type} : KMap β → Nat → β → KMap β
  | [], k, v => [(k, v)]
  | (a, b) :: m, k, v =>
    if k < a then (k, v) :: (a, b) :: m
    else if a = k then (k, v) :: m
    else (a, b) :: KMap.put m k v

/-- Remove a key. -/
def KMap.erase {β : Type} : KMap β → Nat → KMap β
  | [], _ => []
  | (a, b) :: m, k => if a = k then m else if k < a then (a, b) :: m else (a, b) :: KMap.erase m k

/-- Reading with a default for unlisted keys. -/
def KMap.get {β : Type} (m : KMap β) (dflt : β) (k : Nat) : β := (KMap.find? m k).getD dflt

/-- Writing with a default for unlisted keys: the default is not listed. -/
def KMap.set {β : Type} [DecidableEq β] (m : KMap β) (dflt : β) (k : Nat) (v : β) : KMap β :=
  if v = dflt then KMap.erase m k else KMap.put m k v

/-- Keys strictly rising from `lo` on. -/
def KMap.risingFrom {β : Type} : Nat → KMap β → Bool
  | _, [] => true
  | lo, (a, _) :: m => lo ≤ a && KMap.risingFrom (a + 1) m

/-- Keys strictly rising. -/
def KMap.rising {β : Type} (m : KMap β) : Bool := KMap.risingFrom 0 m

/-- No entry is the default. -/
def KMap.noDefault {β : Type} [DecidableEq β] (dflt : β) (m : KMap β) : Bool := m.all fun e => e.2 != dflt

/-- Drop the entries whose keys lie from `lo` up to but not including `lo + n`. -/
def KMap.dropRange {β : Type} (m : KMap β) (lo n : Nat) : KMap β := m.filter fun e => e.1 < lo || lo + n ≤ e.1

/-- Keep only the entries whose keys lie from `lo` up to but not including `lo + n`. -/
def KMap.keepRange {β : Type} (m : KMap β) (lo n : Nat) : KMap β := m.filter fun e => lo ≤ e.1 && e.1 < lo + n

/-- A first key from `lo` on that is not listed, among `fuel` candidates. -/
def KMap.firstFree {β : Type} (m : KMap β) : Nat → Nat → Nat
  | 0, lo => lo
  | fuel + 1, lo => if (KMap.find? m lo).isSome then KMap.firstFree m fuel (lo + 1) else lo

/-! ### Bytes -/

/-- The byte at an address; an unlisted byte is 0 (R79, R80; log entries 4 and 5). -/
def Memory.byte (m : Memory) (a : Nat) : Byte := KMap.get m 0 a

/-- One byte written. -/
def Memory.setByte (m : Memory) (a : Nat) (b : Byte) : Memory := KMap.set m 0 a b

/-- `n` bytes from an address, lowest first. -/
def Memory.bytes (m : Memory) : Nat → Nat → List Byte
  | _, 0 => []
  | a, n + 1 => Memory.byte m a :: Memory.bytes m (a + 1) n

/-- Bytes written from an address on. -/
def Memory.setBytes : Memory → Nat → List Byte → Memory
  | m, _, [] => m
  | m, a, b :: bs => Memory.setBytes (Memory.setByte m a b) (a + 1) bs

/-- The canonical form of a memory. -/
def Memory.wf (m : Memory) : Bool := KMap.rising m && KMap.noDefault 0 m

/-- A little-endian 64-bit word from bytes (R2). -/
def leWord (bs : List Byte) : Word := BitVec.ofNat 64 (leNat bs)

/-- The bytes of a word, lowest first (R2). -/
def wordBytes (w : Word) (n : Nat) : List Byte := leBytes n w.toNat

/-! ### Small list operations -/

/-- Replace the n-th element. -/
def setAt {α : Type} : List α → Nat → α → List α
  | [], _, _ => []
  | _ :: xs, 0, y => y :: xs
  | x :: xs, n + 1, y => x :: setAt xs n y

/-- The first index whose element satisfies `p`. -/
def indexWhere {α : Type} (p : α → Bool) : List α → Nat → Option Nat
  | [], _ => none
  | x :: xs, n => if p x then some n else indexWhere p xs (n + 1)

/-- The numbers below `n`, in order. -/
def upTo (n : Nat) : List Nat := List.range n

/-- Put `x` before the first element that it is to go before or with. -/
def insertBy {α : Type} (le : α → α → Bool) (x : α) : List α → List α
  | [] => [x]
  | y :: ys => if le x y then x :: y :: ys else y :: insertBy le x ys

/-- Sorted by an order, elements of equal rank in the order they stood in. -/
def sortBy {α : Type} (le : α → α → Bool) : List α → List α
  | [] => []
  | x :: xs => insertBy le x (sortBy le xs)

/-- Numbers in ascending order. -/
def sortNat (ns : List Nat) : List Nat := sortBy (fun a b => decide (a ≤ b)) ns

/-- Pieces of at most `k` elements, for `fuel` pieces. -/
def chunks {α : Type} (k : Nat) : Nat → List α → List (List α)
  | 0, _ => []
  | _, [] => []
  | fuel + 1, xs => xs.take k :: chunks k fuel (xs.drop k)

/-- Words from little-endian bytes. -/
def bytesWords (bs : List Byte) : List Word := (chunks 8 bs.length bs).map leWord

def wordsBytes (ws : List Word) : List Byte := ws.flatMap fun w => wordBytes w 8

/-- A field of a word: bits `[lo + n - 1 : lo]` as a number. -/
def fld (w : Word) (lo n : Nat) : Nat := w.toNat / 2 ^ lo % 2 ^ n

/-- A word with a number placed at `lo`. -/
def place (x lo : Nat) : Nat := x * 2 ^ lo

def wordOf (x : Nat) : Word := BitVec.ofNat 64 x

/-- A bit of a number. -/
def bitOf (b : Bool) (n : Nat) : Nat := if b then 2 ^ n else 0

/-- Sign extension of an `n`-bit number. -/
def sext (n : Nat) (x : Nat) : Int := if x / 2 ^ (n - 1) % 2 = 1 then (x : Int) - 2 ^ n else x

end Sys2Proof.Machine
end

