-- ==== Sys2Proof/Machine/Fields.lean ====
section
/-! DEFINITION. Reading and replacing the parts of the state by number, free values (R7), and what is derived from the
registers: which slot runs a guest, widths, counts. -/

namespace Sys2Proof.Machine

/-! ### Slots, gangs, warps -/

/-- The slot's registers and vchip; an untouched slot is as after reset. -/
def State.slot (s : State) (v : Nat) : Slot := KMap.get s.slots Slot.reset v

def State.setSlot (s : State) (v : Nat) (x : Slot) : State := { s with slots := KMap.set s.slots Slot.reset v x }

def State.modSlot (s : State) (v : Nat) (f : Slot → Slot) : State := s.setSlot v (f (s.slot v))

def State.warp? (s : State) (w : Nat) : Option Warp := KMap.find? s.work.warps w

def State.setWarp (s : State) (w : Nat) (x : Warp) : State :=
  { s with work := { s.work with warps := KMap.put s.work.warps w x } }

def State.modWarp (s : State) (w : Nat) (f : Warp → Warp) : State :=
  match s.warp? w with
  | none => s
  | some x => s.setWarp w (f x)

def State.dropWarp (s : State) (w : Nat) : State :=
  { s with work := { s.work with warps := KMap.erase s.work.warps w } }

def State.gang? (s : State) (g : Nat) : Option Gang := KMap.find? s.work.gangs g

def State.setGang (s : State) (g : Nat) (x : Gang) : State :=
  { s with work := { s.work with gangs := KMap.put s.work.gangs g x } }

def State.modGang (s : State) (g : Nat) (f : Gang → Gang) : State :=
  match s.gang? g with
  | none => s
  | some x => s.setGang g (f x)

def State.modWork (s : State) (f : Work → Work) : State := { s with work := f s.work }
def State.modFabric (s : State) (f : Fabric → Fabric) : State := { s with fabric := f s.fabric }
def State.modDies (s : State) (f : Dies → Dies) : State := { s with dies := f s.dies }
def State.modPower (s : State) (f : Power → Power) : State := { s with power := f s.power }

/-- The warps of a gang, in the order of their numbers. -/
def State.warpsOf (s : State) (g : Nat) : List (Nat × Warp) := s.work.warps.filter fun e => e.2.id.gang == g

/-- The gang of a warp and the slot of a gang. -/
def State.gangOf (s : State) (w : Warp) : Option Gang := s.gang? w.id.gang

def State.slotOf (s : State) (w : Warp) : Nat := ((s.gangOf w).map (·.slot)).getD 0

/-- A gang that stands on its cores. -/
def GangSt.onCore (t : GangSt) : Bool := t == .resident || t == .ending || t == .stopping

def State.gangOnCore (s : State) (g : Nat) : Bool := ((s.gang? g).map (·.st.onCore)).getD true

/-- The gang of a warp is on its cores. -/
def State.warpResident (s : State) (wid : Nat) : Bool :=
  match s.warp? wid with
  | none => true
  | some w => s.gangOnCore w.id.gang

/-- The vchip in a slot. -/
def State.vchip? (s : State) (v : Nat) : Option Vchip := (s.slot v).vchip

/-- Slots that hold a vchip. -/
def State.vchips (s : State) : List (Nat × Vchip) := s.slots.filterMap fun e => e.2.vchip.map fun c => (e.1, c)

def State.anyVchip (s : State) : Bool := !s.vchips.isEmpty

/-! ### Signals and free values -/

def State.signal (s : State) (x : Signal) : State := { s with signals := s.signals ++ [x] }

/-- A fresh undefined value (R7). -/
def State.fresh (s : State) : Word × State := (Config.freeWord s.free, { s with free := s.free + 1 })

/-- A fresh choice among `n` listed values (R7). -/
def State.choose (s : State) (n : Nat) : Nat × State := (Config.choice s.free % max n 1, { s with free := s.free + 1 })

/-- `n` fresh values. -/
def State.freshN (s : State) : Nat → List Word × State
  | 0 => ([], s)
  | n + 1 =>
    let (w, s) := s.fresh
    let (ws, s) := State.freshN s n
    (w :: ws, s)

/-! ### Launch records of gangs (R89) -/

def recWord (ws : List Word) (i : Nat) : Word := ws.getD i 0

def Gang.word (g : Gang) (i : Nat) : Word := recWord g.words i
def Gang.nwg (g : Gang) : Nat := fld (g.word 2) 60 4 + 1
def Gang.nwarp (g : Gang) : Nat := fld (g.word 2) 56 4 + 1
def Gang.rgran (g : Gang) : Nat := fld (g.word 2) 52 4
def Gang.zt (g : Gang) : Nat := fld (g.word 2) 43 9
def Gang.vlt (g : Gang) : Nat := fld (g.word 2) 32 11
def Gang.boost (g : Gang) : Bool := fld (g.word 2) 27 1 == 1
def Gang.podg (g : Gang) : Bool := fld (g.word 2) 26 1 == 1
def Gang.yg (g : Gang) : Bool := fld (g.word 2) 24 1 == 1
def Gang.lid (g : Gang) : Nat := fld (g.word 3) 0 32
def Gang.gx (g : Gang) : Nat := fld (g.word 1) 0 20 + 1
def Gang.gy (g : Gang) : Nat := fld (g.word 1) 20 20 + 1
def Gang.gz (g : Gang) : Nat := fld (g.word 1) 40 20 + 1

/-- %gidx: the gang's z, y, x in the positions of W1 (R267). -/
def Gang.gidxWord (g : Gang) : Word :=
  let x := g.gidx % g.gx
  let y := g.gidx / g.gx % g.gy
  let z := g.gidx / (g.gx * g.gy)
  wordOf (place x 0 + place y 20 + place z 40)

/-- Vector registers of a warp: 32 × RGRAN (R405). -/
def Gang.nv (g : Gang) : Nat := 32 * g.rgran

def Gang.wg? (g : Gang) (i : Nat) : Option WgClaim := g.wgs[i]?

/-! ### Lanes -/

def laneBit (l : Nat) : Mask := (1 : Mask) <<< l

def Mask.has (m : Mask) (l : Nat) : Bool := m.getLsbD l

/-- The lanes of a mask, ascending. -/
def Mask.lanes (m : Mask) : List Nat := (upTo 128).filter fun l => m.getLsbD l

def Mask.count (m : Mask) : Nat := (Mask.lanes m).length

def maskOf (ls : List Nat) : Mask := ls.foldl (fun m l => m ||| laneBit l) 0

/-- Every lane of a warp of this width. -/
def fullMask (width : Nat) : Mask := BitVec.ofNat 128 (2 ^ width - 1)

/-! ### Registers of a warp -/

def Warp.sreg (w : Warp) (n : Nat) : Word := KMap.get w.set.s 0 n

def Warp.setS (w : Warp) (n : Nat) (x : Word) : Warp := { w with set := { w.set with s := KMap.set w.set.s 0 n x } }

def Warp.vreg (w : Warp) (n l : Nat) : Word := KMap.get w.vr.v 0 (128 * n + l)

def Warp.setV (w : Warp) (n l : Nat) (x : Word) : Warp :=
  { w with vr := { w.vr with v := KMap.set w.vr.v 0 (128 * n + l) x } }

/-- Predicates p0 to p6 as written, p7 true (R112). -/
def Warp.pred (w : Warp) (p : Nat) : Mask := if p = 7 then BitVec.allOnes 128 else KMap.get w.vr.p 0 p

/-- A write to p7 is ignored (R112). -/
def Warp.setP (w : Warp) (p : Nat) (m : Mask) : Warp :=
  if p = 7 then w else { w with vr := { w.vr with p := KMap.set w.vr.p 0 p m } }

def Warp.path? (w : Warp) (i : Nat) : Option Path := (w.paths.getD i none)

def Warp.setPath (w : Warp) (i : Nat) (p : Option Path) : Warp := { w with paths := setAt w.paths i p }

def Warp.modPath (w : Warp) (i : Nat) (f : Path → Path) : Warp := w.setPath i ((w.path? i).map f)

/-- The lanes of a path that have not exited (R281). -/
def Warp.active (w : Warp) (i : Nat) : Mask :=
  match w.path? i with
  | none => 0
  | some p => p.mask &&& ~~~w.exited

/-- Live paths: places in use. -/
def Warp.livePaths (w : Warp) : List (Nat × Path) :=
  (upTo 4).filterMap fun i => (w.path? i).map fun p => (i, p)

/-- Every lane has exited (R125). -/
def Warp.allExited (w : Warp) : Bool := w.exited &&& fullMask w.width == fullMask w.width

def Handle.idle : Handle := ⟨.idle, 0, 0, 0, false, 0, 0⟩

def Warp.handle (w : Warp) (f : Nat) : Handle := w.handles.getD f Handle.idle

def Warp.setHandle (w : Warp) (f : Nat) (h : Handle) : Warp := { w with handles := setAt w.handles f h }

/-- %warp: 4 × slot + first original lane ÷ 8 (R115). -/
def Warp.number (w : Warp) : Nat := 4 * w.id.slot + w.id.first

/-- The core's cycle count (R133). -/
def State.cyc (s : State) (core : Nat) : Nat := (s.dies.ticks + KMap.get s.dies.cyc 0 core) % 2 ^ 64

def State.addCyc (s : State) (core n : Nat) : State :=
  s.modDies fun d => { d with cyc := KMap.set d.cyc 0 core ((KMap.get d.cyc 0 core + n) % 2 ^ 64) }

/-- Clocks run in M0 and M1 of OPERATIONAL outside a thermal halt (R13, R16). -/
def State.clocksRun (s : State) : Bool :=
  s.power.start == .operational && (s.power.cur == 0 || s.power.cur == 1) && !s.power.thalt

/-! ### Host memory behind a TDI (R27) -/

/-- Device requests to host memory leave only while the vchip's TDI is in RUN; until then they are held. -/
def State.hostOpen (s : State) (v : Nat) : Bool := (s.slot v).tdi == some .run

def State.placeOpen (s : State) (v : Nat) (p : Place) : Bool :=
  match p with
  | .host _ => s.hostOpen v
  | _ => true

/-! ### Cores and vchips -/

/-- Core numbers of a vchip: 16 for each of its clusters (R9, R88). -/
def Vchip.cores (c : Vchip) : Nat := 16 * c.clusters.length

/-- The vchip's lowest core, from which its cores are numbered (R88, R115). -/
def Vchip.core0 (c : Vchip) : Nat := 16 * c.clusters.headD 0

/-- The module core that a vchip's i-th core is: the cores of its clusters in ascending order (R74). -/
def Vchip.coreAt (c : Vchip) (i : Nat) : Nat := 16 * c.clusters.getD (i / 16) 0 + i % 16

/-- The number of a module core within the vchip. -/
def Vchip.coreIndex (c : Vchip) (core : Nat) : Nat :=
  16 * ((indexWhere (· == core / 16) c.clusters 0).getD 0) + core % 16

/-- The guest's pod size (R45). -/
def State.podSize (s : State) (guest : Nat) : Nat := ((KMap.find? s.tables.guests guest).map (·.nvch)).getD 0

/-- Current generation of an owner: 0-63 a slot; the hypervisor and the controller hold the reserved generation that
never expires (R73, R79). -/
def State.ownerGen (s : State) (owner : Nat) : Option (BitVec 8) :=
  if owner < 64 then some (s.slot owner).gen else none

/-- A new token, unique among the valid ones (R86). -/
def State.newToken (s : State) (t : TokenOf) : Nat × State :=
  let n := KMap.firstFree s.evq.tokens 65536 (Config.freeToken s.free).toNat
  let n := if n < 65536 then n else KMap.firstFree s.evq.tokens 65536 1
  let n := if n = 0 then KMap.firstFree s.evq.tokens 65536 1 else n
  (n, { s with free := s.free + 1, evq := { s.evq with tokens := KMap.put s.evq.tokens n t } })

end Sys2Proof.Machine
end

