-- ==== Sys2Proof/Machine/Translate.lean ====
section
/-! DEFINITION. HBM with its generation tags (R79, R80), the two stages of translation (R70 to R75), cached combined
translations (R76), and where an address of a gang leads (R134, R135). -/

namespace Sys2Proof.Machine

/-! ### HBM -/

/-- One TiB: HBM physical addresses lie below it (R140). -/
def tib : Nat := 2 ^ 40

def lineOf (pa : Nat) : Nat := pa / 64

/-- Entries of the hypervisor under its key index (R60, R73, R78). -/
def Owner.hv : Owner := ⟨64, 0⟩

/-- The tag value that an owner's lines carry: a slot's current generation; two values that the pool never hands out
for the hypervisor (64) and the controller (65) (R73, R79; log entry 6). -/
def State.ownerTag (s : State) (ow : Owner) : BitVec 8 :=
  match s.ownerGen ow.id with
  | some g => g
  | none => if ow.id == 64 then 0xFE else 0xFF

/-- The key that an entry's KEY index names now (R78): a vchip's index is its slot + 1 and its key is drawn at its creation and at every
reset; other indices keep the key of the boot. -/
def State.keyOf (s : State) (ow : Owner) : Nat :=
  if 1 ≤ ow.key && ow.key ≤ 64 then ow.key + 256 * (s.slot (ow.key - 1)).keyDraws else ow.key

def Hbm.retiredLine (h : Hbm) (line : Nat) : Bool := h.retired.contains line || h.bad.contains line

def Hbm.tagOf (h : Hbm) (line : Nat) : BitVec 8 := KMap.get h.tags 0 line

/-- The key that a line was written under. -/
def Hbm.keyOf (h : Hbm) (line : Nat) : Nat := KMap.get h.keys 0 line

/-- A byte as the base die decrypts it under a key (R78): under the key of its line, as written. -/
def Hbm.plain (h : Hbm) (key pa : Nat) : Byte :=
  let k := h.keyOf (lineOf pa)
  if k = key then Memory.byte h.bytes pa
  else Config.otherKey k key pa (Memory.bytes h.bytes (pa / 16 * 16) 16)

/-- A read through an entry of an owner (R79). -/
def State.hbmRead (s : State) (ow : Owner) (pa n : Nat) : List Byte :=
  let g := s.ownerTag ow
  let k := s.keyOf ow
  (upTo n).map fun i =>
    let line := lineOf (pa + i)
    if g == 0 || s.hbm.retiredLine line || s.hbm.tagOf line != g then 0 else s.hbm.plain k (pa + i)

/-- A line as a write under another key finds it: what it decrypts to, under that key from now on (R78). -/
def Hbm.rekey (h : Hbm) (key line : Nat) : Hbm :=
  if h.keyOf line = key then h
  else { h with
    bytes := Memory.setBytes h.bytes (line * 64) ((upTo 64).map fun i => h.plain key (line * 64 + i))
    keys := KMap.set h.keys 0 line key }

/-- One byte written with tag `g` under a key: a stale line counts as zero (R79). -/
def Hbm.putByte (h : Hbm) (g : BitVec 8) (key pa : Nat) (b : Byte) : Hbm :=
  let line := lineOf pa
  if h.retiredLine line then h
  else if h.tagOf line == g then
    let h := h.rekey key line
    { h with bytes := Memory.setByte h.bytes pa b }
  else { h with
    bytes := Memory.setByte (KMap.dropRange h.bytes (line * 64) 64) pa b
    tags := KMap.set h.tags 0 line g
    keys := KMap.set h.keys 0 line key }

def Hbm.putBytes : Hbm → BitVec 8 → Nat → Nat → List Byte → Hbm
  | h, _, _, _, [] => h
  | h, g, k, pa, b :: bs => Hbm.putBytes (h.putByte g k pa b) g k (pa + 1) bs

/-- A write through an entry of an owner; an owner without a generation writes nothing (R79, R80). -/
def State.hbmWrite (s : State) (ow : Owner) (pa : Nat) (bs : List Byte) : State :=
  let g := s.ownerTag ow
  if g == 0 then s else { s with hbm := s.hbm.putBytes g (s.keyOf ow) pa bs }

/-! ### Host memory and vaults -/

def State.hostRead (s : State) (a n : Nat) : List Byte := Memory.bytes s.hostMem a n

def State.hostWrite (s : State) (a : Nat) (bs : List Byte) : State :=
  { s with hostMem := Memory.setBytes s.hostMem a bs }

/-- Bytes of a core's vault (R112). -/
def vaultSize : Nat := 2 ^ 22

def vaultKey (core off : Nat) : Nat := core * vaultSize + off % vaultSize

def State.vaultRead (s : State) (core off n : Nat) : List Byte := Memory.bytes s.dies.vault (vaultKey core off) n

def State.vaultWrite (s : State) (core off : Nat) (bs : List Byte) : State :=
  s.modDies fun d => { d with vault := Memory.setBytes d.vault (vaultKey core off) bs }

/-! ### Stages -/

/-- What an access needs (R71): read, write, execute. -/
structure Acc where
  r : Bool
  w : Bool
  x : Bool
deriving DecidableEq, Repr

def Acc.read : Acc := ⟨true, false, false⟩
def Acc.write : Acc := ⟨false, true, false⟩
def Acc.both : Acc := ⟨true, true, false⟩
def Acc.exec : Acc := ⟨false, false, true⟩

/-- ACC of a record and SUB of class 17: bit 0 read, bit 1 write, bit 2 execute (R86, R216). -/
def Acc.bits (a : Acc) : Nat := bitOf a.r 0 + bitOf a.w 1 + bitOf a.x 2

/-- Why an address does not resolve (R75): a fault with class and SUB, a stage-2 violation with the guest physical address and the
access, or a stage-1 table in host memory that the link die does not reach now, for which the access waits (R27). -/
inductive XErr where
  | fault (cls sub : Nat)
  | violation (gpa acc : Nat)
  | held
deriving DecidableEq, Repr

/-- An entry that one stage found: output address, permissions, attribute word. -/
structure StageHit where
  out : Nat
  r : Bool
  w : Bool
  x : Bool
  attr : Word
deriving DecidableEq, Repr

/-- Outcome of one stage's search. -/
inductive Look where
  | miss
  | wrongLevel
  | hit (h : StageHit)
deriving DecidableEq, Repr

def StageHit.denied (h : StageHit) (a : Acc) : Acc := ⟨a.r && !h.r, a.w && !h.w, a.x && !h.x⟩

/-- A found entry. An output at or above 2^52 wraps, before the check against one TiB: the spec leaves it open (R72; log entry 81). -/
def hitOf (out : Nat) (w0 attr : Word) : StageHit :=
  ⟨out % 2 ^ 52, fld w0 3 1 == 1, fld w0 4 1 == 1, fld w0 5 1 == 1, attr⟩

/-- Table base: bits [51:13] (R71, R73). -/
def tableBase (w : Word) : Nat := place (fld w 13 39) 13

/-- COUNT, values above 256 read as 256 (R71). -/
def rangeCount (w : Word) : Nat := min (fld w 0 9) 256

/-- The lowest-indexed range entry that covers `a` (R71, R72), reading words through `rd`. -/
def rangeSearch (rd : Nat → Nat → Except XErr (List Word)) (base a : Nat) : Nat → Nat → Except XErr (Option StageHit)
  | 0, _ => .ok none
  | fuel + 1, i =>
    match rd (base + 32 * i) 4 with
    | .error e => .error e
    | .ok ws =>
      let w0 := ws.getD 0 0
      let w1 := ws.getD 1 0
      let w2 := ws.getD 2 0
      let u := a / 2 ^ 12
      if fld w0 0 1 == 1 && fld w0 12 45 ≤ u && u ≤ fld w1 12 45 then
        .ok (some (hitOf (place (fld w2 12 40) 12 + (a - place (fld w0 12 45) 12)) w0 (ws.getD 3 0)))
      else rangeSearch rd base a fuel (i + 1)

/-- The five-level walk (R73): `lv` levels remain, the table stands at `base`. Bits of a leaf's OA below its size are ignored: the spec
leaves them open (log entry 82). -/
def walkTable (rd : Nat → Nat → Except XErr (List Word)) (a : Nat) : Nat → Nat → Except XErr Look
  | 0, _ => .ok .miss
  | lv + 1, base =>
    let sh := 12 + 9 * lv
    match rd (base + 16 * (a / 2 ^ sh % 512)) 2 with
    | .error e => .error e
    | .ok ws =>
      let w0 := ws.getD 0 0
      if fld w0 0 1 == 0 then .ok .miss
      else if fld w0 1 1 == 1 then
        if lv == 0 then .ok .wrongLevel else walkTable rd a lv (tableBase w0)
      else if 2 < lv then .ok .wrongLevel
      else
        let oa := place (fld w0 12 40) 12
        .ok (.hit (hitOf (oa / 2 ^ sh * 2 ^ sh + a % 2 ^ sh) w0 (ws.getD 1 0)))

/-- One stage: its range table, then its walk (R71, R72). -/
def stageFind (rd : Nat → Nat → Except XErr (List Word)) (range root : Word) (a : Nat) : Except XErr Look :=
  if 2 ^ 57 ≤ a then .ok .miss
  else match rangeSearch rd (tableBase range) a (rangeCount range) 0 with
    | .error e => .error e
    | .ok (some h) => .ok (.hit h)
    | .ok none => if fld root 0 1 == 1 then walkTable rd a 5 (tableBase root) else .ok .miss

/-- Stage-2 tables stand in HBM under owner 64 (R71; log entry 6). -/
def State.rdPhys (s : State) (pa n : Nat) : Except XErr (List Word) := .ok (bytesWords (s.hbmRead Owner.hv pa (8 * n)))

def attrAper (a : Word) : Nat := fld a 0 2
def attrRap (a : Word) : Bool := fld a 2 1 == 1
def attrNme (a : Word) : Bool := fld a 3 1 == 1
def attrOwner (a : Word) : Owner := ⟨fld a 24 8, fld a 16 8⟩

/-- Stage 2 (R71 to R75): a miss, a denial, APER 1 or 3, an output at or above one TiB under APER 0 and a refused
OWNER (R73) violate. -/
def State.stage2 (s : State) (v gpa : Nat) (acc : Acc) : Except XErr StageHit :=
  let b := (s.slot v).blk
  match stageFind s.rdPhys b.s2range b.s2root gpa with
  | .error e => .error e
  | .ok (.hit h) =>
    let ap := attrAper h.attr
    if (h.denied acc).bits ≠ 0 || ap == 1 || ap == 3 || (ap == 0 && tib ≤ h.out) || 65 < (attrOwner h.attr).id then
      .error (.violation gpa acc.bits)
    else .ok h
  | .ok _ => .error (.violation gpa acc.bits)

/-- A place's bytes when it lies in HBM or host memory. -/
def State.readHit (s : State) (h : StageHit) (n : Nat) : List Byte :=
  if attrAper h.attr == 0 then s.hbmRead (attrOwner h.attr) h.out n else s.hostRead h.out n

/-- Stage-1 tables stand at guest physical addresses (R71, R73); reads of those in host memory are held until the TDI is in RUN (R27). -/
def State.rdGuest (s : State) (v gpa n : Nat) : Except XErr (List Word) :=
  match s.stage2 v gpa Acc.read with
  | .error e => .error e
  | .ok h => if attrAper h.attr == 2 && !s.hostOpen v then .error .held else .ok (bytesWords (s.readHit h (8 * n)))

/-- What a guest virtual address resolves to: a place, and the effective permit bits (R74). -/
structure Target where
  place : Place
  nme : Bool
  rap : Bool
  own : Nat                       -- aperture of the result: 0 local HBM, 1 pod, 2 host, 3 vault
deriving DecidableEq, Repr

/-- The pod window's bits [63:50] (R43, R70). -/
def inPodWindow (a : Word) : Bool := fld a 50 14 == 0x40

/-- A pod place; a vchip at or above the pod's size faults (R43). -/
def State.podTarget (s : State) (v vch off : Nat) (rap : Bool) : Except XErr Target :=
  match s.vchip? v with
  | none => .error (.fault 16 4)
  | some c => if vch < s.podSize c.guest then .ok ⟨.pod vch off, false, rap, 1⟩ else .error (.fault 16 4)

/-- Every translation fault of a fetch is SUB 5 (R216). -/
def XErr.ofFetch (x : Bool) (r : Except XErr Target) : Except XErr Target :=
  match r with
  | .error (.fault 16 n) => .error (.fault 16 (if x then 5 else n))
  | r => r

/-- The combined translation of a device address as the tables stand (R74, R75). Stage-1 denial goes before stage 2. -/
def State.translateNow (s : State) (v : Nat) (a : Word) (acc : Acc) : Except XErr Target :=
  let w := (s.slot v).win
  match stageFind (s.rdGuest v) w.s1range w.s1root a.toNat with
  | .error e => .error e
  | .ok .miss => XErr.ofFetch acc.x (.error (.fault 16 1))
  | .ok .wrongLevel => XErr.ofFetch acc.x (.error (.fault 16 2))
  | .ok (.hit h) =>
    let d := h.denied acc
    if d.bits ≠ 0 then .error (.fault 17 d.bits)
    else match attrAper h.attr with
      | 1 => XErr.ofFetch acc.x (s.podTarget v (h.out / 2 ^ 40 % 2 ^ 10) (h.out % 2 ^ 40) (attrRap h.attr))
      | 3 =>
        let i := h.out / 2 ^ 22 % 2 ^ 12
        XErr.ofFetch acc.x (match s.vchip? v with
        | none => .error (.fault 16 3)
        | some c =>
          if i < c.cores then .ok ⟨.vault (c.coreAt i) (h.out % vaultSize), attrNme h.attr, attrRap h.attr, 3⟩
          else .error (.fault 16 3))
      | ap =>
        match s.stage2 v h.out acc with
        | .error e => .error e
        | .ok h2 =>
          let nme := attrNme h.attr && attrNme h2.attr
          let rap := attrRap h.attr && attrRap h2.attr
          if attrAper h2.attr == 2 then .ok ⟨.host h2.out, nme, rap, 2⟩
          else if ap == 2 then .error (.violation h.out acc.bits)
          else .ok ⟨.hbm h2.out (attrOwner h2.attr), nme, rap, 0⟩

/-! ### Cached combined translations (R76, R77) -/

def placeBase (p : Place) (off : Nat) : Place :=
  match p with
  | .hbm pa o => .hbm (pa - off) o
  | .host a => .host (a - off)
  | .vault c o => .vault c (o - off)
  | .pod v o => .pod v (o - off)

/-- A place `n` bytes on. -/
def Place.add (p : Place) (n : Nat) : Place :=
  match p with
  | .hbm pa o => .hbm (pa + n) o
  | .host a => .host (a + n)
  | .vault c o => .vault c (o + n)
  | .pod v o => .pod v (o + n)

/-- Address number of a place for the cached entry. -/
def Place.num : Place → Nat
  | .hbm pa _ => pa
  | .host a => a
  | .vault c o => vaultKey c o
  | .pod v o => v * 2 ^ 40 + o

def Place.owner : Place → Owner
  | .hbm _ o => o
  | _ => ⟨0, 0⟩

def Target.entry (t : Target) (page : Nat) (acc : Acc) : TlbEntry :=
  ⟨page, t.own, t.place.num / 4096, acc.r, acc.w, acc.x, t.nme, t.rap, t.place.owner⟩

def TlbEntry.target (e : TlbEntry) (off : Nat) : Target :=
  let n := e.out * 4096 + off
  let p : Place := match e.aper with
    | 0 => .hbm n e.owner
    | 1 => .pod (n / 2 ^ 40) (n % 2 ^ 40)
    | 2 => .host n
    | _ => .vault (n / vaultSize) (n % vaultSize)
  ⟨p, e.nme, e.rap, e.aper⟩

/-- A cached entry for this page and these permissions. -/
def tlbFind (es : List TlbEntry) (page : Nat) (acc : Acc) : Option TlbEntry :=
  es.find? fun e => e.page == page && (!acc.r || e.r) && (!acc.w || e.w) && (!acc.x || e.x)

def State.cache (s : State) (v : Nat) (e : TlbEntry) : State :=
  if (s.slot v).tlb.contains e then s else s.modSlot v fun x => { x with tlb := e :: x.tlb }

/-- Translation of a device address: while a removed or changed table entry has not been invalidated, the cached
translation or the new one applies, which one is unspecified (R76, R77); a cached one needs no table. A miss is never cached (log
entry 20). -/
def State.translate (s : State) (v : Nat) (a : Word) (acc : Acc) : Except XErr Target × State :=
  let now := s.translateNow v a acc
  let page := a.toNat / 4096
  let off := a.toNat % 4096
  match tlbFind (s.slot v).tlb page acc with
  | none =>
    match now with
    | .ok t => (now, s.cache v ((⟨placeBase t.place off, t.nme, t.rap, t.own⟩ : Target).entry page acc))
    | .error _ => (now, s)
  | some e =>
    let old := e.target off
    if now = .ok old then (now, s)
    else if now = .error .held then (.ok old, s)
    else
      let (k, s) := s.choose 2
      (if k = 0 then .ok old else now, s)

/-! ### Vault addresses (R134, R135) -/

def XErr.isFault : XErr → Bool
  | .fault _ _ => true
  | .violation _ _ | .held => false

/-- A vault address of a gang for `n` bytes (R134, R135): bits [63:26] zero, the workgroup within the gang, the end
within the workgroup's allocation. -/
def Gang.vaultPlace (g : Gang) (a : Word) (n : Nat) : Except XErr Target :=
  let wg := fld a 22 4
  let off := fld a 0 22
  match g.wg? wg with
  | none => .error (.fault 16 3)
  | some c =>
    if fld a 26 38 ≠ 0 || g.nwg ≤ wg || g.vlt * 4096 < off + n || g.vlt = 0 then .error (.fault 16 3)
    else .ok ⟨.vault c.core (c.vault + off), true, true, 3⟩

/-- How an address position is read (R134, R285, R322). -/
inductive Space where
  | any          -- vault below 2^26, else pod or device
  | vault        -- always a vault address
  | device       -- never a vault address
deriving DecidableEq, Repr

/-- An effective address of a gang of slot `v` resolved for an access of `n` bytes (R322). -/
def State.resolve (s : State) (v : Nat) (g : Gang) (sp : Space) (a : Word) (n : Nat) (acc : Acc) :
    Except XErr Target × State :=
  if sp == .vault || (sp == .any && fld a 26 38 == 0) then (g.vaultPlace a n, s)
  else if inPodWindow a then (s.podTarget v (fld a 40 10) (fld a 0 40) true, s)
  else s.translate v a acc

/-! ### Bytes at a place -/

def State.readPlace (s : State) (p : Place) (n : Nat) : List Byte :=
  match p with
  | .hbm pa o => s.hbmRead o pa n
  | .host a => s.hostRead a n
  | .vault c o => s.vaultRead c o n
  | .pod _ _ => List.replicate n 0

def State.writePlace (s : State) (p : Place) (bs : List Byte) : State :=
  match p with
  | .hbm pa o => s.hbmWrite o pa bs
  | .host a => s.hostWrite a bs
  | .vault c o => s.vaultWrite c o bs
  | .pod _ _ => s

def State.readWord (s : State) (p : Place) (n : Nat) : Word := leWord (s.readPlace p n)

end Sys2Proof.Machine
end

