-- ==== Sys2Proof/Machine/Packets.lean ====
section
/-! DEFINITION. Packet headers (R33 to R35): their fields, building one, answers to a request, and the guest tables that
route them (R43 to R51). -/

namespace Sys2Proof

open Machine

/-! ### Fields (R33) -/

def Packet.typ (p : Packet) : Nat := fld p.w0 58 6
def Packet.len (p : Packet) : Nat := fld p.w0 54 4
def Packet.rmode (p : Packet) : Nat := fld p.w0 52 2
def Packet.rev (p : Packet) : Bool := fld p.w0 48 1 == 1
def Packet.dmod (p : Packet) : Nat := fld p.w0 40 8
def Packet.via (p : Packet) : Nat := fld p.w0 32 8
def Packet.smod (p : Packet) : Nat := fld p.w0 24 8
def Packet.dslot (p : Packet) : Nat := fld p.w0 18 6
def Packet.sslot (p : Packet) : Nat := fld p.w0 12 6
def Packet.keyix (p : Packet) : Nat := fld p.w1 48 16
def Packet.guest (p : Packet) : Nat := fld p.w1 32 16
def Packet.stream (p : Packet) : Nat := fld p.w1 24 8
def Packet.seq (p : Packet) : Nat := fld p.w1 0 24
def Packet.dvch (p : Packet) : Nat := fld p.w2 40 10
def Packet.offset (p : Packet) : Nat := fld p.w2 0 40
def Packet.aop (p : Packet) : Nat := fld p.w3 60 4
def Packet.atype (p : Packet) : Nat := fld p.w3 56 4
def Packet.nbytes (p : Packet) : Nat := fld p.w3 46 10
def Packet.svch (p : Packet) : Nat := fld p.w3 36 10
def Packet.mset (p : Packet) : Nat := fld p.w3 28 8
def Packet.mc (p : Packet) : Bool := fld p.w3 27 1 == 1
def Packet.oparg (p : Packet) : Nat := fld p.w3 0 24
def Packet.imm (p : Packet) : Word := p.w4
def Packet.epoch (p : Packet) : Nat := fld p.w5 32 32
def Packet.rstream (p : Packet) : Nat := fld p.w5 24 8
def Packet.rseq (p : Packet) : Nat := fld p.w5 0 24

/-- The GCM nonce (R36). -/
def Packet.nonce (p : Packet) (answer : Bool) : BitVec 96 :=
  BitVec.ofNat 96 (place p.epoch 64 + place p.stream 56 + place p.seq 32 + place p.smod 24 + place p.sslot 18 +
    place p.dslot 12 + place p.dmod 4 + (if answer then 1 else 0))

/-- A packet under its tag (R36). -/
def Packet.seal (p : Packet) (key : BitVec 256) (answer : Bool) : Packet :=
  { p with tag := Config.gcmTag key (p.nonce answer) [p.w0, p.w1, p.w2, p.w3, p.w4, p.w5] p.payload }

def Packet.tagOk (p : Packet) (key : BitVec 256) (answer : Bool) : Bool := (p.seal key answer).tag == p.tag

/-- With SEQ, STREAM and EPOCH set at the moment of sending (R36). -/
def Packet.numbered (p : Packet) (stream seq epoch : Nat) : Packet :=
  { p with
    w1 := wordOf (place p.keyix 48 + place p.guest 32 + place stream 24 + seq)
    w5 := wordOf (place epoch 32 + place p.rstream 24 + p.rseq) }

end Sys2Proof

namespace Sys2Proof.Machine

/-- A header as fields; what a packet does not use is 0 (R33). -/
structure Hdr where
  typ : Nat := 0
  rmode : Nat := 0
  rev : Bool := false
  dmod : Nat := 0
  via : Nat := 0
  smod : Nat := 0
  dslot : Nat := 0
  sslot : Nat := 0
  keyix : Nat := 0
  guest : Nat := 0
  stream : Nat := 0
  seq : Nat := 0
  dvch : Nat := 0
  offset : Nat := 0
  aop : Nat := 0
  atype : Nat := 0
  nbytes : Nat := 0
  svch : Nat := 0
  mset : Nat := 0
  mc : Bool := false
  oparg : Nat := 0
  imm : Word := 0
  epoch : Nat := 0
  rstream : Nat := 0
  rseq : Nat := 0
deriving DecidableEq, Repr

/-- The data flits that a payload takes: 64 bytes each (R32, R33). -/
def flitsOf (n : Nat) : Nat := (n + 63) / 64

/-- The packet of a header and payload, its tag still to be computed. -/
def Hdr.packet (h : Hdr) (payload : List Byte) : Packet where
  w0 := wordOf (place h.typ 58 + place (flitsOf payload.length) 54 + place h.rmode 52 + bitOf h.rev 48 +
    place h.dmod 40 + place h.via 32 + place h.smod 24 + place h.dslot 18 + place h.sslot 12)
  w1 := wordOf (place h.keyix 48 + place h.guest 32 + place h.stream 24 + h.seq)
  w2 := wordOf (place h.dvch 40 + h.offset)
  w3 := wordOf (place h.aop 60 + place h.atype 56 + place h.nbytes 46 + place h.svch 36 + place h.mset 28 +
    bitOf h.mc 27 + h.oparg)
  w4 := h.imm
  w5 := wordOf (place h.epoch 32 + place h.rstream 24 + h.rseq)
  tag := 0
  payload := payload

/-! ### Guest tables -/

/-- A guest by its number. -/
def State.guest? (s : State) (g : Nat) : Option Guest := KMap.find? s.tables.guests g

/-- The header of the guest whose tables a vchip's requests take: the one that its own guest's header names in GUEST (R45, R46). -/
def State.headerOf (s : State) (c : Vchip) : Nat := ((s.guest? c.guest).map (·.ident)).getD c.guest

/-- Map entry of guest vchip `d` (R46). -/
def Guest.mapEntry (g : Guest) (d : Nat) : Word := KMap.get g.vmap 0 d
def mapV (w : Word) : Bool := fld w 63 1 == 1
def mapLoop (w : Word) : Bool := fld w 62 1 == 1
def mapHint (w : Word) : Bool := fld w 61 1 == 1
def mapDmod (w : Word) : Nat := fld w 48 8
def mapDslot (w : Word) : Nat := fld w 42 6
def mapLabel (w : Word) : Nat := fld w 28 12

/-- Route label (R47). -/
def Guest.label (g : Guest) (l : Nat) : BitVec 32 := KMap.get g.labels 0 l
def labV (l : BitVec 32) : Bool := l.getLsbD 31
def labPin (l : BitVec 32) : Bool := l.getLsbD 30
def labMode (l : BitVec 32) : Nat := (l.extractLsb' 28 2).toNat
def labVia (l : BitVec 32) : Nat := (l.extractLsb' 20 8).toNat

/-- KEYIX of the vlink from the vchip in slot `v` to guest vchip `d` (R49). -/
def State.keyIxOf (s : State) (v d : Nat) : Nat := KMap.get (s.slot v).ktable 0 d

def State.key? (s : State) (k : Nat) : Option Key := KMap.find? s.tables.keys k

/-- Fields of a key entry (R50). -/
def Key.v (k : Key) : Bool := fld k.w0 63 1 == 1
def Key.nxv (k : Key) : Bool := fld k.w0 62 1 == 1
def Key.sslot (k : Key) : Nat := fld k.w0 52 6
def Key.dslot (k : Key) : Nat := fld k.w0 46 6
def Key.svch (k : Key) : Nat := fld k.w0 36 10
def Key.dvch (k : Key) : Nat := fld k.w0 26 10
def Key.guest (k : Key) : Nat := fld k.w0 0 16

def State.modKey (s : State) (k : Nat) (f : Key → Key) : State :=
  match s.key? k with
  | none => s
  | some x => { s with tables := { s.tables with keys := KMap.put s.tables.keys k (f x) } }

/-- The slot in which this module hosts a vchip of a guest. -/
def State.slotOfVch (s : State) (guest vch : Nat) : Option Nat :=
  (s.vchips.find? fun e => e.2.guest == guest && e.2.vch == vch).map (·.1)

/-! ### Answers (R33, R34, R51) -/

/-- Queue an answer to a packet that arrived: in reverse, under its key, from its DSLOT to its SSLOT, row first to its SMOD
(R30, R51). -/
def State.answer (s : State) (p : Packet) (typ oparg : Nat) (imm : Word) (rstream rseq : Nat) (payload : List Byte)
    (control : Bool) : State :=
  let h : Hdr := {
    typ := typ, rev := true, dmod := p.smod
    smod := s.links.coord.toNat, dslot := p.sslot, sslot := p.dslot, keyix := p.keyix, guest := p.guest, dvch := p.svch,
    svch := p.dvch, nbytes := payload.length, oparg := oparg, imm := imm, rstream := rstream, rseq := rseq }
  let o : OutPkt := ⟨h.packet payload, p.keyix, p.smod == s.links.coord.toNat, false⟩
  s.modFabric fun f => if control then { f with controls := f.controls ++ [o] } else { f with responses := f.responses ++ [o] }

/-- ACK of the stream up to `seq` (R34, R39). -/
def State.sendAck (s : State) (p : Packet) (seq : Nat) : State := s.answer p 0x08 seq 0 p.stream seq [] false

/-- FREEZE of the stream at `seq` (R34, R40). -/
def State.sendFreeze (s : State) (p : Packet) (code seq : Nat) : State := s.answer p 0x10 code 0 p.stream seq [] true

/-- The destination's RESUME, with abandon or without (R34, R40). -/
def State.sendResume (s : State) (p : Packet) (abandon : Bool) (seq : Nat) : State :=
  s.answer p 0x11 (if abandon then 1 else 0) 0 p.stream seq [] true

/-- A forward control packet (HINT, GANG, a source's RESUME) from the vchip in slot `v` to guest vchip `d` (R51, R58,
R101): none when there is no vlink or no map entry. -/
def State.sendControl (s : State) (v d typ oparg : Nat) (imm : Word) (rstream rseq : Nat) (payload : List Byte) : State :=
  match s.vchip? v with
  | none => s
  | some c =>
    match s.guest? (s.headerOf c) with
    | none => s
    | some g =>
      let e := g.mapEntry d
      let k := s.keyIxOf v d
      let l := g.label (mapLabel e)
      if !mapV e || k = 0 || !labV l then s
      else
        let loop := mapLoop e
        let h : Hdr := {
          typ := typ, rmode := if loop then 0 else labMode l, dmod := mapDmod e
          via := if loop then 0 else labVia l, smod := s.links.coord.toNat, dslot := mapDslot e, sslot := v, keyix := k,
          guest := s.headerOf c, dvch := d, svch := c.vch, nbytes := payload.length, oparg := oparg, imm := imm,
          rstream := rstream, rseq := rseq }
        let o : OutPkt := ⟨h.packet payload, k, loop, labPin l⟩
        s.modFabric fun f => { f with controls := f.controls ++ [o] }

/-! ### Streams -/

def State.srcStream? (s : State) (id : StreamId) : Option SrcStream := s.fabric.src.find? fun x => x.id == id

def State.setSrc (s : State) (x : SrcStream) : State :=
  s.modFabric fun f =>
    match indexWhere (fun y : SrcStream => y.id == x.id) f.src 0 with
    | none => { f with src := f.src ++ [x] }
    | some i => { f with src := setAt f.src i x }

def SrcStream.new (id : StreamId) (guest : Nat) : SrcStream := ⟨id, guest, 0, false, [], [], [], [], none⟩

def State.srcStream (s : State) (id : StreamId) : SrcStream :=
  (s.srcStream? id).getD (SrcStream.new id (((s.vchip? id.slot).map (·.guest)).getD 0))

def State.dstStream? (s : State) (id : DstId) : Option DstStream := s.fabric.dst.find? fun x => x.id == id

def State.setDst (s : State) (x : DstStream) : State :=
  s.modFabric fun f =>
    match indexWhere (fun y : DstStream => y.id == x.id) f.dst 0 with
    | none => { f with dst := f.dst ++ [x] }
    | some i => { f with dst := setAt f.dst i x }

def DstStream.new (id : DstId) (guest : Nat) : DstStream := ⟨id, guest, 0, [], none, none, none⟩

def State.dstStream (s : State) (id : DstId) : DstStream :=
  (s.dstStream? id).getD (DstStream.new id (((s.vchip? id.slot).map (·.guest)).getD 0))

/-- The destination sends FREEZE for a stream frozen here, once (R40, R86). -/
def State.tellFreeze (s : State) (id : DstId) : State :=
  match s.dstStream? id with
  | none => s
  | some d =>
    match d.frozen, d.last with
    | some fz, some p =>
      if fz.told then s
      else (s.setDst { d with frozen := some { fz with told := true } }).sendFreeze p fz.code fz.seq
    | _, _ => s

/-- Hand a request to the source fabric interface unit: it joins its stream's queue (R38, R46). -/
def State.enqueueRequest (s : State) (id : StreamId) (r : Request) : State :=
  let x := s.srcStream id
  s.setSrc { x with queued := x.queued ++ [r] }

end Sys2Proof.Machine
end

