-- ==== Sys2Proof/Machine/Events.lean ====
section
/-! DEFINITION. Records to the hypervisor (R86) and the freeze of an offending master (R18). -/

namespace Sys2Proof.Machine

/-- What a record reports (R86); fields that a kind does not use are 0. -/
structure EvInfo where
  kind : Nat
  slot : Nat := 0
  token : Nat := 0
  guest : Nat := 0
  svch : Nat := 0
  dvch : Nat := 0
  stream : Nat := 0
  seq : Nat := 0
  repl : Bool := false
  isLocal : Bool := false
  code : Nat := 0
  addr : Nat := 0
  epoch : Nat := 0
  acc : Nat := 0
deriving DecidableEq, Repr

/-- The record's words (R86). -/
def EvInfo.record (e : EvInfo) : EvRec where
  w0 := wordOf (place e.kind 56 + place e.slot 50 + place e.token 32 + place e.guest 16)
  w1 := wordOf (place e.svch 54 + place e.dvch 44 + place e.stream 36 + place e.seq 12 + bitOf e.repl 9 +
    bitOf e.isLocal 8 + e.code)
  w2 := wordOf e.addr
  w3 := wordOf (place e.epoch 32 + e.acc)

def EvRec.kind (r : EvRec) : Nat := fld r.w0 56 8

/-- The record's 64 bytes. -/
def EvRec.bytes (r : EvRec) : List Byte := wordsBytes [r.w0, r.w1, r.w2, r.w3, 0, 0, 0, 0]

/-- The MSI-X vector that announces a kind (R86). -/
def evVector (kind : Nat) : Nat := if kind ≤ 3 then kind else 4

/-- The ring is enabled for LOG2N from 6 to 16 (R86). -/
def Evq.enabled (q : Evq) : Bool := 6 ≤ q.log2n && q.log2n ≤ 16

/-- Full or disabled: TAIL − HEAD, modulo 2^16, equals 2^LOG2N (R86). -/
def Evq.full (q : Evq) : Bool := !q.enabled || (q.tail - q.head).toNat == 2 ^ q.log2n

/-- Write a record at TAIL and advance it (R86). -/
def State.evWrite (s : State) (r : EvRec) : State :=
  let q := s.evq
  let a := q.base + 64 * (q.tail.toNat % 2 ^ q.log2n)
  ({ s with evq := { q with tail := q.tail + 1 } }.hostWrite a r.bytes).signal (.pf (evVector r.kind))

/-- Room lets held records out, then queued ones into the held store; a kind-2 record's FREEZE goes out as it enters
(R86). -/
def State.evDrain : Nat → State → State
  | 0, s => s
  | fuel + 1, s =>
    match s.evq.held with
    | r :: rest =>
      if s.evq.full then
        if s.evq.held.length < 1024 then
          match s.evq.waiting with
          | [] => s
          | (w, id) :: ws =>
            let s := { s with evq := { s.evq with held := s.evq.held ++ [w], waiting := ws } }
            State.evDrain fuel (match id with | none => s | some i => s.tellFreeze i)
        else s
      else State.evDrain fuel ({ s with evq := { s.evq with held := rest } }.evWrite r)
    | [] =>
      match s.evq.waiting with
      | [] => s
      | (w, id) :: ws =>
        let s := { s with evq := { s.evq with held := [w], waiting := ws } }
        State.evDrain fuel (match id with | none => s | some i => s.tellFreeze i)

def State.evSettle (s : State) : State := s.evDrain (2 * (s.evq.held.length + s.evq.waiting.length) + 1)

/-- Post a record (R86). `id`: the destination stream whose FREEZE waits for the record. -/
def State.post (s : State) (e : EvInfo) (id : Option DstId) : State :=
  let r := e.record
  let q := s.evq
  if q.held.isEmpty && q.waiting.isEmpty && !q.full then
    let s := s.evWrite r
    match id with | none => s | some i => s.tellFreeze i
  else if q.held.length < 1024 && q.waiting.isEmpty then
    let s := { s with evq := { q with held := q.held ++ [r] } }
    match id with | none => s | some i => s.tellFreeze i
  else if e.kind ≤ 2 then { s with evq := { q with waiting := q.waiting ++ [(r, id)] } }
  else
    let lost := if q.lost == BitVec.allOnes 32 then q.lost else q.lost + 1
    { s with evq := { q with lost := lost, ovf := true } }

/-- Log states as LSTATE shows them (R60). -/
def LogSt.num : LogSt → Nat
  | .running => 0
  | .logging => 1
  | .replaying => 2

/-- Records and control block of a slot's log stand under owner 64: the block, which the hypervisor writes, under its key index 0, the
records in the rings under the vchip's (R60, R61; log entry 86). -/
def State.logOwner (s : State) (v : Nat) : Owner := ⟨64, ((s.vchip? v).map (·.keyIx)).getD 0⟩

/-- HBM address of a slot's log control block, when RLOGBASE is set (R69). -/
def State.logBase? (s : State) (v : Nat) : Option Nat :=
  let w := (s.slot v).blk.rlogbase
  if fld w 0 1 = 1 then some (place (fld w 6 46) 6) else none

/-- A log changes state; its control block shows it (R60, R63). -/
def State.setLogSt (s : State) (v : Nat) (st : LogSt) : State :=
  let s := s.modSlot v fun x => { x with log := { x.log with st := st, since := s.now, limit := false } }
  match s.logBase? v with
  | none => s
  | some a => s.hbmWrite Owner.hv (a + 48) (wordBytes (wordOf st.num) 8)

/-- A vchip that is switched out or frozen files what arrives for it (R63). -/
def State.logArrivals (s : State) (v : Nat) : State := s.setLogSt v .logging

/-- Freeze the vchip of a slot for a violation: a kind-1 record with a token, and its log leaves RUNNING (R18, R63, R86). A
vchip already frozen makes no second request. -/
def State.freezeMaster (s : State) (v gpa acc : Nat) : State :=
  match (s.slot v).frozen with
  | some _ => s
  | none =>
    let (t, s) := s.newToken (.master v)
    let s := (s.modSlot v fun x => { x with frozen := some ⟨t⟩ }).logArrivals v
    s.post { kind := 1, slot := v, token := t, guest := ((s.vchip? v).map (·.guest)).getD 0, addr := gpa, acc := acc } none

def State.isFrozen (s : State) (v : Nat) : Bool := (s.slot v).frozen.isSome

/-- Freeze a stream at its destination with a fault code: a kind-2 record with a token, FREEZE with it, except code 8,
which has neither record nor token (R40, R65, R86). -/
def State.freezeDst (s : State) (p : Packet) (code seq : Nat) : State :=
  let id : DstId := ⟨p.dslot, p.svch, p.stream⟩
  let d := s.dstStream id
  let s := s.setDst { d with frozen := some ⟨code, seq, false, p.typ == 6⟩, held := [], last := some p }
  if code = 8 then s.tellFreeze id
  else
    let (t, s) := s.newToken (.dst id)
    s.post { kind := 2, slot := p.dslot, token := t, guest := p.guest, svch := p.svch, dvch := p.dvch, stream := p.stream,
             seq := seq, code := code, addr := p.offset } (some id)

/-- Freeze a stream at its source (R57, R407). -/
def State.freezeSrc (s : State) (id : StreamId) (code seq offset : Nat) : State :=
  let x := s.srcStream id
  let s := s.setSrc { x with frozen := some ⟨code, seq, true⟩ }
  let (t, s) := s.newToken (.src id)
  s.post { kind := 2, slot := id.slot, token := t, guest := x.guest, svch := ((s.vchip? id.slot).map (·.vch)).getD 0,
           dvch := id.dvch, stream := id.stream, seq := seq, isLocal := true, code := code, addr := offset } none

/-- Drop a token (R86, R87). -/
def State.dropToken (s : State) (t : Nat) : State := { s with evq := { s.evq with tokens := KMap.erase s.evq.tokens t } }

end Sys2Proof.Machine
end

