-- ==== Sys2Proof/Machine/Launch.lean ====
section
/-! DEFINITION. The scheduler's own accesses (R406), launch faults (R68), the completion word (R96), and how gangs and
launches end (R100 to R102, R221). -/

namespace Sys2Proof.Machine

/-! ### Scheduler accesses (R406) -/

def State.badLine (s : State) (p : Place) (n : Nat) : Bool :=
  match p with
  | .hbm pa _ => (upTo n).any fun i => s.hbm.bad.contains (lineOf (pa + i))
  | _ => false

/-- A scheduler access waits: a stage-1 table of its translation stands in host memory and the TDI is not in RUN (R27). -/
def State.schedHeld (s : State) (v : Nat) (a : Word) (acc : Acc) : Bool :=
  !inPodWindow a && match (s.translate v a acc).1 with
    | .error .held => true
    | _ => false

/-- Where a scheduler access that does not wait leads: local HBM or host memory, or a launch-access failure; a violation also freezes
the vchip. -/
def State.schedPlace (s : State) (v : Nat) (a : Word) (n : Nat) (acc : Acc) : Option Place × State :=
  if inPodWindow a then (none, s)
  else
    let (r, s) := s.translate v a acc
    match r with
    | .error (.fault _ _) | .error .held => (none, s)
    | .error (.violation gpa bits) => (none, s.freezeMaster v gpa bits)
    | .ok t => if t.own == 1 || t.own == 3 || s.badLine t.place n then (none, s) else (some t.place, s)

/-- Record a launch fault and signal VF vector 1 (R68). -/
def State.launchFault (s : State) (v : Nat) (a : Word) (kind : Nat) : State :=
  let s := s.modSlot v fun x =>
    if fld x.win.lfault 0 1 == 1 then { x with win := { x.win with lfovf := true } }
    else { x with win := { x.win with lfault := wordOf (place (fld a 3 61) 3 + place kind 1 + 1) } }
  s.signal (.vf v 1)

/-! ### Launches -/

def Launch.word (l : Launch) (i : Nat) : Word := recWord l.words i
def Launch.lid (l : Launch) : Nat := fld (l.word 3) 0 32
def Launch.gangs (l : Launch) : Nat := (fld (l.word 1) 0 20 + 1) * (fld (l.word 1) 20 20 + 1) * (fld (l.word 1) 40 20 + 1)
def Launch.irq (l : Launch) : Bool := fld (l.word 2) 23 1 == 1
def Launch.podg (l : Launch) : Bool := fld (l.word 2) 26 1 == 1

def Slot.launch? (x : Slot) (id : Nat) : Option Launch := x.sched.queues.find? fun l => l.id == id

def State.launch? (s : State) (v id : Nat) : Option Launch := (s.slot v).launch? id

def State.modSched (s : State) (v : Nat) (f : Sched → Sched) : State := s.modSlot v fun x => { x with sched := f x.sched }

def State.modLaunch (s : State) (v id : Nat) (f : Launch → Launch) : State :=
  s.modSched v fun c => { c with queues := c.queues.map fun l => if l.id = id then f l else l }

/-- Hold a completion word. -/
def State.holdWrite (s : State) (v : Nat) (h : HeldWrite) : State := s.modSched v fun c => { c with heldWrites := c.heldWrites ++ [h] }

/-- Write the completion word of a record's words, then signal VF vector 0 for IRQ (R96); a write to host memory, and one whose
translation reads a table there, is held while the TDI is not in RUN (R27). -/
def State.writeCompletion (s : State) (v : Nat) (ws : List Word) (status : Nat) : State :=
  let cw := wordOf (place (fld (recWord ws 5) 3 61) 3)
  let irq := fld (recWord ws 2) 23 1 == 1
  let w := wordOf (place status 56 + fld (recWord ws 3) 0 32)
  if s.schedHeld v cw Acc.write then s.holdWrite v (.walk ws status) else
  let (p, s) := s.schedPlace v cw 8 Acc.write
  match p with
  | none => s.launchFault v cw 2
  | some p =>
    let now (s : State) : State :=
      let s := s.writePlace p (wordBytes w 8)
      if irq then s.signal (.vf v 0) else s
    match p with
    | .host a => if (s.slot v).tdi == some .run then now s else s.holdWrite v (.host a w irq)
    | _ => now s

/-- Dependences on a launch that has completed are satisfied (R94). -/
def depsDone (id : Nat) (l : Launch) : Launch := { l with deps := l.deps.map fun d => if d = .launch id then .done else d }

/-- A launch leaves its queue. -/
def State.dropLaunch (s : State) (v id : Nat) : State :=
  s.modSched v fun c => { c with queues := (c.queues.filter fun l => l.id != id).map (depsDone id) }

/-- A launch completes with a status (R96); a member's claim of a pod gang has no completion word (R101). -/
def State.completeLaunch (s : State) (v id status : Nat) : State :=
  match s.launch? v id with
  | none => s
  | some l =>
    let s := if l.isReserve then s else s.writeCompletion v l.words status
    s.dropLaunch v id

/-! ### Pod gangs (R101, R102) -/

def podReserve : Nat := 0
def podAck : Nat := 1
def podCommit : Nat := 2
def podRelease : Nat := 3

/-- IMM of a GANG packet: LID, STATUS, and bit 40 in the ack to a commit. -/
def gangImm (lid status : Nat) (commitAck : Bool) : Word := wordOf (lid + place status 32 + bitOf commitAck 40)

def State.sendGang (s : State) (v d kind lid status : Nat) (commitAck : Bool) (payload : List Byte) : State :=
  s.sendControl v d 0x21 kind (gangImm lid status commitAck) 0 0 payload

/-- Release to every member but the coordinator itself and `skip`, in ascending order. -/
def State.releaseAll (s : State) (v : Nat) (p : PodGang) (lid : Nat) (skip : Option Nat) : State :=
  (p.members.filter fun m => m != p.coordinator && some m != skip).foldl (fun s m => s.sendGang v m podRelease lid 0 false []) s

/-! ### Writes that programs and engines make -/

def Task.live (t : Task) : Bool := t.st != .none

def Place.inVault (p : Place) (n core off len : Nat) : Bool :=
  match p with
  | .vault c o => c == core && o < off + len && off < o + n
  | _ => false

/-- A store to a barrier object, a tag block or a live undo stack makes what follows from it undefined (R150, R160, R173). -/
def State.markStore (s : State) (p : Place) (n : Nat) : State :=
  match p with
  | .vault _ _ =>
    let s := s.modDies fun d => { d with
      barriers := d.barriers.map fun (e : Nat × Bool) =>
        if p.inVault n (e.1 * 16 / vaultSize) (e.1 * 16 % vaultSize) 16 then (e.1, true) else e }
    let hit (b : Binding) : Bool :=
      match s.gang? b.gang with
      | none => false
      | some g => match g.wg? b.wg with
        | none => false
        | some c => g.st.onCore && p.inVault n c.core (c.vault + fld (recWord b.desc 5) 0 22) 256
    let s := { s with slots := s.slots.map fun (e : Nat × Slot) =>
      (e.1, { e.2 with bindings := e.2.bindings.map fun b => if hit b then { b with tampered := true } else b }) }
    s.modWork fun k => { k with warps := k.warps.map fun (e : Nat × Warp) =>
      if !e.2.task.live || e.2.task.sp == e.2.task.ub || !s.gangOnCore e.2.id.gang then e
      else match (s.gang? e.2.id.gang).bind fun g => (g.vaultPlace e.2.task.ub 1).toOption with
        | some t => match t.place with
          | .vault c o =>
            if p.inVault n c o (e.2.task.sp - e.2.task.ub).toNat then (e.1, { e.2 with task := { e.2.task with tampered := true } })
            else e
          | _ => e
        | none => e }
  | _ => s

/-- Bytes written by a store, an atomic or an engine. -/
def State.storeAt (s : State) (p : Place) (bs : List Byte) : State := (s.writePlace p bs).markStore p bs.length

/-! ### Values that a copy may still read (R147) -/

/-- Two runs of bytes share one. -/
def Place.overlaps (p : Place) (n : Nat) (q : Place) (m : Nat) : Bool :=
  match p, q with
  | .hbm a _, .hbm b _ => a < b + m && b < a + n
  | .host a, .host b => a < b + m && b < a + n
  | .vault c a, .vault d b => c == d && a < b + m && b < a + n
  | .pod v a, .pod w b => v == w && a < b + m && b < a + n
  | _, _ => false

/-- The aligned words that hold bytes of a run. -/
def Place.words (p : Place) (n : Nat) : List Place :=
  (upTo ((p.num % 8 + n + 7) / 8)).map fun i => (placeBase p (p.num % 8)).add (8 * i)

/-- Change the remembered values of the words of a run. -/
def State.modPast (s : State) (p : Place) (n : Nat) (f : PastWord → PastWord) : State :=
  if s.work.warps.all fun e => e.2.work.past.isEmpty then s
  else s.modWork fun k => { k with warps := k.warps.map fun (e : Nat × Warp) =>
    (e.1, { e.2 with work := { e.2.work with past := e.2.work.past.map fun q => if q.place.overlaps 8 p n then f q else q } }) }

/-- A run has been written: its words' present values are among those that they have held. -/
def State.notePast (s : State) (p : Place) (n : Nat) : State :=
  s.modPast p n fun q => let v := s.readWord q.place 8; if q.vals.contains v then q else { q with vals := q.vals ++ [v] }

/-- An engine has written a run: what stood there before is not read any more (log entry 103). -/
def State.cutPast (s : State) (p : Place) (n : Nat) : State := s.modPast p n fun q => { q with vals := [] }

/-! ### Engine writes that land late (R146, R190) -/

/-- The home performs them, and no copy reads what stood there before. -/
def State.landAll (s : State) (es : List Landing) : State := es.foldl (fun s e => (s.storeAt e.place e.bytes).cutPast e.place e.bytes.length) s

/-- Landings of a warp that `which` selects are performed, in order. -/
def State.landWhich (s : State) (wid : Nat) (which : Landing → Bool) : State :=
  match s.warp? wid with
  | none => s
  | some w =>
    (s.landAll (w.work.landing.filter which)).modWarp wid fun w =>
      { w with work := { w.work with landing := w.work.landing.filter fun e => !which e } }

/-! ### Ending gangs -/

/-- Task `wid` has released its entries, with what it knew (R180): no path waits for it any more, and what was found of it is gone (R176,
R177). -/
def Warp.freedOf (w : Warp) (wid : Nat) (told : List Nat) : Warp :=
  let path (p : Path) : Path := { p with bop := p.bop.map fun ws => ws.filter (· != wid) }
  let miss (m : Miss) : Miss := if m.warp = wid then { m with gone := true } else m
  let waits := w.paths.any fun p => p.any fun p => p.bop.any fun ws => ws.contains wid
  { w with
    paths := w.paths.map fun p => p.map path
    task := { w.task with
      memos := w.task.memos.filter fun m => m.warp != wid
      miss := w.task.miss.map miss
      keyed := if waits then (w.task.keyed ++ told).dedup else w.task.keyed } }

/-- The releases of a key tell these too. -/
def addKeyMsg (ms : List (Nat × Word × List Nat)) (slot : Nat) (key : Word) (told : List Nat) : List (Nat × Word × List Nat) :=
  let old := ((ms.find? fun m => m.1 == slot && m.2.1 == key).map (·.2.2)).getD []
  (ms.filter fun m => !(m.1 == slot && m.2.1 == key)) ++ [(slot, key, (old ++ told).dedup)]

/-- A task releases its directory entries (R175): a cumulative release, which the engine writes that the warp has observed and the array
operations that it knows to be complete go before (R180, R190, R352). -/
def State.releaseKeys (s : State) (wid : Nat) : State :=
  let mine := s.dies.dirs.filter fun e => e.warp == wid
  let s := if mine.isEmpty then s else s.landWhich wid fun e => e.seen != 0
  let told := ((s.warp? wid).map fun w => (w.work.known ++ w.work.heard).dedup).getD []
  let s := s.modDies fun d => { d with
    dirs := d.dirs.filter fun e => e.warp != wid
    keyMsgs := if told.isEmpty then d.keyMsgs else mine.foldl (fun ms e => addKeyMsg ms e.slot e.key told) d.keyMsgs }
  s.modWork fun k => { k with warps := k.warps.map fun (e : Nat × Warp) => (e.1, e.2.freedOf wid told) }

/-- Everything that a warp holds outside its own record goes with it: copies not started, its matrix and near-memory
operations, its boost-directory entries (R175, R221). -/
def State.dropWarpWork (s : State) (w : Nat) : State :=
  let s := s.modWork fun k => { k with
    copies := k.copies.filter fun c => c.2.warp != w || c.2.started
    arrays := k.arrays.map fun a => (a.1, a.2.filter fun o => o.warp != w)
    mvns := k.mvns.filter fun o => o.2.op.warp != w }
  s.releaseKeys w

/-- Payloads of `PSEND`s of a warp that have not been read are read now: its vaults are about to go to others (R376). -/
def State.readPayloads (s : State) (w : Nat) : State :=
  s.modFabric fun f => { f with src := f.src.map fun (x : SrcStream) =>
    { x with queued := x.queued.map fun (r : Request) =>
        match r.late, r.origin with
        | some l, .psend w' _ => if w' = w then { r with payload := s.readPlace l.place l.len, late := none } else r
        | _, _ => r } }

/-- Remove a warp; what its engines have written lands. -/
def State.killWarp (s : State) (w : Nat) : State := (((s.landWhich w fun _ => true).readPayloads w).dropWarpWork w).dropWarp w

/-- A warp whose lanes have all exited leaves its core; its registers stay as they are until its slots are claimed again. -/
def State.retireWarp (s : State) (wid : Nat) : State :=
  match s.warp? wid with
  | none => s
  | some w => (s.killWarp wid).modWork fun k => { k with retired := KMap.put k.retired wid w }

/-- A gang is gone: its warps, bindings, publishes and save-area claim (R100, R158). -/
def State.removeGang (s : State) (gid : Nat) : State :=
  match s.gang? gid with
  | none => s
  | some g =>
    let s := (s.warpsOf gid).foldl (fun s e => s.killWarp e.1) s
    let s := s.modSlot g.slot fun x => { x with bindings := x.bindings.filter fun b => b.gang != gid }
    s.modWork fun k => { k with
      gangs := KMap.erase k.gangs gid
      publishes := k.publishes.filter fun p => p.2.gang != gid }

/-- Gangs of a launch that still exist. -/
def State.gangsOfLaunch (s : State) (v id : Nat) : List (Nat × Gang) :=
  s.work.gangs.filter fun g => g.2.slot == v && g.2.launch == id

/-- A warp of these has a store or an atomic on the fabric that is not acknowledged: the completion word, a release over every store of
the launch's warps, waits for it (R96). -/
def State.storesOut (s : State) (v : Nat) (ws : List Nat) : Bool :=
  let mine (o : Origin) : Bool := match o with | .lane w _ _ => ws.contains w | _ => false
  s.fabric.src.any fun x => x.id.slot == v &&
    ((x.sent.any fun p => p.pkt.typ != 2 && mine p.origin) || x.queued.any fun r => r.typ != 2 && mine r.origin)

/-- A claim has ended at a member: the coordinator's release may still come (R101, R102). -/
def State.claimDone (s : State) (v : Nat) (l : Launch) : State :=
  match l.pod with
  | none => s
  | some p => s.modSched v fun c => { c with doneReserves := c.doneReserves.filter (· != (p.coordinator, l.lid)) ++ [(p.coordinator, l.lid)] }

/-- After a gang has gone: the launch completes once every gang has retired (R96); a pod gang's member reports instead,
and the coordinator waits for every member (R101); a lost pod gang completes once its gangs are discarded (R102). -/
def State.settleLaunch (s : State) (v id : Nat) : State :=
  match s.launch? v id with
  | none => s
  | some l =>
    match l.pod with
    | none =>
      if l.placed = l.gangs && l.retired = l.gangs && !s.storesOut v l.dead then s.completeLaunch v id (if l.ended then 4 else 1) else s
    | some p =>
      if p.lost then
        if (s.gangsOfLaunch v id).isEmpty && !s.storesOut v l.dead then s.completeLaunch v id 7 else s
      else if l.retired < l.gangs then s
      else if l.isReserve then ((s.sendGang v p.coordinator podRelease l.lid 1 false []).claimDone v l).dropLaunch v id
      else
        let p := if p.doneBy.contains p.coordinator then p else { p with doneBy := p.doneBy ++ [p.coordinator] }
        let s := s.modLaunch v id fun l => { l with pod := some p }
        if p.members.all fun m => p.doneBy.contains m then s.completeLaunch v id 1 else s

/-- A gang retires or has ended: it goes and is counted (R100, R221). -/
def State.retireGang (s : State) (gid : Nat) (ended : Bool) : State :=
  match s.gang? gid with
  | none => s
  | some g =>
    let ws := (s.warpsOf gid).map (·.1)
    let s := s.removeGang gid
    let s := s.modLaunch g.slot g.launch fun l => { l with retired := l.retired + 1, ended := l.ended || ended, dead := l.dead ++ ws }
    s.settleLaunch g.slot g.launch

/-- A warp of an ending gang: an active task takes abort cause 7 (R178, R181). -/
def Warp.toEnd (w : Warp) : Warp :=
  match w.task.st, w.task.pendingAbort with
  | .active, none => { w with task := { w.task with pendingAbort := some (7, 0) } }
  | _, _ => w

/-- Whether some warp of a gang is in a task. -/
def State.gangTasks (s : State) (gid : Nat) : Bool := (s.warpsOf gid).any fun e => e.2.task.live

/-- A gang ends: its tasks take abort cause 7, nothing else of it issues, and warps outside a task lose their handles, their matrix
operations and the copies that have not started (R181, R221); issued stores and atomics go on (R96). A gang that is saved ends when it
returns to its cores, if a task is in progress. -/
def State.endGang (s : State) (gid : Nat) : State :=
  match s.gang? gid with
  | none => s
  | some g =>
    let s := s.setGang gid { g with ends := true, st := if g.st == .saved then .saved else .ending }
    if g.st == .saved then s
    else (s.warpsOf gid).foldl (fun s e =>
      if e.2.task.live then s.setWarp e.1 e.2.toEnd else (s.readPayloads e.1).dropWarpWork e.1) s

/-- A gang's copies stop at their fill pointers and go with it (R104, R105). -/
def State.dropCopies (s : State) (gid : Nat) : State :=
  let ws := (s.warpsOf gid).map (·.1)
  s.modWork fun k => { k with copies := k.copies.filter fun c => !ws.contains c.2.warp }

/-- A launch's pod gang is lost on this module: its gangs stop as in a pre-emption and are discarded, tasks replaying first (R102, R104,
R181). Gangs that never started go at once. -/
def State.discardLaunch (s : State) (v id : Nat) : State :=
  let s := s.modLaunch v id fun l => { l with pod := l.pod.map fun p => { p with lost := true } }
  let stop (s : State) (gid : Nat) (g : Gang) : State :=
    let s := (s.dropCopies gid).setGang gid { g with ends := true, st := if g.st == .saved then .saved else .ending }
    if g.st == .saved then s else (s.warpsOf gid).foldl (fun s e => s.setWarp e.1 e.2.toEnd) s
  let s := (s.gangsOfLaunch v id).foldl (fun s g => if g.2.st == .held then s.removeGang g.1 else stop s g.1 g.2) s
  s.settleLaunch v id

/-- A member of a pod gang fails after commit (R102): a member tells the coordinator; the coordinator releases every member but
the one, `skip`, that told it. Either discards its gangs. -/
def State.podFail (s : State) (v id : Nat) (skip : Option Nat) : State :=
  match s.launch? v id with
  | none => s
  | some l =>
    match l.pod with
    | none => s
    | some p =>
      if p.lost then s
      else
        let s := if l.isReserve then (s.sendGang v p.coordinator podRelease l.lid 7 false []).claimDone v l else s.releaseAll v p l.lid skip
        s.discardLaunch v id

/-- A warp's task is over. -/
def Task.over (t : Task) : Task := { t with st := .none, pendingAbort := none, memos := [], miss := [], tampered := false, keyed := [] }

/-- Replay stops where a fault inside an inverse ends the gang: the other records are discarded, keys released (R181). -/
def State.dropReplay (s : State) (wid : Nat) : State :=
  match s.warp? wid with
  | none => s
  | some w => if w.task.st == .replay then (s.releaseKeys wid).modWarp wid fun w => { w with task := w.task.over } else s

/-- The privileged handler of warp `wid`, or a double fault, ends its gang (R214, R221); a pod gang's member then fails
(R102). -/
def State.handlerEndsGang (s : State) (gid wid : Nat) : State :=
  let s := s.dropReplay wid
  match s.gang? gid with
  | none => s
  | some g =>
    match s.launch? g.slot g.launch with
    | some l =>
      match l.pod with
      | some p => if p.lost then s.endGang gid else s.podFail g.slot g.launch none
      | none => s.endGang gid
    | none => s.endGang gid

end Sys2Proof.Machine
end

