-- ==== Sys2Proof/Machine/Paths.lean ====
section
/-! DEFINITION. Paths, regions and the reconvergence stack of a warp (R121 to R126). -/

namespace Sys2Proof.Machine

def Path.start (pc : Word) (mask : Mask) (link : Option Nat) : Path := ⟨pc, mask, 0, link, false, none, none, none, none, none⟩

/-- The path at another instruction: nothing that it waited for at the last one remains. -/
def Path.goTo (p : Path) (pc : Word) (sec : Bool) : Path :=
  { p with pc := pc, sec := sec, barw := none, rz := none, hold := none, bop := none, stall := none }

/-! ### Stack entries (R121) -/

def Warp.freeEntries (w : Warp) : Nat := (w.stack.filter Option.isNone).length

def Warp.freeEntry (w : Warp) : Option Nat := indexWhere Option.isNone w.stack 0

/-- Sequence numbers in use, ascending. -/
def Warp.seqs (w : Warp) : List Nat := sortNat (w.stack.filterMap fun e => e.map (·.seq))

/-- Entries in use renumbered 0, 1, 2 and onwards in the order of their numbers (R121). -/
def Warp.renumber (w : Warp) : Warp :=
  let ss := w.seqs
  { w with
    stack := w.stack.map fun e => e.map fun x => { x with seq := (indexWhere (· == x.seq) ss 0).getD 0 }
    nseq := ss.length }

/-- Take the lowest free entry for an item; NSEQ never passes 0xFFFF (R121). -/
def Warp.pushEntry (w : Warp) (it : StackItem) : Option (Nat × Warp) :=
  let w := if w.nseq < 0xFFFF then w else w.renumber
  match w.freeEntry with
  | none => none
  | some i => some (i, { w with stack := setAt w.stack i (some ⟨it, w.nseq⟩), nseq := w.nseq + 1 })

def Warp.freeAt (w : Warp) (i : Nat) : Warp := { w with stack := setAt w.stack i none }

def Warp.region? (w : Warp) (i : Nat) : Option Region :=
  match w.stack.getD i none with
  | some ⟨.region r, _⟩ => some r
  | _ => none

def Warp.modRegion (w : Warp) (i : Nat) (f : Region → Region) : Warp :=
  match w.stack.getD i none with
  | some ⟨.region r, q⟩ => { w with stack := setAt w.stack i (some ⟨.region (f r), q⟩) }
  | _ => w

/-- The regions that a link leads through, innermost first. -/
def Warp.chain (w : Warp) : Nat → Option Nat → List Nat
  | 0, _ => []
  | _, none => []
  | fuel + 1, some i => i :: Warp.chain w fuel ((w.region? i).bind (·.parent))

def Warp.chainOf (w : Warp) (link : Option Nat) : List Nat := w.chain 32 link

/-! ### Table places (R121, R126) -/

def Warp.freePlace (w : Warp) : Option Nat := indexWhere Option.isNone w.paths 0

/-- The deferred path with the lowest sequence number: its entry and itself. -/
def Warp.nextDeferred (w : Warp) : Option (Nat × Path) :=
  let ds := (upTo 32).filterMap fun i =>
    match w.stack.getD i none with
    | some ⟨.deferred p, q⟩ => some (i, p, q)
    | _ => none
  (ds.foldl (fun best d =>
    match best with
    | none => some d
    | some b => if d.2.2 < b.2.2 then some d else some b) none).map fun d => (d.1, d.2.1)

/-- Deferred paths take the free places, with q = 0, lowest sequence number first (R126). -/
def Warp.fillPlaces : Nat → Warp → Warp
  | 0, w => w
  | fuel + 1, w =>
    match w.freePlace, w.nextDeferred with
    | some i, some (e, p) => Warp.fillPlaces fuel ((w.freeAt e).setPath i (some { p with q := 0 }))
    | _, _ => w

/-- A new path: a free table place, or a stack entry when the table is full. -/
def Warp.addPath (w : Warp) (p : Path) : Warp :=
  match w.freePlace with
  | some i => w.setPath i (some p)
  | none =>
    match w.pushEntry (.deferred p) with
    | some (_, w) => w
    | none => w

/-! ### Closing regions (R123 to R125) -/

/-- Every member that has not exited has arrived or is parked. -/
def Warp.covered (w : Warp) (r : Region) : Bool :=
  (r.members &&& ~~~w.exited) &&& ~~~(r.arrived ||| r.parked) == 0

/-- Close what is covered among `rs`, innermost first: the first continuation takes place `at?`, each other a free place
or an entry (R123). The flag says whether `at?` was taken. -/
def Warp.closeRegions (w : Warp) (place : Nat) (taken : Bool) : List Nat → Warp × Bool
  | [] => (w, taken)
  | i :: rs =>
    match w.region? i with
    | none => Warp.closeRegions w place taken rs
    | some r =>
      if !w.covered r then Warp.closeRegions w place taken rs
      else
        let w := w.freeAt i
        let m := (r.arrived ||| r.parked) &&& ~~~w.exited
        if m == 0 then Warp.closeRegions w place taken rs
        else
          let p := Path.start (r.join + 8) m r.parent
          if taken then Warp.closeRegions (w.addPath p) place true rs
          else Warp.closeRegions (w.setPath place (some p)) place true rs

/-- Path `i` has ended: close the regions of its chain, then let a deferred path take the place if it frees. -/
def Warp.endPath (w : Warp) (i : Nat) (rs : List Nat) : Warp :=
  let w := w.setPath i none
  let (w, _) := w.closeRegions i false rs
  w.fillPlaces 4

/-! ### The branches -/

/-- `BRC` of path `i` with taken lanes `t` (R122); none is a divergence overflow. -/
def Warp.brc (w : Warp) (i : Nat) (t : Mask) (target join next : Word) : Option Warp :=
  match w.path? i with
  | none => some w
  | some p =>
    let m := w.active i
    if t == 0 then some (w.setPath i (some { p with pc := next, sec := false }))
    else if t == m then some (w.setPath i (some { p with pc := target, sec := false }))
    else
      let need := 1 + (if w.freePlace.isSome then 0 else 1)
      if w.freeEntries < need then none
      else
        match w.pushEntry (.region ⟨join, m, 0, 0, p.link⟩) with
        | none => none
        | some (r, w) =>
          let w := w.setPath i (some { p with pc := target, mask := t, link := some r, sec := false })
          some (w.addPath (Path.start next (m &&& ~~~t) (some r)))

/-- `JOIN` of path `i` at address `a` (R123). -/
def Warp.joinAt (w : Warp) (i : Nat) (a : Word) : Warp :=
  match w.path? i with
  | none => w
  | some p =>
    let skip := w.setPath i (some { p with pc := a + 8, sec := false })
    match p.link with
    | none => skip
    | some r =>
      match w.region? r with
      | none => skip
      | some g =>
        if g.join != a then skip
        else
          let m := w.active i
          (w.modRegion r fun g => { g with arrived := g.arrived ||| m }).endPath i [r]

/-- `BRX` of path `i` with depth `k` and target `t` (R124); none is illegal. -/
def Warp.brx (w : Warp) (i k : Nat) (t : Word) : Option Warp :=
  match w.path? i with
  | none => some w
  | some p =>
    let ch := w.chainOf p.link
    match ch[k - 1]? with
    | none => none
    | some rk =>
      match w.region? rk with
      | none => none
      | some g =>
        if g.join != t then none
        else
          let m := w.active i
          let rs := ch.take k
          let w := rs.foldl (fun w r => w.modRegion r fun g => { g with members := g.members &&& ~~~m }) w
          let w := w.modRegion rk fun g => { g with parked := g.parked ||| m }
          some (w.endPath i rs)

/-- Lanes leave a region's member mask. -/
def leaveEntry (m : Mask) : Option StackEntry → Option StackEntry
  | some ⟨.region g, q⟩ => some ⟨.region { g with members := g.members &&& ~~~m }, q⟩
  | e => e

/-- The active lanes of path `i` exit (R125). -/
def Warp.exitPath (w : Warp) (i : Nat) : Warp :=
  match w.path? i with
  | none => w
  | some p =>
    let m := w.active i
    let w := { w with exited := w.exited ||| m }
    let w := { w with stack := w.stack.map (leaveEntry m) }
    w.endPath i (w.chainOf p.link)

end Sys2Proof.Machine
end

