-- ==== Sys2Proof/Machine/Ops.lean ====
section
/-! DEFINITION. The shared operations of instructions: fetching a word (R138, R272), taking a trap and returning from one
(R214 to R221), how an instruction completes, and the frame in which every instruction runs. -/

namespace Sys2Proof.Machine

/-! ### Fetch -/

/-- The word at `a` as the gang's cluster fetches it: the memory of the placement (R138); a pod address is a fetch fault
(R216). -/
def State.codeWord (s : State) (g : Gang) (a : Word) : Except XErr Word × State :=
  if fld a 0 3 ≠ 0 || inPodWindow a then (.error (.fault 16 5), s)
  else
    let (r, s) := s.translate g.slot a Acc.exec
    match r with
    | .error e => (.error e, s)
    | .ok t =>
      match t.place with
      | .pod _ _ => (.error (.fault 16 5), s)
      | p => (.ok ({ s with hbm := g.code.hbm, hostMem := g.code.host }.readWord p 8), s)

/-- A fetch of host memory, or of a table there, that is held until the vchip's TDI is in RUN (R27). -/
def State.codeHeld (s : State) (g : Gang) (a : Word) : Bool :=
  if fld a 0 3 ≠ 0 || inPodWindow a then false
  else
    match (s.translate g.slot a Acc.exec).1 with
    | .error e => e == .held
    | .ok t => !s.placeOpen g.slot t.place

def lpOf (w0 : Word) : Nat := fld w0 62 2

/-- Bytes of the instruction that starts with this word (R263). -/
def lenOf (w0 : Word) : Nat := if lpOf w0 = 2 then 16 else 8

/-! ### Traps -/

/-- A trap to be taken: class, SUB, marked lanes with their %taddr; whether it comes after the instruction; HND of a
class 3 raised at a merge (R216, R219, R223). -/
structure Trap where
  cls : Nat
  sub : Nat
  marks : List (Nat × Word)
  after : Bool
  hnd : Option Nat
deriving DecidableEq, Repr

/-- A cause that is not per lane marks every active lane (log entry 21). -/
def Trap.all (cls sub : Nat) (m : Mask) (addr : Word) : Trap := ⟨cls, sub, (Mask.lanes m).map fun l => (l, addr), false, none⟩

/-- %tcause (R219). -/
def causeWord (hnd : Option Nat) (imp sec : Bool) (esc : Bool) (sub orig cls : Nat) : Word :=
  wordOf (place (hnd.getD 0) 28 + bitOf hnd.isSome 27 + bitOf imp 26 + bitOf sec 25 + bitOf esc 24 + place sub 16 +
    place orig 8 + cls)

/-- s56 to s63 change places with the privileged bank (R112, R219). -/
def SSet.swapBank (x : SSet) : SSet :=
  ⟨KMap.dropRange x.s 56 8 ++ x.bank, KMap.keepRange x.s 56 8⟩

def Warp.swapBank (w : Warp) : Warp := { w with set := w.set.swapBank }

/-- The decoded-field registers of a word (R219). -/
def TrapState.decoded (t : TrapState) (w0 w1 : Word) : TrapState :=
  { t with
    xop := wordOf (place (fld w0 54 8) 10 + fld w0 0 10)
    xd := wordOf (fld w0 41 9)
    xa := wordOf (fld w0 32 9)
    xb := wordOf (fld w0 23 9)
    xc := wordOf (fld w0 14 9)
    ximm := if lpOf w0 = 2 then w1 else if fld w0 9 1 = 1 then BitVec.ofInt 64 (sext 18 (fld w0 14 18)) else 0
    xtype := wordOf (fld w0 10 4 + bitOf (lpOf w0 == 2) 4 + place (lpOf w0) 5) }

/-- %taddr and %tmask in every lane of the path (R219). -/
def TrapState.lanes (t : TrapState) (m : Mask) (marks : List (Nat × Word)) : TrapState :=
  let marked := maskOf (marks.map (·.1))
  { t with
    taddr := (Mask.lanes m).foldl (fun k l => KMap.set k 0 l (((marks.find? fun e => e.1 == l).map (·.2)).getD 0)) t.taddr
    tmask := (t.tmask &&& ~~~m) ||| (marked &&& m) }

/-- Entry bits [56:3] of a vector register (R215). -/
def entryOf (w : Word) : Word := wordOf (place (fld w 3 54) 3)

/-- Path `i` enters level `lvl` at `vector` (R219). -/
def Warp.enter (w : Warp) (i lvl : Nat) (cause pc vector : Word) (m : Mask) (marks : List (Nat × Word))
    (words : Option (Word × Word)) : Warp :=
  let t := w.trap.lanes m marks
  let t := match words with
    | none => t
    | some (a, b) => t.decoded a b
  let t := if lvl = 1 then { t with tpc1 := pc, tcause1 := cause, level := 1, own1 := m }
    else { t with tpc2 := pc, tcause2 := cause, lower := t.level, level := 2, own2 := m }
  let w := { w with trap := t }
  let w := if lvl = 2 then w.swapBank else w
  w.modPath i fun p => p.goTo vector false

/-- A fault at level 2, or with no privileged entry: the gang ends (R214). -/
def State.doubleFault (s : State) (wid : Nat) (w : Warp) : State :=
  (s.signal (.vf (s.slotOf w) 2)).handlerEndsGang w.id.gang wid

/-- Take a trap on path `i` of warp `wid`, whose instruction stands at `pc` and has the words `w0`, `w1` (R214, R216,
R219). -/
def State.takeTrap (s : State) (wid i : Nat) (w0 w1 : Word) (pc : Word) (sec : Bool) (t : Trap) : State :=
  match s.warp? wid with
  | none => s
  | some w =>
    let m := w.active i
    let phv := (s.slot (s.slotOf w)).blk.phvec
    let user := t.cls < 16
    let tpc := if t.after then pc + wordOf (lenOf w0) else pc
    let imp := t.cls == 22
    let words := if t.cls == 1 then some (w0, w1) else none
    if w.trap.level = 2 || ((!user || w.trap.level = 1 || w.trap.utvec == 0) && fld phv 0 1 = 0) then s.doubleFault wid w
    else if user && w.trap.level = 0 && w.trap.utvec != 0 then
      s.setWarp wid (w.enter i 1 (causeWord t.hnd imp sec false t.sub 0 t.cls) tpc (entryOf w.trap.utvec) m t.marks words)
    else if user then
      s.setWarp wid (w.enter i 2 (causeWord t.hnd imp sec true t.sub t.cls 23) tpc (entryOf phv) m t.marks words)
    else
      s.setWarp wid (w.enter i 2 (causeWord t.hnd imp sec false t.sub 0 t.cls) tpc (entryOf phv) m t.marks words)

/-- Leave the level of the handler (R221): from level 2 the bank goes back, and the interrupted level returns. -/
def Warp.leaveLevel (w : Warp) : Warp :=
  if w.trap.level = 2 then
    let w := w.swapBank
    { w with trap := { w.trap with level := w.trap.lower, own2 := 0 } }
  else { w with trap := { w.trap with level := 0, own1 := 0 } }

/-- The lanes whose paths run: all at level 0, the handler's above it (R219). -/
def TrapState.handler (t : TrapState) : Mask := if t.level = 0 then BitVec.allOnes 128 else if t.level = 1 then t.own1 else t.own2

/-- A path that may issue: the handler's paths alone until its `RFT` (R219, log entry 70). -/
def Warp.runs (w : Warp) (p : Path) : Bool := p.mask &&& w.trap.handler != 0

/-- Return address of the level that runs (R221). -/
def Warp.returnPc (w : Warp) : Word := if w.trap.level = 2 then w.trap.tpc2 else w.trap.tpc1

/-- `RFT` of path `i` (R221, R381): with skip, past the instruction at the return address, whose length it fetches; where no word can be
fetched there, 8 bytes on (log entry 110). -/
def State.returnFromTrap (s : State) (wid i : Nat) (skip : Bool) : State :=
  match s.warp? wid with
  | none => s
  | some w =>
    let pc := w.returnPc
    let (pc, s) :=
      if skip then
        match s.gangOf w with
        | none => (pc + 8, s)
        | some g =>
          let (r, s) := s.codeWord g pc
          match r with
          | .ok w0 => (pc + wordOf (lenOf w0), s)
          | .error _ => (pc + 8, s)
      else (pc, s)
    s.setWarp wid (w.leaveLevel.modPath i fun p => { p with pc := pc, sec := false })

/-! ### How an instruction completes -/

/-- The frame of an instruction: the state, who issues, its warp, path, gang and slot. -/
structure Ictx where
  s : State
  c : Cur
  w : Warp
  p : Path
  g : Gang
  v : Nat
deriving DecidableEq, Repr

/-- What an instruction comes to: it completes and its path goes on; completes and then traps; has placed its paths
itself, or is not ready; traps with no effect of its own (R216). -/
inductive Res where
  | done (s : State)
  | after (s : State) (t : Trap)
  | moved (s : State)
  | trap (s : State) (t : Trap)
deriving DecidableEq, Repr

def State.ictx? (s : State) : Option Ictx :=
  match s.cur with
  | none => none
  | some c =>
    match s.warp? c.warp with
    | none => none
    | some w =>
      match w.path? c.path, s.gangOf w with
      | some p, some g => some ⟨s, c, w, p, g, g.slot⟩
      | _, _ => none

/-- Active lanes of the issuing path (R281). -/
def Ictx.act (x : Ictx) : Mask := x.w.active x.c.path

/-- The warp's outstanding operations that the path's next event follows in program order (R184). -/
def Ictx.before (x : Ictx) : List Nat := (x.w.work.ops.filter fun o => o.reach &&& x.act != 0).map (·.id)

/-- The path goes to the next instruction; the word after a pair-marked first word is a second word (R130, R219). -/
def Ictx.advance (x : Ictx) (w : Warp) : Warp :=
  w.modPath x.c.path fun p => p.goTo (p.pc + wordOf (lenOf x.c.w0)) (lpOf x.c.w0 == 1 && !x.c.sec)

def Ictx.take (x : Ictx) (s : State) (t : Trap) : State :=
  s.takeTrap x.c.warp x.c.path x.c.w0 x.c.w1 x.p.pc x.c.sec t

/-- The state after an instruction. -/
def Ictx.finish (x : Ictx) : Res → State
  | .done s => s.modWarp x.c.warp x.advance
  | .after s t => x.take (s.modWarp x.c.warp x.advance) { t with after := true }
  | .moved s => s
  | .trap s t => x.take s t

/-- A trap that is not per lane. -/
def Ictx.fault (x : Ictx) (cls sub : Nat) : Res := .trap x.s (Trap.all cls sub x.act 0)

/-- A trap that is not per lane with one faulting address. -/
def Ictx.faultAt (x : Ictx) (cls sub : Nat) (a : Word) : Res := .trap x.s (Trap.all cls sub x.act a)

/-- An instruction that is not ready changes nothing; its path stays at it (R127). -/
def Ictx.wait (x : Ictx) : Res := .moved x.s

/-- An access outside stage 2 freezes the vchip; the instruction has no effect and reissues (R18, R19). -/
def Ictx.freeze (x : Ictx) (s : State) (gpa acc : Nat) : Res := .moved (s.freezeMaster x.v gpa acc)

/-- Replace the warp in the state. -/
def Ictx.put (x : Ictx) (w : Warp) : State := x.s.setWarp x.c.warp w

/-- A vector register at or above the warp's allocation is an operand fault (R405). -/
def Ictx.inRange (x : Ictx) (regs : Nat) (r : Res) : Res := if x.g.nv < regs then x.fault 19 0x0C else r

/-- A privileged name below level 2 is illegal (R216, R267, R279). -/
def Ictx.allowed (x : Ictx) (priv : Bool) (r : Res) : Res := if priv && x.w.trap.level < 2 then x.fault 1 6 else r

/-- Every instruction runs so: with no issuer nothing changes; else its body decides. -/
def State.run (s : State) (body : Ictx → Res) : Host.Outcome State Fault Refusal :=
  match s.ictx? with
  | none => .next s
  | some x => .next (x.finish (body x))

end Sys2Proof.Machine
end

