-- ==== Sys2Proof/Machine/Float.lean ====
section
/-! DEFINITION. Floating-point arithmetic (R228 to R231, R236 to R238): every operation is exact on integers, then rounds once. -/

namespace Sys2Proof.Machine

/-! ### Formats and flags -/

/-- Exponent and fraction bits (R228). -/
structure Fmt where
  eb : Nat
  fb : Nat
deriving DecidableEq, Repr

def Fmt.f16 : Fmt := ⟨5, 10⟩
def Fmt.bf16 : Fmt := ⟨8, 7⟩
def Fmt.f32 : Fmt := ⟨8, 23⟩
def Fmt.f64 : Fmt := ⟨11, 52⟩

def Fmt.width (f : Fmt) : Nat := 1 + f.eb + f.fb
def Fmt.bias (f : Fmt) : Int := 2 ^ (f.eb - 1) - 1
def Fmt.signBit (f : Fmt) : Nat := 2 ^ (f.eb + f.fb)
/-- The exponent field of infinities and NaNs, in place. -/
def Fmt.infBits (f : Fmt) : Nat := (2 ^ f.eb - 1) * 2 ^ f.fb
def Fmt.quiet (f : Fmt) : Nat := 2 ^ (f.fb - 1)
def Fmt.canon (f : Fmt) : Nat := f.infBits + f.quiet
/-- Exponent of the unit of subnormals. -/
def Fmt.lowExp (f : Fmt) : Int := 1 - f.bias - f.fb

/-- Format of a float type. -/
def fmtOf (t : Ty) : Fmt :=
  match t with
  | .f16 => .f16
  | .bf16 => .bf16
  | .f64 => .f64
  | _ => .f32

/-- Flags as bit masks of %flags (R222). -/
def flNX : Nat := 1
def flUF : Nat := 2
def flOF : Nat := 4
def flDZ : Nat := 8
def flNV : Nat := 16

/-- A result with the flags that it raises. -/
structure FRes where
  bits : Nat
  fl : Nat
deriving DecidableEq, Repr

/-- An encoding's meaning (R229): a finite value is ±m × 2^e. -/
inductive FV where
  | nan (signalling : Bool)
  | inf (neg : Bool)
  | fin (neg : Bool) (m : Nat) (e : Int)
deriving DecidableEq, Repr

def Fmt.neg (f : Fmt) (x : Nat) : Bool := x / f.signBit % 2 == 1

def Fmt.dec (f : Fmt) (x : Nat) : FV :=
  let ex := x / 2 ^ f.fb % 2 ^ f.eb
  let fr := x % 2 ^ f.fb
  if ex = 2 ^ f.eb - 1 then
    if fr = 0 then .inf (f.neg x) else .nan (fr < f.quiet)
  else if ex = 0 then .fin (f.neg x) fr f.lowExp
  else .fin (f.neg x) (2 ^ f.fb + fr) (f.lowExp + (ex - 1 : Nat))

def Fmt.signed (f : Fmt) (neg : Bool) (x : Nat) : Nat := x + (if neg then f.signBit else 0)

def Fmt.isNan (f : Fmt) (x : Nat) : Bool := match f.dec x with | .nan _ => true | _ => false
def Fmt.isSnan (f : Fmt) (x : Nat) : Bool := match f.dec x with | .nan s => s | _ => false

/-- A NaN with its quiet bit set (R230). -/
def Fmt.quieted (f : Fmt) (x : Nat) : Nat := if f.isSnan x then x + f.quiet else x

/-! ### Rounding (R236, R237) -/

/-- Whether a magnitude rounds up: mode 0 nearest even, 1 towards zero, 2 towards +∞, 3 towards −∞ (R233); `q` the kept
part, `r` of `d` the rest. -/
def roundsUp (rm : Nat) (neg : Bool) (q r d : Nat) : Bool :=
  if r = 0 then false
  else match rm with
    | 0 => d < 2 * r || (2 * r == d && q % 2 == 1)
    | 2 => !neg
    | 3 => neg
    | _ => false

/-- m × 2^k to an integer, and whether that is inexact. -/
def roundShift (rm : Nat) (neg : Bool) (m : Nat) (k : Int) : Nat × Bool :=
  match k with
  | .ofNat n => (m * 2 ^ n, false)
  | .negSucc n =>
    let d := 2 ^ (n + 1)
    let q := m / d
    let r := m % d
    (if roundsUp rm neg q r d then q + 1 else q, r != 0)

/-- The largest finite encoding. -/
def Fmt.maxFin (f : Fmt) : Nat := f.infBits - 1

/-- What overflow delivers by mode and direction (R236). -/
def Fmt.over (f : Fmt) (rm : Nat) (neg : Bool) : Nat :=
  match rm with
  | 0 => f.infBits
  | 2 => if neg then f.maxFin else f.infBits
  | 3 => if neg then f.infBits else f.maxFin
  | _ => f.maxFin

/-- ±m × 2^e, m ≠ 0, is tiny: rounded with an unbounded exponent it lies below the smallest normal (R236). -/
def Fmt.tiny (f : Fmt) (rm : Nat) (neg : Bool) (m : Nat) (e : Int) : Bool :=
  let ex : Int := e + (Nat.log2 m : Int)
  let (u, _) := roundShift rm neg m (e - (ex - f.fb))
  ex < 1 - f.bias && !(ex + 1 == 1 - f.bias && u == 2 ^ (f.fb + 1))

/-- ±m × 2^e, m ≠ 0, rounded once, with NX, UF and OF (R236). -/
def Fmt.round (f : Fmt) (rm : Nat) (neg : Bool) (m : Nat) (e : Int) : FRes :=
  let ex : Int := e + (Nat.log2 m : Int)
  let q := max (ex - f.fb) f.lowExp
  let (n, inexact) := roundShift rm neg m (e - q)
  let bits := (q - f.lowExp).toNat * 2 ^ f.fb + n
  if f.infBits ≤ bits then ⟨f.signed neg (f.over rm neg), flOF + flNX⟩
  else
    ⟨f.signed neg bits, if inexact then (if f.tiny rm neg m e then flNX + flUF else flNX) else 0⟩

/-- A value that may be zero; `zneg` is the sign that a zero takes. -/
def Fmt.roundZ (f : Fmt) (rm : Nat) (neg : Bool) (m : Nat) (e : Int) (zneg : Bool) : FRes :=
  if m = 0 then ⟨f.signed zneg 0, 0⟩ else f.round rm neg m e

/-- A signed integer × 2^e. -/
def Fmt.roundInt (f : Fmt) (rm : Nat) (x : Int) (e : Int) (zneg : Bool) : FRes :=
  f.roundZ rm (x < 0) x.natAbs e zneg

/-! ### NaN results (R230) -/

/-- The NaN of the first NaN operand, quieted, or the canonical one for an invalid operation. -/
def Fmt.firstNan (f : Fmt) : List Nat → Option Nat
  | [] => none
  | x :: xs => if f.isNan x then some (f.quieted x) else Fmt.firstNan f xs

def Fmt.invalid (f : Fmt) : FRes := ⟨f.canon, flNV⟩

/-- NaN operands decide the result before the operation does. -/
def Fmt.withNan (f : Fmt) (xs : List Nat) (r : FRes) : FRes :=
  match f.firstNan xs with
  | none => r
  | some x => ⟨x, if xs.any f.isSnan then flNV else 0⟩

/-! ### Exact values of finite operands -/

/-- A finite value as a signed integer and an exponent. -/
def sgn (neg : Bool) (m : Nat) : Int := if neg then -(m : Int) else m

/-- a × 2^i + b × 2^j over the smaller exponent. -/
def addExact (a : Int) (i : Int) (b : Int) (j : Int) : Int × Int :=
  let e := min i j
  (a * 2 ^ (i - e).toNat + b * 2 ^ (j - e).toNat, e)

/-- Sign of an exact zero sum: the common sign of two equal zeros, else + but − under RM 3 (IEEE 754). -/
def zeroSign (rm : Nat) (aneg bneg : Bool) : Bool := if aneg == bneg then aneg else rm == 3

/-! ### Operations -/

def Fmt.addFV (f : Fmt) (rm : Nat) (a b : FV) : FRes :=
  match a, b with
  | .inf s, .inf t => if s == t then ⟨f.signed s f.infBits, 0⟩ else f.invalid
  | .inf s, _ => ⟨f.signed s f.infBits, 0⟩
  | _, .inf t => ⟨f.signed t f.infBits, 0⟩
  | .fin s m i, .fin t n j =>
    let (x, e) := addExact (sgn s m) i (sgn t n) j
    f.roundInt rm x e (if m = 0 && n = 0 then zeroSign rm s t else rm == 3)
  | _, _ => f.invalid

def FV.negate : FV → FV
  | .nan s => .nan s
  | .inf s => .inf !s
  | .fin s m e => .fin (!s) m e

def Fmt.add (f : Fmt) (rm a b : Nat) : FRes := f.withNan [a, b] (f.addFV rm (f.dec a) (f.dec b))

def Fmt.sub (f : Fmt) (rm a b : Nat) : FRes := f.withNan [a, b] (f.addFV rm (f.dec a) (f.dec b).negate)

/-- The exact product; none for 0 × ∞. NaN operands do not reach it. -/
def mulFV (a b : FV) : Option FV :=
  match a, b with
  | .inf s, .inf t => some (.inf (s != t))
  | .inf s, .fin t n _ => if n = 0 then none else some (.inf (s != t))
  | .fin s m _, .inf t => if m = 0 then none else some (.inf (s != t))
  | .fin s m i, .fin t n j => some (.fin (s != t) (m * n) (i + j))
  | _, _ => none

def Fmt.deliver (f : Fmt) (rm : Nat) (a : FV) : FRes :=
  match a with
  | .nan _ => f.invalid
  | .inf s => ⟨f.signed s f.infBits, 0⟩
  | .fin s m e => f.roundZ rm s m e s

def Fmt.mul (f : Fmt) (rm a b : Nat) : FRes :=
  f.withNan [a, b] (match mulFV (f.dec a) (f.dec b) with
    | none => f.invalid
    | some p => f.deliver rm p)

/-- a × b + c, rounded once (R237). 0 × ∞ raises NV whatever c is (R236); a NaN operand decides the result (R230). -/
def Fmt.fma (f : Fmt) (rm a b c : Nat) : FRes :=
  let p := mulFV (f.dec a) (f.dec b)
  let r := f.withNan [a, b, c] (match p with
    | none => f.invalid
    | some p => f.addFV rm p (f.dec c))
  if p.isNone && !f.isNan a && !f.isNan b then { r with fl := r.fl ||| flNV } else r

/-- Bits that a quotient or root is taken to before its sticky bit. -/
def Fmt.guardBits (f : Fmt) : Nat := f.fb + 4

def Fmt.div (f : Fmt) (rm a b : Nat) : FRes :=
  f.withNan [a, b] (match f.dec a, f.dec b with
    | .inf _, .inf _ => f.invalid
    | .inf s, .fin t _ _ => ⟨f.signed (s != t) f.infBits, 0⟩
    | .fin s _ _, .inf t => ⟨f.signed (s != t) 0, 0⟩
    | .fin s m i, .fin t n j =>
      if n = 0 then (if m = 0 then f.invalid else ⟨f.signed (s != t) f.infBits, flDZ⟩)
      else if m = 0 then ⟨f.signed (s != t) 0, 0⟩
      else
        let k := f.guardBits + Nat.log2 n + 1
        let q := m * 2 ^ k / n
        let st := if m * 2 ^ k % n = 0 then 0 else 1
        f.round rm (s != t) (2 * q + st) (i - j - k - 1)
    | _, _ => f.invalid)

/-- Integer square root, bit by bit from bit `n - 1` down. -/
def isqrt (x : Nat) : Nat → Nat → Nat
  | 0, r => r
  | n + 1, r =>
    let c := r + 2 ^ n
    isqrt x n (if c * c ≤ x then c else r)

def natSqrt (x : Nat) : Nat := isqrt x (Nat.log2 x / 2 + 1) 0

/-- Root of m × 2^e to `g` extra bits: integer with sticky bit, and exponent. -/
def sqrtExact (m : Nat) (e : Int) (g : Nat) : Nat × Int :=
  let k := 2 * g + (if (e % 2 = 0) then 0 else 1)
  let x := m * 2 ^ k
  let r := natSqrt x
  (2 * r + (if r * r = x then 0 else 1), (e - k) / 2 - 1)

def Fmt.sqrt (f : Fmt) (rm a : Nat) : FRes :=
  f.withNan [a] (match f.dec a with
    | .inf s => if s then f.invalid else ⟨f.infBits, 0⟩
    | .fin s m e =>
      if m = 0 then ⟨f.signed s 0, 0⟩
      else if s then f.invalid
      else
        let (r, e) := sqrtExact m e f.guardBits
        f.round rm false r e
    | .nan _ => f.invalid)

/-! ### Comparisons -/

/-- Signed key of a finite or infinite value: order as extended reals. -/
def FV.lt (a b : FV) : Bool :=
  match a, b with
  | .nan _, _ => false
  | _, .nan _ => false
  | .inf s, .inf t => s && !t
  | .inf s, _ => s
  | _, .inf t => !t
  | .fin s m i, .fin t n j =>
    let (x, _) := addExact (sgn s m) i (-(sgn t n)) j
    x < 0

def FV.eq (a b : FV) : Bool :=
  match a, b with
  | .nan _, _ => false
  | _, .nan _ => false
  | _, _ => !FV.lt a b && !FV.lt b a

/-! ### Conversions (R238) -/

/-- Float to float. -/
def Fmt.convert (src dst : Fmt) (rm x : Nat) : FRes :=
  match src.dec x with
  | .nan s =>
    let fr := x % 2 ^ src.fb
    let fr := if src.fb ≤ dst.fb then fr * 2 ^ (dst.fb - src.fb) else fr / 2 ^ (src.fb - dst.fb)
    let fr := if fr / dst.quiet % 2 = 1 then fr else fr + dst.quiet
    ⟨dst.signed (src.neg x) (dst.infBits + fr), if s then flNV else 0⟩
  | .inf s => ⟨dst.signed s dst.infBits, 0⟩
  | .fin s m e => dst.roundZ rm s m e s

/-- Integer to float. -/
def Fmt.ofInt (f : Fmt) (rm : Nat) (x : Int) : FRes := f.roundInt rm x 0 false

/-- Range of an integer type of `n` bits. -/
def intMin (isSigned : Bool) (n : Nat) : Int := if isSigned then -(2 ^ (n - 1)) else 0
def intMax (isSigned : Bool) (n : Nat) : Int := if isSigned then 2 ^ (n - 1) - 1 else 2 ^ n - 1

/-- Bits of an integer in `n` bits. -/
def toBits (n : Nat) (x : Int) : Nat := (x % (2 ^ n : Int)).toNat

/-- Float to integer. -/
def Fmt.toInt (f : Fmt) (rm : Nat) (isSigned : Bool) (n x : Nat) : FRes :=
  match f.dec x with
  | .nan _ => ⟨0, flNV⟩
  | .inf s => ⟨toBits n (if s then intMin isSigned n else intMax isSigned n), flNV⟩
  | .fin s m e =>
    let (r, inexact) := roundShift rm s m e
    let v := sgn s r
    if v < intMin isSigned n then ⟨toBits n (intMin isSigned n), flNV⟩
    else if intMax isSigned n < v then ⟨toBits n (intMax isSigned n), flNV⟩
    else ⟨toBits n v, if inexact then flNX else 0⟩

/-- Rounding to an integral value in the same format, keeping the sign of zero. -/
def Fmt.toIntegral (f : Fmt) (rm x : Nat) : FRes :=
  f.withNan [x] (match f.dec x with
    | .inf s => ⟨f.signed s f.infBits, 0⟩
    | .fin s m e =>
      let (r, inexact) := roundShift rm s m e
      let v := f.roundZ 0 s r 0 s
      ⟨v.bits, if inexact then flNX else 0⟩
    | .nan _ => f.invalid)

/-! ### Constants (R266) -/

/-- log₂e, ln 2, π and 1 ÷ (2π) as integers over 2^120, rounded down with a sticky bit. -/
def constLog2e : Nat := 2 * (1917670637729674084946755258930051709 : Nat) + 1
def constLn2 : Nat := 2 * (921350637599661305226344307672478454 : Nat) + 1
def constPi : Nat := 2 * (4175892906503776358826876457663557747 : Nat) + 1
def constInv2Pi : Nat := 2 * (211553206025302378997855913028439351 : Nat) + 1

/-- The float constants in code order (R266), rounded to nearest even into the format. -/
def Fmt.constant (f : Fmt) (n : Nat) : Nat :=
  let fin (neg : Bool) (m : Nat) (e : Int) := (f.roundZ 0 neg m e neg).bits
  match n with
  | 0 => 0
  | 1 => fin false 1 (-1)
  | 2 => fin false 1 0
  | 3 => fin false 1 1
  | 4 => fin false 1 2
  | 5 => fin false 1 3
  | 6 => fin false 1 (-2)
  | 7 => fin true 1 (-1)
  | 8 => fin true 1 0
  | 9 => fin true 1 1
  | 10 => fin true 1 2
  | 11 => f.infBits
  | 12 => fin false constLog2e (-121)
  | 13 => fin false constLn2 (-121)
  | 14 => fin false constPi (-121)
  | _ => fin false constInv2Pi (-121)

end Sys2Proof.Machine
end

