-- ==== Sys2Proof/Machine/Special.lean ====
section
/-! DEFINITION. Special functions (R239, R240). f16 and bf16 results are correctly rounded from an enclosure far below a
unit in the last place; f32 and f64 results of the functions that are not correctly rounded are a free fixed function of
operand and type within the bound. -/

namespace Sys2Proof.Machine

/-- Fraction bits of the fixed-point values. -/
def fixBits : Nat := 320

def fixOne : Nat := 2 ^ fixBits

/-- π over 2^1600, rounded down. -/
def piBits : Nat :=
  ([0x3243f6a8885a308d313198a2e03707344a4093822299f31d0082efa98ec4e6c89452821e638d01377be5466cf34e90c6cc0a,
   0xc29b7c97c50dd3f84d5b5b54709179216d5d98979fb1bd1310ba698dfb5ac2ffd72dbd01adfb7b8e1afed6a267e96ba7c904,
   0x5f12c7f9924a19947b3916cf70801f2e2858efc16636920d871574e69a458fea3f4933d7e0d95748f728eb658718bcd58821,
   0x54aee7b54a41dc25a59b59c30d5392af26013c5d1b023286085f0ca417918b8db38ef8e79dcb0603a180e6c9e0e8bb01e8a3] : List Nat).foldl (fun a d => a * 2 ^ 400 + d) 0 * 2 ^ 4 + 0xe

/-- ln 2 over 2^400, rounded down. -/
def ln2Bits : Nat :=
  ([] : List Nat).foldl (fun a d => a * 2 ^ 400 + d) 0 * 2 ^ 400 + 0xb17217f7d1cf79abc9e3b39803f2f6af40f343267298b62d8a0d175b8baafa2be7b876206debac98559552fb4afa1b10ed2e

/-- exp of a fixed-point x in [0, 1): the first `n` terms of its series. -/
def expSeries (x : Nat) : Nat → Nat → Nat → Nat → Nat
  | 0, _, _, acc => acc
  | n + 1, k, t, acc =>
    let t' := t * x / fixOne / k
    expSeries x n (k + 1) t' (acc + t')

/-- e^x for fixed-point x in [0, 1). -/
def expFix (x : Nat) : Nat := expSeries x 90 1 fixOne fixOne

/-- 2^x for fixed-point x in [0, 1). -/
def exp2Fix (x : Nat) : Nat := expFix (x * ln2Bits / 2 ^ 400)

/-- Odd powers of z: z + z³/3 + z⁵/5 + …. -/
def atanhSeries (z2 : Nat) : Nat → Nat → Nat → Nat → Nat
  | 0, _, _, acc => acc
  | n + 1, k, t, acc =>
    let t' := t * z2 / fixOne
    atanhSeries z2 n (k + 2) t' (acc + t' / k)

/-- ln m for fixed-point m in [1, 2). -/
def lnFix (m : Nat) : Nat :=
  let z := (m - fixOne) * fixOne / (m + fixOne)
  2 * atanhSeries (z * z / fixOne) 110 3 z z

/-- Alternating series of sin or cos: each term is the last times −x² ÷ ((k+1)(k+2)). -/
def trigSeries (x2 : Nat) : Nat → Nat → Nat → Bool → Int → Int
  | 0, _, _, _, acc => acc
  | n + 1, k, t, neg, acc =>
    let t' := t * x2 / fixOne / ((k + 1) * (k + 2))
    trigSeries x2 n (k + 2) t' (!neg) (if neg then acc - t' else acc + t')

/-- sin and cos of fixed-point x in [0, 2). -/
def sinFix (x : Nat) : Int := trigSeries (x * x / fixOne) 60 1 x true x
def cosFix (x : Nat) : Int := trigSeries (x * x / fixOne) 60 0 fixOne true fixOne

/-- m × 2^e as a fixed-point number, rounded down. -/
def toFix (m : Nat) (e : Int) : Nat :=
  let k := e + fixBits
  if 0 ≤ k then m * 2 ^ k.toNat else m / 2 ^ (-k).toNat

/-- m × 2^e reduced by multiples of π/2 (R239): quadrant, and the fixed-point rest. -/
def reducePi (m : Nat) (e : Int) : Nat × Nat :=
  let k := e + 1600
  let x := if 0 ≤ k then m * 2 ^ k.toNat else m / 2 ^ (-k).toNat
  let h := piBits / 2
  (x / h % 4, x % h / 2 ^ (1600 - fixBits))

/-- An inexact value: sign, mantissa whose lowest bit is sticky, exponent. -/
structure Approx where
  neg : Bool
  m : Nat
  e : Int
deriving DecidableEq, Repr

def Approx.ofFix (x : Int) : Approx := ⟨x < 0, 2 * x.natAbs + 1, -(fixBits : Int) - 1⟩

/-- A value just below or above ±m × 2^e: by less than 2^-120 of itself. -/
def Approx.near (neg : Bool) (m : Nat) (e : Int) (above : Bool) : Approx :=
  ⟨neg, if above then m * 2 ^ 120 + 1 else m * 2 ^ 120 - 1, e - 120⟩

/-- What a special function comes to: bits that the spec fixes, or an inexact value. -/
inductive Spv where
  | exact (r : FRes)
  | inexact (a : Approx)
deriving DecidableEq, Repr

/-- Binary exponent of a nonzero value. -/
def topExp (m : Nat) (e : Int) : Int := e + Nat.log2 m

/-- 2^x. -/
def exp2Val (f : Fmt) (rm : Nat) (a : Nat) : Spv :=
  match f.dec a with
  | .inf s => .exact ⟨if s then 0 else f.infBits, 0⟩
  | .nan _ => .exact f.invalid
  | .fin s m e =>
    if m = 0 then .exact (f.round rm false 1 0)
    else
      let (n, inexact) := roundShift 3 s m e
      let n := sgn s n                       -- ⌊x⌋
      if !inexact then
        if f.lowExp ≤ n && n ≤ f.bias then .exact (f.round rm false 1 n)
        else .inexact ⟨false, 1, if 4096 < n then 5000 else if n < -4096 then -5000 else n⟩
      else if 4096 < topExp m e then .inexact ⟨false, 3, if s then -5000 else 5000⟩
      else if 4096 < n then .inexact ⟨false, 3, 5000⟩
      else if n < -4096 then .inexact ⟨false, 3, -5000⟩
      else if topExp m e < -200 then .inexact (Approx.near false 1 0 (!s))
      else
        let (x, e') := addExact (sgn s m) e (-n) 0    -- the fraction, in [0, 1)
        let y := exp2Fix (toFix x.toNat e')
        .inexact ⟨false, 2 * y + 1, n - fixBits - 1⟩

/-- log₂ x. -/
def log2Val (f : Fmt) (rm : Nat) (a : Nat) : Spv :=
  match f.dec a with
  | .inf s => .exact (if s then f.invalid else ⟨f.infBits, 0⟩)
  | .nan _ => .exact f.invalid
  | .fin s m e =>
    if m = 0 then .exact ⟨f.signed true f.infBits, flDZ⟩
    else if s then .exact f.invalid
    else
      let k := Nat.log2 m
      let n := e + k
      if m = 2 ^ k then .exact (f.roundInt rm n 0 false)
      else
        let y : Nat := lnFix (m * fixOne / 2 ^ k) * 2 ^ 400 / ln2Bits
        .inexact (Approx.ofFix (n * (fixOne : Int) + y))

/-- sin (`cosine` false) or cos of x. -/
def trigVal (f : Fmt) (cosine : Bool) (rm : Nat) (a : Nat) : Spv :=
  match f.dec a with
  | .inf _ => .exact f.invalid
  | .nan _ => .exact f.invalid
  | .fin s m e =>
    if m = 0 then .exact (if cosine then f.round rm false 1 0 else ⟨f.signed s 0, 0⟩)
    else if topExp m e < -100 then .inexact (if cosine then Approx.near false 1 0 false else Approx.near s m e false)
    else
      let (q, r) := reducePi m e
      let q := if cosine then (q + 1) % 4 else q
      let y := match q with
        | 0 => sinFix r
        | 1 => cosFix r
        | 2 => -(sinFix r)
        | _ => -(cosFix r)
      .inexact (Approx.ofFix (if s && !cosine then -y else y))

/-- tanh x. -/
def tanhVal (f : Fmt) (rm : Nat) (a : Nat) : Spv :=
  match f.dec a with
  | .inf s => .exact (f.round rm s 1 0)
  | .nan _ => .exact f.invalid
  | .fin s m e =>
    if m = 0 then .exact ⟨f.signed s 0, 0⟩
    else if topExp m e < -100 then .inexact (Approx.near s m e false)
    else if 6 < topExp m e then .inexact (Approx.near s 1 0 false)
    else
      -- e^2x as 2^(2x·log₂e): 2^n × y
      let x2 := toFix m (e + 1)
      let z := x2 * 2 ^ 400 / ln2Bits
      let n := z / fixOne
      let y := exp2Fix (z % fixOne) * 2 ^ n
      .inexact ⟨s, 2 * ((y - fixOne) * fixOne / (y + fixOne)) + 1, -(fixBits : Int) - 1⟩

/-- 1 ÷ x. -/
def rcpVal (f : Fmt) (a : Nat) : Spv :=
  match f.dec a with
  | .inf s => .exact ⟨f.signed s 0, 0⟩
  | .nan _ => .exact f.invalid
  | .fin s m e =>
    if m = 0 then .exact ⟨f.signed s f.infBits, flDZ⟩
    else
      let k := 130 + Nat.log2 m
      .inexact ⟨s, 2 * (2 ^ k / m) + (if 2 ^ k % m = 0 then 0 else 1), -e - k - 1⟩

/-- 1 ÷ √x. -/
def rsqVal (f : Fmt) (a : Nat) : Spv :=
  match f.dec a with
  | .inf s => .exact (if s then f.invalid else ⟨0, 0⟩)
  | .nan _ => .exact f.invalid
  | .fin s m e =>
    if m = 0 then .exact ⟨f.signed s f.infBits, flDZ⟩
    else if s then .exact f.invalid
    else
      -- √(2^2k ÷ m × 2^-e) with e even
      let k := 300 + Nat.log2 m
      let o : Nat := if e % 2 = 0 then 0 else 1
      let x := 2 ^ (2 * k + o) / m
      let r := natSqrt x
      let ex := r * r * m = 2 ^ (2 * k + o)
      .inexact ⟨false, 2 * r + (if ex then 0 else 1), -((e + o) / 2) - k - 1⟩

/-- The special functions, in the numbering of Config.special. -/
def specialVal (fn : Nat) (f : Fmt) (rm a : Nat) : Spv :=
  match fn with
  | 0 => rcpVal f a
  | 1 => rsqVal f a
  | 2 => exp2Val f rm a
  | 3 => log2Val f rm a
  | 4 => trigVal f false rm a
  | 5 => trigVal f true rm a
  | _ => tanhVal f rm a

/-- Units in the last place that a result may differ by in f32 and f64 (R239). -/
def specialUlp (fn : Nat) : Nat := if fn ≤ 1 then 1 else 2

/-- Encoding `n` of a magnitude differs from the exact value by at most `ulp` units in the last place of the exact value (log entry 94). -/
def Fmt.within (f : Fmt) (ulp : Nat) (a : Approx) (n : Nat) : Bool :=
  match f.dec n with
  | .fin _ m e =>
    let unit : Int := max (topExp a.m a.e - f.fb) f.lowExp
    let (d, k) := addExact m e (-(a.m : Int)) a.e
    (addExact d.natAbs k (-(ulp : Int)) unit).1 ≤ 0
  | _ => false

/-- A result within the bound: `choice` among the encodings whose distance from the exact value is within it. The exact value decides
overflow and underflow (R236). -/
def withinBound (f : Fmt) (ulp : Nat) (a : Approx) (choice : Nat) : FRes :=
  let near := f.round 0 a.neg a.m a.e
  if near.fl / flOF % 2 = 1 then near
  else
    let mag := near.bits % f.signBit
    let cs := ((upTo (4 * ulp + 3)).map fun i => mag + i - (2 * ulp + 1)).dedup.filter fun n => n < f.infBits && f.within ulp a n
    let n := cs.getD (choice % max cs.length 1) mag
    if near.fl = 0 && n == mag then ⟨near.bits, 0⟩
    else ⟨f.signed a.neg n, flNX + (if f.tiny 0 a.neg a.m a.e then flUF else 0)⟩

/-- A special function of one operand (R239, R240). -/
def Fmt.special (f : Fmt) (fn rm a : Nat) : FRes :=
  f.withNan [a] (match specialVal fn f rm a with
    | .exact r => r
    | .inexact v =>
      if f.width = 16 then f.round rm v.neg v.m v.e
      else withinBound f (specialUlp fn) v (Config.special fn (f.width == 64) (BitVec.ofNat 64 a)).toNat)

end Sys2Proof.Machine
end

