-- ==== Sys2Proof/Machine/Operands.lean ====
section
/-! DEFINITION. Reading operands: constants and immediates under a type (R266, R270), special registers (R115, R219, R267),
guards (R276), and which vector registers and privileged names an operand uses (R405, R267). -/

namespace Sys2Proof.Machine

/-! ### Sub-elements (R114) -/

/-- Sub-element `i` of width `n`. -/
def subOf (w : Word) (n i : Nat) : Nat := w.toNat / 2 ^ (n * i) % 2 ^ n

def joinSubs (n : Nat) (xs : List Nat) : Nat := xs.foldr (fun x acc => x % 2 ^ n + acc * 2 ^ n) 0

/-- Sub-elements packed lowest first. -/
def packSubs (n : Nat) (xs : List Nat) : Word := wordOf (joinSubs n xs)

def subs (t : Ty) (w : Word) : List Nat := (upTo t.count).map fun i => subOf w t.width i

/-- One value in every sub-element. -/
def splat (t : Ty) (x : Nat) : Word := packSubs t.width (List.replicate t.count x)

/-! ### Constants and immediates -/

/-- An integer as a value of the type in every sub-element (R266). -/
def intValue (t : Ty) (k : Int) : Word :=
  match t with
  | .b64 | .b1 => BitVec.ofInt 64 k
  | .f16 | .bf16 | .f32 | .f64 => splat t ((fmtOf t).ofInt 0 k).bits
  | _ => splat t (toBits t.width k)

/-- IMM sign-extended (R270). -/
def immInt (x : BitVec 18) : Int := x.toInt

/-- IMM under a type (R270): bits [31:14] of an f32 for float types. -/
def immValue (t : Ty) (x : BitVec 18) : Word :=
  match t with
  | .f16 | .bf16 | .f32 | .f64 => splat t (Fmt.f32.convert (fmtOf t) 0 (x.toNat * 2 ^ 14)).bits
  | .cb4 => splat .cb4 (x.toNat % 16)
  | _ => intValue t (immInt x)

/-! ### Special registers (R115, R219, R267) -/

def vchipOf (x : Ictx) : Option Vchip := x.s.vchip? x.v

/-- %gang: the linear index (R115). -/
def Ictx.special (x : Ictx) (l : Nat) (r : Spec) : Word :=
  let t := x.w.trap
  match r with
  | .lane => wordOf l
  | .width => wordOf x.w.width
  | .warp => wordOf x.w.number
  | .wg => wordOf x.w.id.wg
  | .gang => wordOf x.g.gidx
  | .core => wordOf (((vchipOf x).map fun c => c.coreIndex x.w.id.core).getD 0)
  | .vchip => wordOf (((vchipOf x).map (·.vch)).getD 0)
  | .mode => x.w.mode
  | .flags => wordOf x.w.flags.toNat
  | .cyc => wordOf (x.s.cyc x.w.id.core)
  | .utvec => t.utvec
  | .tpc => match t.level with | 0 => 0 | 1 => t.tpc1 | _ => t.tpc2
  | .tcause => match t.level with | 0 => 0 | 1 => t.tcause1 | _ => t.tcause2
  | .taddr => KMap.get t.taddr 0 l
  | .tmask => if t.tmask.getLsbD l then 1 else 0
  | .xop => t.xop
  | .xd => t.xd
  | .xa => t.xa
  | .xb => t.xb
  | .xc => t.xc
  | .ximm => t.ximm
  | .xtype => t.xtype
  | .gdim => wordOf (fld (x.g.word 1) 0 60)
  | .gidx => x.g.gidxWord
  | .nwg => wordOf x.g.nwg
  | .level => wordOf t.level
  | .nwarp => wordOf x.g.nwarp
  | .lid => wordOf x.g.lid
  | .utcause => t.tcause1
  | .utpc => t.tpc1
  | .npod => wordOf (((vchipOf x).map fun c => x.s.podSize c.guest).getD 0)
  | .vlt => wordOf x.g.vlt

/-! ### Operand values -/

/-- A source in lane `l` under type `t` (R266, R268, R299). -/
def Ictx.src (x : Ictx) (t : Ty) (l : Nat) : Operand → Word
  | .v n => x.w.vreg n l
  | .s n => x.w.sreg n
  | .int k => intValue t k
  | .flt n => splat t ((fmtOf t).constant n)
  | .spec r => x.special l r
  | .f _ => 0
  | .imm i => immValue t i

/-- A source read as an index, count or amount: integers whatever the type (R266). -/
def Ictx.index (x : Ictx) (l : Nat) : Operand → Word
  | .int k => BitVec.ofInt 64 k
  | .imm i => BitVec.ofInt 64 (immInt i)
  | o => x.src .b64 l o

/-- The lane that a path reads a uniform operand in: any, since it reads no lane register. -/
def Ictx.uni (x : Ictx) (t : Ty) (o : Operand) : Word := x.src t 0 o

/-- Register `n + k` of a run that starts at an operand. -/
def Operand.next (o : Operand) (k : Nat) : Operand :=
  match o with
  | .v n => .v (n + k)
  | .s n => .s (n + k)
  | o => o

/-- One above the highest vector register that a run of `k` at this operand names. -/
def Operand.top (o : Operand) (k : Nat) : Nat :=
  match o with
  | .v n => n + k
  | _ => 0

/-- The operand names a privileged register (R267). -/
def Operand.priv : Operand → Bool
  | .spec r => r.isPriv
  | _ => false

/-- Highest vector register named, plus one, over plain operands. -/
def topOf (os : List Operand) : Nat := os.foldl (fun m o => max m (Operand.top o 1)) 0

def privOf (os : List Operand) : Bool := os.any Operand.priv

/-! ### Guards (R264, R276) -/

def guardMask (w : Warp) (g : Guard) : Mask := if g.neg then ~~~(w.pred g.p) else w.pred g.p

/-- Lanes that take part: active lanes whose guard holds. -/
def Ictx.lanes (x : Ictx) (g : Guard) : Mask := x.act &&& guardMask x.w g

/-- The guard holds in some active lane. -/
def Ictx.any (x : Ictx) (g : Guard) : Bool := x.lanes g != 0

/-- An instruction that acts once: its checks on names and registers, then nothing when its guard fails everywhere, else
its body (R281, R405). -/
def State.once (s : State) (g : Guard) (regs : Nat) (priv : Bool) (body : Ictx → Res) : Host.Outcome State Fault Refusal :=
  s.run fun x => x.allowed priv (x.inRange regs (if x.any g then body x else .done x.s))

/-- An instruction that acts per lane: checks, then its body over the lanes that take part (R299). -/
def State.perLane (s : State) (g : Guard) (regs : Nat) (priv : Bool) (body : Ictx → Mask → Res) :
    Host.Outcome State Fault Refusal :=
  s.run fun x => x.allowed priv (x.inRange regs (body x (x.lanes g)))

/-! ### Writing lanes -/

/-- Write a value in each listed lane of a vector register. -/
def Warp.setLanes (w : Warp) (n : Nat) (xs : List (Nat × Word)) : Warp := xs.foldl (fun w e => w.setV n e.1 e.2) w

end Sys2Proof.Machine
end

