-- ==== Sys2Proof/Machine/Flags.lean ====
section
/-! DEFINITION. Numeric flags: raising them (R222, R236), their traps (R214, R217), and merging a handle's flags (R132, R223). -/

namespace Sys2Proof.Machine

/-- Trap enables of %mode, in the order of %flags (R233). -/
def Warp.enables (w : Warp) : Nat := fld w.mode 8 5

/-- RM (R233). -/
def Warp.rm (w : Warp) : Nat := fld w.mode 0 2

def Warp.raise (w : Warp) (fl : Nat) : Warp := { w with flags := w.flags ||| BitVec.ofNat 5 fl }

/-- OR of the flags of all lanes. -/
def allFlags (per : List (Nat × Nat)) : Nat := per.foldl (fun f e => f ||| e.2) 0

/-- Lanes that raised an enabled flag, ascending. -/
def trapLanes (en : Nat) (per : List (Nat × Nat)) : List (Nat × Nat) := per.filter fun e => e.2 &&& en != 0

/-- Flags raised per lane join %flags; an enabled one below level 2 raises class 3 precisely on the lanes that raised one,
with SUB the lowest lane's, and nothing is written; else `r` goes on from the warp with its flags (R214, R217, R222). -/
def Ictx.numeric (x : Ictx) (per : List (Nat × Nat)) (r : Warp → Res) : Res :=
  let w := x.w.raise (allFlags per)
  let hit := trapLanes x.w.enables per
  match hit with
  | (_, f) :: _ =>
    if x.w.trap.level < 2 then
      .trap (x.put w) ⟨3, f &&& x.w.enables, hit.map fun e => (e.1, 0), false, none⟩
    else r w
  | [] => r w

/-- Flags of a cross-lane result: every active lane is marked (R217; log entry 21). -/
def Ictx.numericAll (x : Ictx) (fl : Nat) (r : Warp → Res) : Res :=
  let w := x.w.raise fl
  if fl &&& x.w.enables != 0 && x.w.trap.level < 2 then
    .trap (x.put w) (Trap.all 3 (fl &&& x.w.enables) x.act 0)
  else r w

/-! ### Handles (R132, R223) -/

/-- Array operations that are covered: their completion happens before what follows (R352). -/
def WarpWork.cover (k : WarpWork) (which : Nat × Nat × Nat → Bool) : WarpWork :=
  { k with
    mzTiles := k.mzTiles.filter fun e => !which e
    known := (k.known ++ (k.mzTiles.filter which).map (·.1)).dedup }

/-- The engine writes of a handle below a linear index go before what these lanes do next (R146, R190). -/
def WarpWork.see (k : WarpWork) (f upTo : Nat) (m : Mask) : WarpWork :=
  { k with landing := k.landing.map fun e => if e.f = f && e.upTo ≤ upTo then { e with seen := e.seen ||| m } else e }

/-- An instruction of a path of lanes `m` has observed handle `f` DONE: the tiles of its operation are covered (R352), its writes go
before what follows (R190). -/
def Warp.coverHandle (w : Warp) (f : Nat) (m : Mask) : Warp :=
  { w with work := (w.work.cover fun e => e.2.1 == f).see f (2 ^ 64) m }

/-- Merge a DONE handle's flags once. -/
def Warp.merge (w : Warp) (f : Nat) (m : Mask) : Warp :=
  let h := w.handle f
  if h.st == .done then
    let w := w.coverHandle f m
    if h.merged then w else (w.raise h.flags.toNat).setHandle f { h with merged := true }
  else w

/-- The enabled flags that merging a handle would deliver. -/
def Warp.mergeTraps (w : Warp) (f : Nat) : Nat :=
  let h := w.handle f
  if h.st == .done && !h.merged then h.flags.toNat &&& w.enables else 0

/-- The class 3 of a merge over the handles `fs`: HND the lowest that traps, SUB the enabled flags merged (R223). None at
level 2 (R214). -/
def Ictx.mergeTrap (x : Ictx) (fs : List Nat) : Option Trap :=
  let hit := fs.filter fun f => x.w.mergeTraps f != 0
  match hit with
  | [] => none
  | f :: _ =>
    if x.w.trap.level < 2 then
      some { Trap.all 3 (hit.foldl (fun m f => m ||| x.w.mergeTraps f) 0) x.act 0 with hnd := some f, after := true }
    else none

/-- Complete with the state, then take the merge's trap if there is one. -/
def Res.thenTrap (s : State) (t : Option Trap) : Res :=
  match t with
  | none => .done s
  | some t => .after s t

/-- An operation that names handle `f`: a PENDING one blocks the path; a DONE one's flags merge; the body issues the
operation from the merged warp, and the merge's trap follows (R132, R223). -/
def Ictx.withHandle (x : Ictx) (f : Nat) (body : Ictx → Res) : Res :=
  if (x.w.handle f).st == .pending then x.wait
  else
    let t := x.mergeTrap [f]
    let w := x.w.merge f x.act
    let undo (s : State) := s.modWarp x.c.warp fun w =>
      { w with flags := x.w.flags, handles := x.w.handles, work := { w.work with
          mzTiles := x.w.work.mzTiles, known := x.w.work.known
          landing := x.w.work.landing.filter fun e => w.work.landing.any fun q => { q with seen := e.seen } == e } }
    match body { x with w := w, s := x.put w } with
    | .done s => Res.thenTrap s t
    | .after s u => .after s u
    | .moved s => .moved (undo s)
    | .trap s u => .trap (undo s) u

/-- A handle taken by a new operation: PENDING, its old status gone (R132). -/
def Handle.issue (op : Nat) : Handle := ⟨.pending, op, 0, 0, false, 0, 0⟩

/-- An operation completes: DONE with status, flags and INFO (R132, R225). -/
def Handle.complete (h : Handle) (status : Nat) (fl : BitVec 5) (info : Word) : Handle :=
  { h with st := .done, status := status, flags := fl, info := info, merged := false }

def Warp.completeHandle (w : Warp) (f status : Nat) (fl : BitVec 5) (info : Word) : Warp :=
  w.setHandle f ((w.handle f).complete status fl info)

end Sys2Proof.Machine
end

