-- ==== Sys2Proof/Machine/Scalar.lean ====
section
/-! DEFINITION. Scalar arithmetic: NOP, the scalar ALU and SLI (R281 to R284). -/

namespace Sys2Proof.Machine

/-- Bits [W−1:0] of a source, signed for i32 and i64 (R283). -/
def aluRead (t : Ty) (w : Word) : Int :=
  let n := w.toNat % 2 ^ t.width
  if t.signed then sext t.width n else n

/-- The result written: wraps to W bits; i32 sign-extends (R283). -/
def aluWrite (t : Ty) (r : Int) : Word :=
  let n := toBits t.width r
  wordOf (if t == .i32 && 2 ^ 31 ≤ n then n + 0xFFFFFFFF00000000 else n)

/-- The W-bit pattern of a source. -/
def aluPat (t : Ty) (w : Word) : Nat := w.toNat % 2 ^ t.width

/-- `sh`: the low six or five bits of b (R283). -/
def aluShift (t : Ty) (w : Word) : Nat := w.toNat % t.width

/-- `pos` and `len` of a bit-field operand of width `n` (R283, R307). -/
def bfPos (n : Nat) (b : Nat) : Nat := b % 64 % n
def bfLen (n : Nat) (b : Nat) : Nat := min (b / 64 % 128) n

/-- Bit-field extract (R283). -/
def bfExtract (n : Nat) (isSigned : Bool) (a b : Nat) : Int :=
  let len := bfLen n b
  let f := a % 2 ^ n / 2 ^ bfPos n b % 2 ^ len
  if isSigned && 0 < len && f / 2 ^ (len - 1) % 2 = 1 then (f : Int) - 2 ^ len else f

/-- Bit-field insert into `old` (R283). -/
def bfInsert (n : Nat) (old a b : Nat) : Nat :=
  let lo := bfPos n b
  let hi := min (lo + bfLen n b) n
  old % 2 ^ lo + (a % 2 ^ (hi - lo)) * 2 ^ lo + old / 2 ^ hi * 2 ^ hi

/-- Ones among the low `n` bits. -/
def popcount : Nat → Nat → Nat
  | 0, _ => 0
  | n + 1, x => x % 2 + popcount n (x / 2)

/-- Leading zeros of an `n`-bit number. -/
def leadingZeros (n x : Nat) : Nat := if x = 0 then n else n - 1 - Nat.log2 x

/-- b64 compares and divides as n64 (R283): `signed` is false for it. -/
def quotient (a b : Int) : Int := if b = 0 then -1 else Int.tdiv a b

def remainder (a b : Int) : Int := if b = 0 then a else Int.tmod a b

/-- cc of SCMP and of INT VCMP (R283, R305). -/
def condInt (c : Cond) (a b : Int) : Bool :=
  match c with
  | .eq => a == b
  | .ne => a != b
  | .lt => a < b
  | .le => a ≤ b
  | .gt => b < a
  | .ge => b ≤ a
  | .un => false

/-- A scalar instruction that writes sD once (R281). -/
def scalarWrite (s : State) (g : Guard) (d : Nat) (os : List Operand) (f : Ictx → Word) : Host.Outcome State Fault Refusal :=
  s.once g 0 (privOf os) fun x => .done (x.put (x.w.setS d (f x)))

/-- A two-source operation on integers (R283). -/
def scalarAlu (s : State) (g : Guard) (t : Ty) (d : Nat) (a b : Operand) (f : Int → Int → Int) :
    Host.Outcome State Fault Refusal :=
  scalarWrite s g d [a, b] fun x => aluWrite t (f (aluRead t (x.uni t a)) (aluRead t (x.uni t b)))

/-- A two-source operation on W-bit patterns (R283). -/
def scalarPat (s : State) (g : Guard) (t : Ty) (d : Nat) (a b : Operand) (f : Nat → Nat → Nat) :
    Host.Outcome State Fault Refusal :=
  scalarWrite s g d [a, b] fun x => aluWrite t (f (aluPat t (x.uni t a)) (aluPat t (x.uni t b)))

/-- NOP has no effect (R284). -/
def execNop (g : Guard) (s : State) : Host.Outcome State Fault Refusal := s.once g 0 false fun x => .done x.s

/-- SADD: a + b (R283). -/
def execSadd (g : Guard) (t : Ty) (d : Nat) (a b : Operand) (s : State) : Host.Outcome State Fault Refusal :=
  scalarAlu s g t d a b fun a b => a + b

/-- SSUB: a − b (R283). -/
def execSsub (g : Guard) (t : Ty) (d : Nat) (a b : Operand) (s : State) : Host.Outcome State Fault Refusal :=
  scalarAlu s g t d a b fun a b => a - b

/-- SMUL: a × b (R283). -/
def execSmul (g : Guard) (t : Ty) (d : Nat) (a b : Operand) (s : State) : Host.Outcome State Fault Refusal :=
  scalarAlu s g t d a b fun a b => a * b

/-- SMULH: ⌊a × b ÷ 2^W⌋ (R283). -/
def execSmulh (g : Guard) (t : Ty) (d : Nat) (a b : Operand) (s : State) : Host.Outcome State Fault Refusal :=
  scalarAlu s g t d a b fun a b => (a * b) / 2 ^ t.width

/-- SDIV: a div b; −1 for b = 0 (R283). -/
def execSdiv (g : Guard) (t : Ty) (d : Nat) (a b : Operand) (s : State) : Host.Outcome State Fault Refusal :=
  scalarAlu s g t d a b quotient

/-- SREM: a mod b; a for b = 0 (R283). -/
def execSrem (g : Guard) (t : Ty) (d : Nat) (a b : Operand) (s : State) : Host.Outcome State Fault Refusal :=
  scalarAlu s g t d a b remainder

/-- SAND: bitwise and (R283). -/
def execSand (g : Guard) (t : Ty) (d : Nat) (a b : Operand) (s : State) : Host.Outcome State Fault Refusal :=
  scalarPat s g t d a b fun a b => a &&& b

/-- SOR: bitwise or (R283). -/
def execSor (g : Guard) (t : Ty) (d : Nat) (a b : Operand) (s : State) : Host.Outcome State Fault Refusal :=
  scalarPat s g t d a b fun a b => a ||| b

/-- SXOR: bitwise exclusive or (R283). -/
def execSxor (g : Guard) (t : Ty) (d : Nat) (a b : Operand) (s : State) : Host.Outcome State Fault Refusal :=
  scalarPat s g t d a b fun a b => a ^^^ b

/-- SSHL: a << sh (R283). -/
def execSshl (g : Guard) (t : Ty) (d : Nat) (a b : Operand) (s : State) : Host.Outcome State Fault Refusal :=
  scalarPat s g t d a b fun a b => a * 2 ^ (b % t.width)

/-- SSHR: a >> sh (R283). -/
def execSshr (g : Guard) (t : Ty) (d : Nat) (a b : Operand) (s : State) : Host.Outcome State Fault Refusal :=
  scalarPat s g t d a b fun a b => a / 2 ^ (b % t.width)

/-- SSRA: a read as signed, whatever the type (R283). -/
def execSsra (g : Guard) (t : Ty) (d : Nat) (a b : Operand) (s : State) : Host.Outcome State Fault Refusal :=
  scalarWrite s g d [a, b] fun x =>
    aluWrite t (sext t.width (aluPat t (x.uni t a)) / 2 ^ aluShift t (x.uni t b))

/-- SMIN: the lesser (R283). -/
def execSmin (g : Guard) (t : Ty) (d : Nat) (a b : Operand) (s : State) : Host.Outcome State Fault Refusal :=
  scalarAlu s g t d a b fun a b => min a b

/-- SMAX: the greater (R283). -/
def execSmax (g : Guard) (t : Ty) (d : Nat) (a b : Operand) (s : State) : Host.Outcome State Fault Refusal :=
  scalarAlu s g t d a b fun a b => max a b

/-- SCMP: 1 if a cc b holds, else 0 (R283). -/
def execScmp (g : Guard) (t : Ty) (c : Cond) (d : Nat) (a b : Operand) (s : State) : Host.Outcome State Fault Refusal :=
  scalarAlu s g t d a b fun a b => if condInt c a b then 1 else 0

/-- SSEL: a if src(C) ≠ 0, else b (R283). -/
def execSsel (g : Guard) (t : Ty) (d : Nat) (a b c : Operand) (s : State) : Host.Outcome State Fault Refusal :=
  scalarWrite s g d [a, b, c] fun x => aluWrite t (aluRead t (x.uni t (if x.uni t c != 0 then a else b)))

/-- SBFX (R283). -/
def execSbfx (g : Guard) (t : Ty) (d : Nat) (a b : Operand) (s : State) : Host.Outcome State Fault Refusal :=
  scalarWrite s g d [a, b] fun x =>
    aluWrite t (bfExtract t.width t.signed (aluPat t (x.uni t a)) (x.uni t b).toNat)

/-- SBFI: sD is also a source (R283). -/
def execSbfi (g : Guard) (t : Ty) (d : Nat) (a b : Operand) (s : State) : Host.Outcome State Fault Refusal :=
  scalarWrite s g d [a, b] fun x =>
    aluWrite t (bfInsert t.width (aluPat t (x.w.sreg d)) (aluPat t (x.uni t a)) (x.uni t b).toNat)

/-- SPOPC (R283). -/
def execSpopc (g : Guard) (t : Ty) (d : Nat) (a : Operand) (s : State) : Host.Outcome State Fault Refusal :=
  scalarWrite s g d [a] fun x => aluWrite t (popcount t.width (aluPat t (x.uni t a)))

/-- SCLZ (R283). -/
def execSclz (g : Guard) (t : Ty) (d : Nat) (a : Operand) (s : State) : Host.Outcome State Fault Refusal :=
  scalarWrite s g d [a] fun x => aluWrite t (leadingZeros t.width (aluPat t (x.uni t a)))

/-- SMOV (R283). -/
def execSmov (g : Guard) (t : Ty) (d : Nat) (a : Operand) (s : State) : Host.Outcome State Fault Refusal :=
  scalarWrite s g d [a] fun x => aluWrite t (aluRead t (x.uni t a))

/-- SLI writes the second word (R284). -/
def execSli (g : Guard) (d : Nat) (value : Word) (s : State) : Host.Outcome State Fault Refusal :=
  scalarWrite s g d [] fun _ => value

end Sys2Proof.Machine
end

