-- ==== Sys2Proof/Machine/Predicate.lean ====
section
/-! DEFINITION. Predicate instructions (R286) and special registers (R287). -/

namespace Sys2Proof.Machine

/-- OP 0 to 3 write pD in each lane that takes part; p7 ignores writes (R286). -/
def predWrite (s : State) (g : Guard) (d : Nat) (f : Warp → Mask) : Host.Outcome State Fault Refusal :=
  s.perLane g 0 false fun x m => .done (x.put (x.w.setP d ((x.w.pred d &&& ~~~m) ||| (f x.w &&& m))))

/-- PAND (R286). -/
def execPand (g : Guard) (d a b : Nat) (s : State) : Host.Outcome State Fault Refusal :=
  predWrite s g d fun w => w.pred a &&& w.pred b

/-- POR (R286). -/
def execPor (g : Guard) (d a b : Nat) (s : State) : Host.Outcome State Fault Refusal :=
  predWrite s g d fun w => w.pred a ||| w.pred b

/-- PXOR (R286). -/
def execPxor (g : Guard) (d a b : Nat) (s : State) : Host.Outcome State Fault Refusal :=
  predWrite s g d fun w => w.pred a ^^^ w.pred b

/-- PNOT (R286). -/
def execPnot (g : Guard) (d a : Nat) (s : State) : Host.Outcome State Fault Refusal :=
  predWrite s g d fun w => ~~~(w.pred a)

/-- PANY: 1 if pA holds in an active lane (R286). -/
def execPany (g : Guard) (d a : Nat) (s : State) : Host.Outcome State Fault Refusal :=
  scalarWrite s g d [] fun x => if x.w.pred a &&& x.act != 0 then 1 else 0

/-- PALL: 1 if pA holds in every active lane (R286). -/
def execPall (g : Guard) (d a : Nat) (s : State) : Host.Outcome State Fault Refusal :=
  scalarWrite s g d [] fun x => if x.w.pred a &&& x.act == x.act then 1 else 0

/-- PCNT: active lanes that hold pA (R286). -/
def execPcnt (g : Guard) (d a : Nat) (s : State) : Host.Outcome State Fault Refusal :=
  scalarWrite s g d [] fun x => wordOf (Mask.count (x.w.pred a &&& x.act))

/-- SRD to sD once, or to vD in every active lane of the path (R287). -/
def execSrd (g : Guard) (d : Operand) (r : Spec) (s : State) : Host.Outcome State Fault Refusal :=
  s.once g (Operand.top d 1) r.isPriv fun x =>
    let y := x.special 0 r
    match d with
    | .v n => .done (x.put (x.w.setLanes n ((Mask.lanes x.act).map fun l => (l, y))))
    | .s n => .done (x.put (x.w.setS n y))
    | _ => .done x.s

/-- Bits of %mode that are not reserved (R233). -/
def modeMask : Word := 0x1F03

/-- What SWR writes (R287). -/
def Warp.writeSpecial (w : Warp) (r : Spec) (a : Word) : Warp :=
  let t := w.trap
  match r with
  | .mode => { w with mode := a &&& modeMask }
  | .flags => { w with flags := a.setWidth 5 }
  | .utvec => { w with trap := { t with utvec := entryOf a } }
  | .tpc =>
    if t.level = 0 then w
    else if t.level = 1 then { w with trap := { t with tpc1 := a } }
    else { w with trap := { t with tpc2 := a } }
  | .utpc => { w with trap := { t with tpc1 := a } }
  | _ => w

/-- SWR (R287). -/
def execSwr (g : Guard) (r : Spec) (a : Operand) (s : State) : Host.Outcome State Fault Refusal :=
  s.once g 0 (r.isPriv || Operand.priv a) fun x => .done (x.put (x.w.writeSpecial r (x.uni .b64 a)))

end Sys2Proof.Machine
end

