-- ==== Sys2Proof/Machine/Width.lean ====
section
/-! DEFINITION. Warps that retire (R100, R125, R291) and width changes: SPLIT, FUSE and the rendezvous (R116 to R120, R317 to
R320). -/

namespace Sys2Proof.Machine

/-! ### Lanes moved between warps -/

/-- The registers of lanes `base` to `base + n - 1`, renumbered from 0. -/
def sliceRegs (v : KMap Word) (base n : Nat) : KMap Word :=
  v.filterMap fun e =>
    let l := e.1 % 128
    if base ≤ l && l < base + n then some (e.1 - base, e.2) else none

def shiftRegs (v : KMap Word) (base : Nat) : KMap Word := v.map fun e => (e.1 + base, e.2)

def sliceMask (m : Mask) (base n : Nat) : Mask := (m >>> base) &&& fullMask n

def joinMaps {β : Type} (a b : KMap β) : KMap β := b.foldl (fun m e => KMap.put m e.1 e.2) a

def slicePreds (p : KMap Mask) (base n : Nat) : KMap Mask :=
  p.filterMap fun e =>
    let m := sliceMask e.2 base n
    if m == 0 then none else some (e.1, m)

def joinPreds (a b : KMap Mask) (base : Nat) : KMap Mask :=
  b.foldl (fun (m : KMap Mask) (e : Nat × Mask) => KMap.set m (0 : Mask) e.1 (KMap.get m 0 e.1 ||| ((e.2 : Mask) <<< base))) a

/-- A warp of lanes `base` to `base + n - 1` with one path at `pc` (R117); the lowest one keeps the handles that are DONE, merged (log
entry 93). -/
def Warp.child (w : Warp) (id : WarpId) (base n : Nat) (pc : Word) (from' : Shadow) (i : Nat) : Warp :=
  let m := ((w.path? i).map (·.mask)).getD 0
  { w with
    id := id
    width := n
    exited := sliceMask w.exited base n
    paths := [some (Path.start pc (sliceMask m base n) none), none, none, none]
    stack := List.replicate 32 none
    nseq := 0
    set := from'.set
    task := from'.task
    shadow := []
    vr := ⟨sliceRegs w.vr.v base n, slicePreds w.vr.p base n⟩
    handles := if base = 0 then w.handles else List.replicate 16 Handle.idle
    cnt := ⟨0, 0, 0, 0⟩
    trap := { w.trap with
      taddr := w.trap.taddr.filterMap fun e => if base ≤ e.1 && e.1 < base + n then some (e.1 - base, e.2) else none
      tmask := sliceMask w.trap.tmask base n }
    work := { w.work with
      landing := if base = 0 then w.work.landing.map fun e => { e with seen := BitVec.allOnes 128 } else []
      mopf := sliceRegs w.work.mopf base n
      mzPending := w.work.mzPending.filterMap fun e =>
        if base ≤ e.2.2.1 && e.2.2.1 < base + n then some (e.1, e.2.1, e.2.2.1 - base, e.2.2.2) else none } }

/-! ### What forbids a change -/

/-- A pending handle or a nonzero class counter (R116, FZ_PENDING). -/
def Warp.pending (w : Warp) : Bool :=
  w.handles.any (fun h => h.st == .pending) || w.cnt.ld != 0 || w.cnt.st != 0 || w.cnt.cp != 0 || w.cnt.tl != 0

/-- More than one live path, a nonempty stack, or a path that omits a lane that has not exited (R116, FZ_DIVERGED). -/
def Warp.diverged (w : Warp) : Bool :=
  match w.livePaths with
  | [(_, p)] => w.stack.any Option.isSome || (fullMask w.width &&& ~~~w.exited) &&& ~~~p.mask != 0
  | _ => true

/-- The warp is in a boosted task. -/
def Warp.boosted (w : Warp) : Bool := w.task.live

/-! ### The rendezvous (R118) -/

/-- What stands at one place of a partner group: the warp, or why there is none. -/
inductive Partner where
  | ok (wid : Nat)
  | empty
  | other                          -- another workgroup's
  | misfit                         -- the workgroup's, of another width
deriving DecidableEq, Repr

def Warp.sameWg (a b : Warp) : Bool := a.id.gang == b.id.gang && a.id.wg == b.id.wg

/-- Groups of eight lanes of a core, four to a slot: the first of a warp is its number, and how many it holds. -/
def Warp.units (w : Warp) : Nat := w.width / 8

/-- The partner whose first group of lanes is number `u`: it must be a warp of this width that starts there, and no other warp of the
workgroup may stand in its place. -/
def State.partnerAt (s : State) (w : Warp) (u : Nat) : Partner :=
  let ws := s.work.warps.filter fun e =>
    e.2.id.core == w.id.core && e.2.number < u + w.units && u < e.2.number + e.2.units
  let mine := ws.filter fun e => e.2.sameWg w
  if mine.any fun e => e.2.width != w.width || e.2.number != u then .misfit
  else
    match mine with
    | e :: _ => .ok e.1
    | [] => if ws.isEmpty then .empty else .other

/-- The partner group of a warp for factor `f`, in order (R118); none where the width forbids (FZ_WIDTH) or would exceed 32
(FZ_ALIGN). -/
def State.partners (s : State) (w : Warp) (f : Nat) : Except Nat (List Partner) :=
  if f != 2 && f != 4 then .error 5
  else if w.width < 32 then
    if 32 < w.width * f then .error 6
    else
      let k := w.width / 8
      let base := w.id.first / (k * f) * (k * f)
      .ok ((upTo f).map fun j => s.partnerAt w (4 * w.id.slot + base + j * k))
  else if w.width = 32 then
    let base := w.id.slot / f * f
    .ok ((upTo f).map fun j => s.partnerAt w (4 * (base + j)))
  else if w.width = 64 && f == 2 then
    let base := w.id.slot / 4 * 4
    .ok ((upTo 2).map fun j => s.partnerAt w (4 * (base + 2 * j)))
  else .error 5

/-- The check at issue: 0, or the code that applies (R118). -/
def State.fuseCheck (s : State) (w : Warp) (f : Nat) : Nat :=
  match s.partners w f with
  | .error c => c
  | .ok ps =>
    if ps.any fun p => p == .misfit then 6
    else if w.boosted || ps.any fun p =>
      match p with
      | .ok i => ((s.warp? i).map (·.boosted)).getD false
      | _ => true then 2
    else 0

/-- Partner warps, when every place holds one. -/
def State.partnerIds (s : State) (w : Warp) (f : Nat) : List Nat :=
  match s.partners w f with
  | .error _ => []
  | .ok ps => ps.filterMap fun p => match p with | .ok i => some i | _ => none

/-- Paths of a warp that wait with factor `f` and tag `t`. -/
def Warp.waiting (w : Warp) (f t : Nat) : List (Nat × Path) :=
  w.livePaths.filter fun e =>
    match e.2.rz with
    | some r => r.factor == f && r.tag == t
    | none => false

/-- A waiting path takes its code and goes on after its FUSE (R118). -/
def Warp.fuseCode (w : Warp) (code : Nat) (e : Nat × Path) : Warp :=
  match e.2.rz with
  | none => w
  | some r =>
    (w.setS r.d (wordOf code)).modPath e.1 fun p => { p with pc := p.pc + 8, rz := none, sec := false }

/-- Every waiting path of these warps takes the code. -/
def State.fuseAll (s : State) (ids : List Nat) (f t code : Nat) : State :=
  ids.foldl (fun s i => s.modWarp i fun w => (w.waiting f t).foldl (fun w e => w.fuseCode code e) w) s

/-- Every DONE unmerged handle merges its flags and becomes IDLE (R117, R119); the enabled ones as (handle, flags). -/
def Warp.mergeAll (w : Warp) : Warp :=
  (upTo 16).foldl (fun w f =>
    let h := w.handle f
    if h.st == .done && !h.merged then (w.merge f (BitVec.allOnes 128)).setHandle f Handle.idle else w) w

def Warp.mergeAllTraps (w : Warp) (en : Nat) : List (Nat × Nat) :=
  (upTo 16).filterMap fun f =>
    let h := w.handle f
    let fl := if h.st == .done && !h.merged then h.flags.toNat &&& en else 0
    if fl = 0 then none else some (f, fl)

/-- The class 3 after a width change (R117, R119): HND the lowest handle. -/
def widthTrap (m : Mask) (hits : List (Nat × Nat)) : Option Trap :=
  match hits with
  | [] => none
  | h :: hs =>
    let low := hs.foldl (fun m e => min m e.1) h.1
    some { Trap.all 3 (allFlags (h :: hs)) m 0 with hnd := some low }

/-- A warp that a width change made takes the trap at its next instruction. -/
def State.trapNew (s : State) (wid : Nat) (hits : List (Nat × Nat)) : State :=
  match s.warp? wid with
  | none => s
  | some w =>
    match w.path? 0, widthTrap (w.active 0) hits with
    | some p, some t => s.takeTrap wid 0 0 0 p.pc false t
    | _, _ => s

/-- Two warps' work joined: what is left of the memory operations keeps its order, and the fused warp follows all of it (R184). -/
def joinWork (a b : WarpWork) (base : Nat) : WarpWork :=
  let all (o : MemOp) : MemOp := { o with reach := BitVec.allOnes 128 }
  let up (o : MemOp) : MemOp := { all o with id := o.id + a.nextOp, after := o.after.map (· + a.nextOp) }
  { a with
    ops := a.ops.map all ++ b.ops.map up
    nextOp := a.nextOp + b.nextOp
    xfence := max a.xfence (b.xfence + a.nextOp)
    mopf := joinMaps a.mopf (shiftRegs b.mopf base)
    mzPending := a.mzPending ++ b.mzPending.map fun e => (e.1, e.2.1, e.2.2.1 + base, e.2.2.2)
    mzTiles := a.mzTiles ++ b.mzTiles
    known := (a.known ++ b.known).dedup
    heard := (a.heard ++ b.heard).dedup
    told := (a.told ++ b.told).dedup
    landing := a.landing ++ b.landing.map fun e => { e with seen := e.seen <<< base }
    past := (a.past.filter fun e => a.shown ≤ e.op) ++ ((b.past.filter fun e => b.shown ≤ e.op).map fun e => { e with op := e.op + a.nextOp })
    shown := 0 }

/-- The partners form one warp (R119): `a` so far, with `b`'s lanes from `base` on; `%utvec`, the trap registers and NSEQ stay `a`'s, of
which R119 says nothing (log entry 28). -/
def Warp.absorb (a b : Warp) (base : Nat) (park : Bool) : Warp :=
  { a with
    exited := a.exited ||| (b.exited <<< base)
    shadow := if park then a.shadow ++ [⟨b.set, b.task⟩] ++ b.shadow else []
    vr := ⟨joinMaps a.vr.v (shiftRegs b.vr.v base), joinPreds a.vr.p b.vr.p base⟩
    flags := a.flags ||| b.flags
    work := joinWork a.work b.work base }

/-- Lanes of a warp's one path, moved up. -/
def State.headMask (s : State) (i base : Nat) : Mask :=
  match s.warp? i with
  | none => 0
  | some w =>
    match w.livePaths with
    | [] => 0
    | e :: _ => e.2.mask <<< base

/-- A successful FUSE (R119). -/
def State.fuseForm (s : State) (ids : List Nat) (f t : Nat) : State :=
  match ids with
  | [] => s
  | lead :: rest =>
    let en := ((s.warp? lead).map (·.enables)).getD 0
    let hits := ids.flatMap fun i => ((s.warp? i).map fun w => w.mergeAllTraps en).getD []
    let s := s.fuseAll ids f t 0
    let s := ids.foldl (fun s i => s.modWarp i Warp.mergeAll) s
    match s.warp? lead with
    | none => s
    | some w0 =>
      let n := w0.width
      let park := 32 ≤ n
      let masks : List Mask := ids.zipIdx.map fun (i, k) => s.headMask i (k * n)
      let mask := masks.foldl (fun a b => a ||| b) 0
      let pc := ((w0.livePaths.head?).map (·.2.pc)).getD 0
      let w := rest.zipIdx.foldl (fun a (i, k) =>
        match s.warp? i with
        | none => a
        | some b => a.absorb b ((k + 1) * n) park) { w0 with shadow := if park then w0.shadow else [] }
      let w := { w with
        width := n * f
        paths := [some (Path.start pc mask none), none, none, none]
        cnt := ⟨0, 0, 0, 0⟩ }
      let s := rest.foldl (fun s i => s.dropWarp i) s
      (s.setWarp lead w).trapNew lead hits

/-- A rendezvous is looked at again: when every partner has arrived, the group's checks decide; when a partner has left, the
waiting ones receive FZ_ALLOC (R118, R120). -/
def State.fuseSettle (s : State) (wid f t : Nat) : State :=
  match s.warp? wid with
  | none => s
  | some w =>
    match s.partners w f with
    | .error _ => s
    | .ok ps =>
      let ids := s.partnerIds w f
      let arrived := ids.filter fun i => ((s.warp? i).map fun x => !(x.waiting f t).isEmpty).getD false
      if ps.any fun p => p == .empty || p == .other then s.fuseAll arrived f t 2
      else if arrived.length < ps.length then s
      else
        let ws := ids.filterMap s.warp?
        let code :=
          if ws.any Warp.boosted then 2
          else if ws.any Warp.diverged then 3
          else if ws.any Warp.pending then 4
          else 0
        if code = 0 then s.fuseForm ids f t else s.fuseAll ids f t code

/-- Every rendezvous of a workgroup after one of its warps has gone. -/
def State.fuseRecheck (s : State) (gang wg : Nat) : State :=
  let es := (s.work.warps.filter fun e => e.2.id.gang == gang && e.2.id.wg == wg).flatMap fun e =>
    e.2.livePaths.filterMap fun p => p.2.rz.map fun r => (e.1, r.factor, r.tag)
  es.foldl (fun s e => s.fuseSettle e.1 e.2.1 e.2.2) s

/-! ### Retiring -/

/-- Nothing of the warp is outstanding (R291). -/
def Warp.idle (w : Warp) : Bool := w.work.ops.isEmpty && !w.pending

/-- A warp whose lanes have all exited retires once its operations have completed (R125, R291). Its gang, when it was the last,
is then ready to retire (R100). -/
def State.settleWarp (s : State) (wid : Nat) : State :=
  match s.warp? wid with
  | none => s
  | some w =>
    if w.allExited && w.idle then
      let s := s.retireWarp wid
      s.fuseRecheck w.id.gang w.id.wg
    else s

/-! ### SPLIT (R117, R317, R318) -/

/-- The code that SPLIT returns: FZ_WIDTH, FZ_ALLOC, FZ_DIVERGED, FZ_PENDING, in this order. -/
def Warp.splitCode (w : Warp) (f : Nat) : Nat :=
  let okWidth := (f == 2 || f == 4) &&
    (if w.width ≤ 32 then 8 ≤ w.width / f else w.width / 32 == f)
  if !okWidth then 5 else if w.boosted then 2 else if w.diverged then 3 else if w.pending then 4 else 0

/-- The warps that a successful SPLIT leaves, in order: identity, first lane, scalar set and boosted-task entry. -/
def Warp.splitParts (w : Warp) (f : Nat) : List (WarpId × Nat × Shadow) :=
  let n := w.width / f
  let own : Shadow := ⟨w.set, w.task⟩
  if w.width ≤ 32 then (upTo f).map fun j => ({ w.id with first := w.id.first + j * n / 8 }, j * n, own)
  else (upTo f).map fun j => ({ w.id with slot := w.id.slot + j, first := 0 }, j * n, ((own :: w.shadow)[j]?).getD own)

/-- SPLIT: illegal in a handler, then inside an inverse (R179, R317). Barrier events on no counter are applied first. -/
def execSplit (g : Guard) (d : Nat) (factor : Nat) (s : State) : Host.Outcome State Fault Refusal :=
  s.once g 0 false fun x =>
    if x.w.trap.level ≠ 0 then x.fault 2 4
    else if x.w.task.st == .replay then x.fault 2 3
    else if x.w.splitCode factor = 0 && !x.w.work.ops.isEmpty then x.wait
    else
      let code := x.w.splitCode factor
      if code ≠ 0 then .done (x.put (x.w.setS d (wordOf code)))
      else
        let hits := x.w.mergeAllTraps x.w.enables
        let w := x.w.mergeAll
        let pc := x.p.pc + 8
        let n := w.width / factor
        let kids := (w.splitParts factor).map fun e => (w.child e.1 e.2.1 n pc e.2.2 x.c.path).setS d 0
        let ids := x.c.warp :: (upTo (factor - 1)).map fun j => x.s.work.nextWarp + j
        let s := x.s.modWork fun k => { k with nextWarp := k.nextWarp + factor - 1 }
        let s := (ids.zip kids).foldl (fun s e => s.setWarp e.1 e.2) s
        let s := ids.foldl (fun s i => (s.trapNew i hits).settleWarp i) s
        .moved s

/-! ### FUSE (R118, R319, R320) -/

/-- The limit: an unsigned 64-bit value capped at 2^32 − 1. -/
def fuseLimit (w : Word) : Nat := min w.toNat (2 ^ 32 - 1)

/-- Arrived partners whose deadline has passed receive FZ_TIMEOUT. -/
def State.fuseExpire (s : State) (ids : List Nat) (f t now : Nat) : State :=
  let late := ids.any fun i =>
    ((s.warp? i).map fun w => (w.waiting f t).any fun e => (e.2.rz.map fun r => decide (r.deadline < now)).getD false).getD false
  if late then s.fuseAll ids f t 1 else s

/-- The limit and deadline that stand at a rendezvous: the first arrival's (R118, R320). -/
def State.fuseStands (s : State) (ids : List Nat) (f t : Nat) : Option (Nat × Nat) :=
  (ids.flatMap fun i => ((s.warp? i).map fun w =>
    (w.waiting f t).filterMap fun e => e.2.rz.map fun r => (r.limit, r.deadline)).getD []).head?

/-- FUSE. -/
def execFuse (g : Guard) (d : Nat) (factor tag : Nat) (lim : Operand) (s : State) : Host.Outcome State Fault Refusal :=
  s.once g 0 (Operand.priv lim) fun x =>
    if x.w.trap.level ≠ 0 then x.fault 2 4
    else if x.w.task.st == .replay then x.fault 2 3
    else if x.p.rz.isSome then x.wait
    else
      let code := x.s.fuseCheck x.w factor
      if code ≠ 0 then .done (x.put (x.w.setS d (wordOf code)))
      else
        let limit := fuseLimit (x.index 0 lim)
        let now := x.s.cyc x.w.id.core
        let ids := x.s.partnerIds x.w factor
        let s := x.s.fuseExpire ids factor tag now
        let (limit, deadline) := (s.fuseStands ids factor tag).getD (limit, now + limit)
        let s := s.modWarp x.c.warp fun w => w.modPath x.c.path fun p => { p with rz := some ⟨factor, tag, d, limit, deadline⟩ }
        .moved (s.fuseSettle x.c.warp factor tag)

/-- FUSE_TIMEOUT: the deadline of a rendezvous that a warp on its core waits at has passed (R118, R120). -/
def execFuseTimeout (warp : Nat) (s : State) : Host.Outcome State Fault Refusal :=
  match s.warp? warp with
  | none => .next s
  | some w =>
    if !s.gangOnCore w.id.gang then .next s else
    let late := w.livePaths.filterMap fun e => e.2.rz.bind fun r => if r.deadline ≤ s.cyc w.id.core then some r else none
    match late with
    | [] => .next s
    | r :: _ => .next (s.fuseAll (s.partnerIds w r.factor) r.factor r.tag 1)

end Sys2Proof.Machine
end

