-- ==== Sys2Proof/Machine/Control.lean ====
section
/-! DEFINITION. Branches and regions (R288, R289), calls and EXIT (R290, R291), WAIT, TSTF and CANF (R292 to R295), YIELD (R296),
RGET (R297) and LAUNCH (R298). -/

namespace Sys2Proof.Machine

/-! ### Branches -/

/-- T or J: 8 times a signed displacement from the branch (R288). -/
def branchTo (a : Word) (disp : BitVec 18) : Word := a + 8 * disp.signExtend 64

/-- Taken lanes: active lanes in which pBP ^ BS holds (R288). -/
def Ictx.taken (x : Ictx) (bp : Nat) (bs : Bool) : Mask := x.act &&& (if bs then ~~~(x.w.pred bp) else x.w.pred bp)

/-- A path moves to an address; its regions stay (R288). -/
def Warp.jump (w : Warp) (i : Nat) (t : Word) : Warp :=
  w.modPath i fun p => p.goTo t false

/-- BRA (R288). -/
def execBra (g : Guard) (td : BitVec 18) (s : State) : Host.Outcome State Fault Refusal :=
  s.once g 0 false fun x => .moved (x.put (x.w.jump x.c.path (branchTo x.p.pc td)))

/-- BRU (R288). -/
def execBru (g : Guard) (bp : Nat) (bs : Bool) (td : BitVec 18) (s : State) : Host.Outcome State Fault Refusal :=
  s.once g 0 false fun x =>
    if x.taken bp bs == x.act then .moved (x.put (x.w.jump x.c.path (branchTo x.p.pc td))) else .done x.s

/-- BRC (R122, R288). -/
def execBrc (g : Guard) (bp : Nat) (bs : Bool) (td jd : BitVec 18) (s : State) : Host.Outcome State Fault Refusal :=
  s.once g 0 false fun x =>
    match x.w.brc x.c.path (x.taken bp bs) (branchTo x.p.pc td) (branchTo x.p.pc jd) (x.p.pc + 8) with
    | none => x.fault 20 0
    | some w => .moved (x.put w)

/-- BRX (R124, R288). -/
def execBrx (g : Guard) (k : Nat) (td : BitVec 18) (s : State) : Host.Outcome State Fault Refusal :=
  s.once g 0 false fun x =>
    match x.w.brx x.c.path k (branchTo x.p.pc td) with
    | none => x.fault 2 2
    | some w => .moved (x.put w)

/-- JOIN (R123, R288). -/
def execJoin (g : Guard) (s : State) : Host.Outcome State Fault Refusal :=
  s.once g 0 false fun x => .moved (x.put (x.w.joinAt x.c.path x.p.pc))

/-! ### Calls and EXIT -/

/-- CALL (R290). -/
def execCall (g : Guard) (d : Nat) (td : BitVec 18) (s : State) : Host.Outcome State Fault Refusal :=
  s.once g 0 false fun x => .moved (x.put ((x.w.setS d (x.p.pc + 8)).jump x.c.path (branchTo x.p.pc td)))

/-- CALLI: the source is read first; a misaligned target is a fetch fault (R290). -/
def execCalli (g : Guard) (d : Nat) (a : Operand) (s : State) : Host.Outcome State Fault Refusal :=
  s.once g 0 (Operand.priv a) fun x =>
    let t := x.uni .b64 a
    if fld t 0 3 ≠ 0 then x.faultAt 16 5 t
    else .moved (x.put ((x.w.setS d (x.p.pc + 8)).jump x.c.path t))

/-- RET (R290). -/
def execRet (g : Guard) (a : Operand) (s : State) : Host.Outcome State Fault Refusal :=
  s.once g 0 (Operand.priv a) fun x =>
    let t := x.uni .b64 a
    if fld t 0 3 ≠ 0 then x.faultAt 16 5 t else .moved (x.put (x.w.jump x.c.path t))

/-- The lanes of path `i` exit: at level 1 or 2 the interrupted levels are discarded (R125, R291). -/
def Warp.exitLanes (w : Warp) (i : Nat) : Warp :=
  let w := w.exitPath i
  if w.trap.level = 0 then w
  else
    let w := if w.trap.level = 2 then w.swapBank else w
    { w with trap := { w.trap with level := 0, own1 := 0, own2 := 0 } }

/-- EXIT (R125, R291). -/
def execExit (g : Guard) (s : State) : Host.Outcome State Fault Refusal :=
  s.once g 0 false fun x =>
    if x.w.boosted then x.fault 2 3
    else .moved ((x.put (x.w.exitLanes x.c.path)).settleWarp x.c.warp)

/-! ### WAIT -/

/-- Every class counter is at or below its limit (R271, R292). -/
def Counters.within (c : Counters) (ld st cp tl : Nat) : Bool := c.ld ≤ ld && c.st ≤ st && c.cp ≤ cp && c.tl ≤ tl

/-- A handle whose operation counts on the copies counter or on the tiles counter (R131, R292). -/
def Handle.onCopies (h : Handle) : Bool := h.op == 0 || h.op == 3
def Handle.onTiles (h : Handle) : Bool := h.op == 1 || h.op == 2

/-- Handles that a `WAIT` covers (R292). -/
def Warp.covers (w : Warp) (cp tl : Nat) : List Nat :=
  (upTo 16).filter fun f =>
    let h := w.handle f
    h.st == .done && ((cp < 31 && h.onCopies) || (tl < 15 && h.onTiles))

/-- The results of completed `MZMV`s out, in their registers from a covering `WAIT` on (R197, R352). -/
def Warp.coverMoves (w : Warp) (open' : List Nat) : Warp :=
  let w := w.work.mzPending.foldl (fun w e => w.setV e.2.1 e.2.2.1 e.2.2.2) w
  { w with work := { w.work.cover fun e => e.2.1 == 16 && !open'.contains e.1 with mzPending := [] } }

/-- Array operations of a warp that have not completed. -/
def State.openMats (s : State) (wid : Nat) : List Nat :=
  s.work.arrays.flatMap fun a => (a.2.filter fun o => o.warp == wid).map (·.id)

/-- WAIT (R292). -/
def execWait (g : Guard) (ld st cp tl : Nat) (s : State) : Host.Outcome State Fault Refusal :=
  s.once g 0 false fun x =>
    if !x.w.cnt.within ld st cp tl then x.wait
    else
      let fs := x.w.covers cp tl
      let w := fs.foldl (fun w f => w.merge f x.act) x.w
      let w := if tl < 15 then w.coverMoves (x.s.openMats x.c.warp) else w
      Res.thenTrap (x.put w) (x.mergeTrap fs)

/-! ### Handles -/

def HState.num : HState → Nat
  | .idle => 0
  | .pending => 1
  | .done => 2

/-- What `TSTF` returns (R293, R294). -/
def Handle.image (h : Handle) : Word :=
  match h.st with
  | .idle => 0
  | st => wordOf (place st.num 62 + place (if st == .done then h.flags.toNat else 0) 56 +
      place (if st == .done then h.status else 0) 48 + place h.op 44 + (if h.op = 0 then h.fill else 0))

/-- INFO (R293): of a PENDING `NPOST` the bytes completed so far (R379). -/
def Handle.infoWord (h : Handle) : Word := if h.st == .done || (h.st == .pending && h.op == 5) then h.info else 0

/-- TSTF (R293): an acquire of the bytes of a copy below its fill pointer (R146). -/
def execTstf (g : Guard) (d : Nat) (f : Nat) (s : State) : Host.Outcome State Fault Refusal :=
  s.once g 0 false fun x =>
    let h := x.w.handle f
    let w := { x.w with work := x.w.work.see f h.fill x.act }
    Res.thenTrap (x.put (((w.merge f x.act).setS d h.image).setS (d + 1) h.infoWord)) (x.mergeTrap [f])

/-- The copy of a handle that its channel has not started. -/
def State.idleCopy (s : State) (wid f : Nat) : Option Nat :=
  (List.find? (fun (c : Nat × Copy) => c.2.warp == wid && c.2.f == f && !c.2.started) s.work.copies).map (·.1)

/-- The post of a handle whose first packet has not left. -/
def State.idlePost (s : State) (wid f : Nat) : Option Nat :=
  (List.find? (fun (p : Nat × Post) => p.2.warp == wid && p.2.f == f && !p.2.sent) s.work.posts).map (·.1)

/-- CANF (R295). -/
def execCanf (g : Guard) (d : Nat) (f : Nat) (s : State) : Host.Outcome State Fault Refusal :=
  s.once g 0 false fun x =>
    let h := x.w.handle f
    let cancelled := (x.w.completeHandle f 1 0 0).setS d 0
    if h.st != .pending then .done (x.put (x.w.setS d 2))
    else
      match h.op, x.s.idleCopy x.c.warp f, x.s.idlePost x.c.warp f with
      | 0, some c, _ =>
        .done ((x.put { cancelled with cnt := { cancelled.cnt with cp := cancelled.cnt.cp - 1 } }).modWork fun k =>
          { k with copies := KMap.erase k.copies c })
      | 5, _, some p => .done ((x.put cancelled).modWork fun k => { k with posts := KMap.erase k.posts p })
      | _, _, _ => .done (x.put (x.w.setS d 1))

/-! ### YIELD -/

/-- The declared live set, clipped (R296). -/
def Ictx.liveSet (x : Ictx) (n zfirst zcount start len : Nat) : LiveSet :=
  let room := x.g.vlt * 4096
  let lo := min (start / 16 * 16) room
  let hi := min ((start + len + 15) / 16 * 16) room
  ⟨min n x.g.nv, zfirst, min zcount (x.g.zt - zfirst), lo, if len = 0 then 0 else hi - lo⟩

/-- YIELD: no effect outside a grace window, in boosted mode and in handlers; else it waits for every handle and the warp
stops here (R109, R296). -/
def execYield (g : Guard) (n zfirst zcount : Nat) (start len : Operand) (s : State) : Host.Outcome State Fault Refusal :=
  s.once g 0 (privOf [start, len]) fun x =>
    if !((x.s.slot x.v).sched.grace && x.g.yg) || x.w.boosted || x.w.trap.level ≠ 0 then .done x.s
    else if x.w.handles.any fun h => h.st == .pending then x.wait
    else
      let y := x.liveSet n zfirst zcount (x.index 0 start).toNat (x.index 0 len).toNat
      .done (x.put { x.w with work := { x.w.work with yielded := some y } })

/-! ### RGET -/

/-- One request to a range (R111): start, count, and the range after it. -/
def RangeReg.take (r : RangeReg) : Nat × Nat × RangeReg :=
  if r.remain = 0 then (r.next, 0, r)
  else
    let n : Nat := Nat.min (Nat.max r.min ((r.remain + r.k - 1) / r.k)) r.remain
    (r.next, n, { r with next := r.next + n, remain := r.remain - n })

/-- RGET (R297). -/
def execRget (g : Guard) (d : Nat) (b : Operand) (s : State) : Host.Outcome State Fault Refusal :=
  s.once g 0 (Operand.priv b) fun x =>
    let i := x.index 0 b
    if 15 < i.toNat then x.fault 19 0x02
    else
      let r := KMap.get (x.s.slot x.v).sched.ranges ⟨0, 0, 0, 0⟩ i.toNat
      let (start, n, r) := r.take
      let s := x.put ((x.w.setS d (wordOf start)).setS (d + 1) (wordOf n))
      .done (s.modSched x.v fun c => { c with ranges := KMap.set c.ranges ⟨0, 0, 0, 0⟩ i.toNat r })

/-! ### LAUNCH -/

/-- The code that LAUNCH writes: 2, then 3, then 1 (R298). -/
def launchCode (queue addr : Word) (held : Nat) : Nat :=
  if 63 < queue.toNat then 2 else if fld addr 0 8 ≠ 0 then 3 else if 256 ≤ held then 1 else 0

/-- LAUNCH: a release at `.vchip` over what the path did before (R196, R298). -/
def execLaunch (g : Guard) (d : Nat) (a b : Operand) (s : State) : Host.Outcome State Fault Refusal :=
  s.once g 0 (privOf [a, b]) fun x =>
    let addr := x.index 0 a
    let queue := x.index 0 b
    let code := launchCode queue addr (x.s.slot x.v).win.port.length
    let s := x.put (x.w.setS d (wordOf code))
    if code ≠ 0 then .done s
    else .done (s.modSlot x.v fun y =>
      { y with win := { y.win with
          port := y.win.port ++ [⟨addr, queue.toNat, some (x.c.warp, x.before)⟩] } })

end Sys2Proof.Machine
end

