-- ==== Sys2Proof/Machine/Vector.lean ====
section
/-! DEFINITION. Vector instructions (R299 to R310). -/

namespace Sys2Proof.Machine

/-! ### The shared shape (R299, R303) -/

/-- A sub-element read as the INT type reads it (R303). -/
def intElem (t : Ty) (w : Word) (i : Nat) : Int :=
  if t.signed then sext t.width (subOf w t.width i) else subOf w t.width i

/-- Sub-elements computed one by one, with the OR of their flags. -/
def elems (t : Ty) (f : Nat → FRes) : Word × Nat :=
  let rs := (upTo t.count).map f
  (packSubs t.width (rs.map (·.bits)), rs.foldl (fun m r => m ||| r.fl) 0)

/-- Write vD in each lane that takes part; the flags of all lanes join `%flags` (R299). -/
def Ictx.vecWrite (x : Ictx) (m : Mask) (d : Nat) (f : Nat → Word × Nat) : Res :=
  let rs := (Mask.lanes m).map fun l => (l, f l)
  x.numeric (rs.map fun r => (r.1, r.2.2)) fun w => .done (x.put
    (w.setLanes d (rs.map fun r => (r.1, r.2.1))))

/-- A vector instruction of sources `os` that writes vD lane by lane. -/
def vecOp (s : State) (g : Guard) (d : Nat) (os : List Operand) (f : Ictx → Nat → Word × Nat) :
    Host.Outcome State Fault Refusal :=
  s.perLane g (max (d + 1) (topOf os)) (privOf os) fun x m => x.vecWrite m d (f x)

/-- The same, sub-element by sub-element: `f` receives the frame, the sources' words in the lane, and the index. -/
def vecElems (s : State) (g : Guard) (t : Ty) (d : Nat) (os : List Operand) (f : Ictx → List Word → Nat → FRes) :
    Host.Outcome State Fault Refusal :=
  vecOp s g d os fun x l =>
    let ws := os.map (x.src t l)
    elems t (f x ws)

def arg (ws : List Word) (i : Nat) : Word := ws.getD i 0

/-- An INT result: clamped under S, else wrapped (R227, R303). -/
def intResult (t : Ty) (sat : Bool) (r : Int) : FRes :=
  if sat then ⟨toBits t.width (max (intMin t.signed t.width) (min (intMax t.signed t.width) r)), 0⟩
  else ⟨toBits t.width r, 0⟩

/-- A two-source arithmetic instruction: integers exactly, floats with one rounding (R303). -/
def vecArith (s : State) (g : Guard) (t : Ty) (sat : Bool) (d : Nat) (a b : Operand) (fi : Int → Int → Int)
    (ff : Fmt → Nat → Nat → Nat → FRes) : Host.Outcome State Fault Refusal :=
  vecElems s g t d [a, b] fun x ws i =>
    if t.isFlt then ff (fmtOf t) x.w.rm (subOf (arg ws 0) t.width i) (subOf (arg ws 1) t.width i)
    else intResult t sat (fi (intElem t (arg ws 0) i) (intElem t (arg ws 1) i))

/-! ### Arithmetic (R303, R304) -/

/-- VADD. -/
def execVadd (g : Guard) (t : Ty) (sat : Bool) (d : Nat) (a b : Operand) (s : State) : Host.Outcome State Fault Refusal :=
  vecArith s g t sat d a b (fun a b => a + b) Fmt.add

/-- VSUB. -/
def execVsub (g : Guard) (t : Ty) (sat : Bool) (d : Nat) (a b : Operand) (s : State) : Host.Outcome State Fault Refusal :=
  vecArith s g t sat d a b (fun a b => a - b) Fmt.sub

/-- VMUL. -/
def execVmul (g : Guard) (t : Ty) (sat : Bool) (d : Nat) (a b : Operand) (s : State) : Host.Outcome State Fault Refusal :=
  vecArith s g t sat d a b (fun a b => a * b) Fmt.mul

/-- VFMA: one rounding; INT wraps. -/
def execVfma (g : Guard) (t : Ty) (d : Nat) (a b c : Operand) (s : State) : Host.Outcome State Fault Refusal :=
  vecElems s g t d [a, b, c] fun x ws i =>
    if t.isFlt then
      (fmtOf t).fma x.w.rm (subOf (arg ws 0) t.width i) (subOf (arg ws 1) t.width i) (subOf (arg ws 2) t.width i)
    else intResult t false (intElem t (arg ws 0) i * intElem t (arg ws 1) i + intElem t (arg ws 2) i)

/-- FLT minimum or maximum: −0 below +0; a number goes before a NaN (R304). -/
def Fmt.pick (f : Fmt) (greater : Bool) (a b : Nat) : FRes :=
  let fl := if f.isSnan a || f.isSnan b then flNV else 0
  match f.isNan a, f.isNan b with
  | true, true => f.withNan [a, b] f.invalid
  | true, false => ⟨b, fl⟩
  | false, true => ⟨a, fl⟩
  | false, false =>
    let less := FV.lt (f.dec a) (f.dec b) || (FV.eq (f.dec a) (f.dec b) && f.neg a && !f.neg b)
    ⟨if less != greater then a else b, 0⟩

/-- VMIN. -/
def execVmin (g : Guard) (t : Ty) (d : Nat) (a b : Operand) (s : State) : Host.Outcome State Fault Refusal :=
  vecArith s g t false d a b (fun a b => min a b) fun f _ a b => f.pick false a b

/-- VMAX. -/
def execVmax (g : Guard) (t : Ty) (d : Nat) (a b : Operand) (s : State) : Host.Outcome State Fault Refusal :=
  vecArith s g t false d a b (fun a b => max a b) fun f _ a b => f.pick true a b

/-- VABS: FLT clears the sign bit and raises no flag (R304). -/
def execVabs (g : Guard) (t : Ty) (sat : Bool) (d : Nat) (a : Operand) (s : State) : Host.Outcome State Fault Refusal :=
  vecElems s g t d [a] fun _ ws i =>
    if t.isFlt then ⟨subOf (arg ws 0) t.width i % (fmtOf t).signBit, 0⟩
    else intResult t sat (intElem t (arg ws 0) i).natAbs

/-- VNEG: FLT flips the sign bit and raises no flag (R304). -/
def execVneg (g : Guard) (t : Ty) (sat : Bool) (d : Nat) (a : Operand) (s : State) : Host.Outcome State Fault Refusal :=
  vecElems s g t d [a] fun _ ws i =>
    let f := fmtOf t
    let n := subOf (arg ws 0) t.width i
    if t.isFlt then ⟨f.signed (!f.neg n) (n % f.signBit), 0⟩ else intResult t sat (-(intElem t (arg ws 0) i))

/-- VMULH: the high half of the product. -/
def execVmulh (g : Guard) (t : Ty) (d : Nat) (a b : Operand) (s : State) : Host.Outcome State Fault Refusal :=
  vecElems s g t d [a, b] fun _ ws i =>
    intResult t false ((intElem t (arg ws 0) i * intElem t (arg ws 1) i) / 2 ^ t.width)

/-! ### Compare and select (R305, R306) -/

/-- cc on FLT operands, with NV for a signalling NaN (R305). -/
def condFlt (f : Fmt) (c : Cond) (a b : Nat) : Bool × Nat :=
  let fl := if f.isSnan a || f.isSnan b then flNV else 0
  let nan := f.isNan a || f.isNan b
  let x := f.dec a
  let y := f.dec b
  let r := match c with
    | .eq => !nan && FV.eq x y
    | .ne => nan || !FV.eq x y
    | .lt => !nan && FV.lt x y
    | .le => !nan && !FV.lt y x
    | .gt => !nan && FV.lt y x
    | .ge => !nan && !FV.lt x y
    | .un => nan
  (r, fl)

/-- The comparisons of a lane, with their flags. -/
def laneCond (t : Ty) (c : Cond) (a b : Word) : List (Bool × Nat) :=
  (upTo t.count).map fun i =>
    if t.isFlt then condFlt (fmtOf t) c (subOf a t.width i) (subOf b t.width i)
    else (condInt c (intElem t a i) (intElem t b i), 0)

/-- VCMP (R305). -/
def execVcmp (g : Guard) (t : Ty) (c : Cond) (any : Bool) (p : Nat) (a b : Operand) (s : State) :
    Host.Outcome State Fault Refusal :=
  s.perLane g (topOf [a, b]) (privOf [a, b]) fun x m =>
    let rs := (Mask.lanes m).map fun l => (l, laneCond t c (x.src t l a) (x.src t l b))
    let yes := maskOf ((rs.filter fun r => if any then r.2.any (·.1) else r.2.all (·.1)).map (·.1))
    x.numeric (rs.map fun r => (r.1, r.2.foldl (fun f e => f ||| e.2) 0)) fun w =>
      .done (x.put (w.setP p ((w.pred p &&& ~~~m) ||| yes)))

/-- VSEL (R306). -/
def execVsel (g : Guard) (t : Ty) (d : Nat) (a b : Operand) (p : Nat) (s : State) : Host.Outcome State Fault Refusal :=
  vecOp s g d [a, b] fun x l => (if (x.w.pred p).getLsbD l then x.src t l a else x.src t l b, 0)

/-! ### Logic, shifts and bit fields (R307) -/

/-- An instruction on whole words. -/
def vecWord (s : State) (g : Guard) (t : Ty) (d : Nat) (os : List Operand) (f : List Word → Word) :
    Host.Outcome State Fault Refusal :=
  vecOp s g d os fun x l => (f (os.map (x.src t l)), 0)

/-- VAND. -/
def execVand (g : Guard) (t : Ty) (d : Nat) (a b : Operand) (s : State) : Host.Outcome State Fault Refusal :=
  vecWord s g t d [a, b] fun ws => arg ws 0 &&& arg ws 1

/-- VOR. -/
def execVor (g : Guard) (t : Ty) (d : Nat) (a b : Operand) (s : State) : Host.Outcome State Fault Refusal :=
  vecWord s g t d [a, b] fun ws => arg ws 0 ||| arg ws 1

/-- VXOR. -/
def execVxor (g : Guard) (t : Ty) (d : Nat) (a b : Operand) (s : State) : Host.Outcome State Fault Refusal :=
  vecWord s g t d [a, b] fun ws => arg ws 0 ^^^ arg ws 1

/-- VNOT. -/
def execVnot (g : Guard) (t : Ty) (d : Nat) (a : Operand) (s : State) : Host.Outcome State Fault Refusal :=
  vecWord s g t d [a] fun ws => ~~~(arg ws 0)

/-- An instruction on the bit patterns of sub-elements. -/
def vecPat (s : State) (g : Guard) (t : Ty) (d : Nat) (os : List Operand) (f : List Nat → Nat) :
    Host.Outcome State Fault Refusal :=
  vecElems s g t d os fun _ ws i => ⟨f (ws.map fun w => subOf w t.width i) % 2 ^ t.width, 0⟩

/-- VSHL: the count is b modulo the width. -/
def execVshl (g : Guard) (t : Ty) (d : Nat) (a b : Operand) (s : State) : Host.Outcome State Fault Refusal :=
  vecPat s g t d [a, b] fun ns => ns.getD 0 0 * 2 ^ (ns.getD 1 0 % t.width)

/-- VSHR. -/
def execVshr (g : Guard) (t : Ty) (d : Nat) (a b : Operand) (s : State) : Host.Outcome State Fault Refusal :=
  vecPat s g t d [a, b] fun ns => ns.getD 0 0 / 2 ^ (ns.getD 1 0 % t.width)

/-- VSRA: a is read as signed, whatever the type. -/
def execVsra (g : Guard) (t : Ty) (d : Nat) (a b : Operand) (s : State) : Host.Outcome State Fault Refusal :=
  vecPat s g t d [a, b] fun ns => toBits t.width (sext t.width (ns.getD 0 0) / 2 ^ (ns.getD 1 0 % t.width))

/-- VPOPC. -/
def execVpopc (g : Guard) (t : Ty) (d : Nat) (a : Operand) (s : State) : Host.Outcome State Fault Refusal :=
  vecPat s g t d [a] fun ns => popcount t.width (ns.getD 0 0)

/-- VCLZ. -/
def execVclz (g : Guard) (t : Ty) (d : Nat) (a : Operand) (s : State) : Host.Outcome State Fault Refusal :=
  vecPat s g t d [a] fun ns => leadingZeros t.width (ns.getD 0 0)

/-- VBFX. -/
def execVbfx (g : Guard) (t : Ty) (d : Nat) (a b : Operand) (s : State) : Host.Outcome State Fault Refusal :=
  vecPat s g t d [a, b] fun ns => toBits t.width (bfExtract t.width t.signed (ns.getD 0 0) (ns.getD 1 0))

/-- VBFI: vD is also a source. -/
def execVbfi (g : Guard) (t : Ty) (d : Nat) (a b : Operand) (s : State) : Host.Outcome State Fault Refusal :=
  vecPat s g t d [a, b, .v d] fun ns => bfInsert t.width (ns.getD 2 0) (ns.getD 0 0) (ns.getD 1 0)

/-- VPERMS: sub-element number b of a. -/
def execVperms (g : Guard) (t : Ty) (d : Nat) (a b : Operand) (s : State) : Host.Outcome State Fault Refusal :=
  vecElems s g t d [a, b] fun _ ws i => ⟨subOf (arg ws 0) t.width (subOf (arg ws 1) t.width i % t.count), 0⟩

/-- VMOV: a register or constant, IMM, or the second word. -/
def execVmov (g : Guard) (t : Ty) (d : Nat) (a : Operand ⊕ Word) (s : State) : Host.Outcome State Fault Refusal :=
  match a with
  | .inl o => vecWord s g t d [o] fun ws => arg ws 0
  | .inr w => vecOp s g d [] fun _ _ => (w, 0)

/-! ### Conversion (R308, R309) -/

/-- The rounding that RMO selects (R274, R308). -/
def rmOf (w : Warp) (r : Rmo) : Nat :=
  match r with
  | .mode => w.rm
  | .rne => 0
  | .rtz => 1
  | .rup => 2
  | .rdn => 3

/-- conv of one sub-element from type `st` to type `t`: a widening of integers extends, S or not (R238, R308). -/
def convElem (t st : Ty) (sat : Bool) (rm : Nat) (a : Nat) : FRes :=
  if st.isFlt then
    if t.isFlt then (fmtOf st).convert (fmtOf t) rm a else (fmtOf st).toInt rm t.signed t.width a
  else
    let v : Int := if st.signed then sext st.width a else a
    if t.isFlt then (fmtOf t).ofInt rm v else intResult t (sat && t.width ≤ st.width) v

/-- VCVT. -/
def execVcvt (g : Guard) (t st : Ty) (sat : Bool) (rm : Rmo) (d : Nat) (a : Operand) (s : State) :
    Host.Outcome State Fault Refusal :=
  vecOp s g d [a] fun x l =>
    let w := x.src st l a
    elems t fun i => if i < st.count then convElem t st sat (rmOf x.w rm) (subOf w st.width i) else ⟨0, 0⟩

/-- VPACK. -/
def execVpack (g : Guard) (t st : Ty) (sat : Bool) (d : Nat) (a b : Operand) (s : State) :
    Host.Outcome State Fault Refusal :=
  vecOp s g d [a, b] fun x l =>
    elems t fun i =>
      convElem t st sat x.w.rm
        (if i < st.count then subOf (x.src st l a) st.width i else subOf (x.src st l b) st.width (i - st.count))

/-- VUNPK: the part is an index. -/
def execVunpk (g : Guard) (t st : Ty) (d : Nat) (a b : Operand) (s : State) : Host.Outcome State Fault Refusal :=
  vecOp s g d [a, b] fun x l =>
    let p := (x.index l b).toNat % (st.count / t.count)
    elems t fun i => convElem t st false x.w.rm (subOf (x.src st l a) st.width (p * t.count + i))

/-- VRND raises NV for a signalling NaN and nothing else (R309). -/
def execVrnd (g : Guard) (t : Ty) (rm : Rmo) (d : Nat) (a : Operand) (s : State) : Host.Outcome State Fault Refusal :=
  vecElems s g t d [a] fun x ws i =>
    let r := (fmtOf t).toIntegral (rmOf x.w rm) (subOf (arg ws 0) t.width i)
    { r with fl := r.fl &&& flNV }

/-! ### Special functions (R310) -/

/-- A function of each sub-element. -/
def vecFun (s : State) (g : Guard) (t : Ty) (d : Nat) (a : Operand) (f : Fmt → Nat → Nat → FRes) :
    Host.Outcome State Fault Refusal :=
  vecElems s g t d [a] fun x ws i => f (fmtOf t) x.w.rm (subOf (arg ws 0) t.width i)

/-- VRCP. -/
def execVrcp (g : Guard) (t : Ty) (d : Nat) (a : Operand) (s : State) : Host.Outcome State Fault Refusal :=
  vecFun s g t d a fun f rm x => f.special 0 rm x

/-- VRSQ. -/
def execVrsq (g : Guard) (t : Ty) (d : Nat) (a : Operand) (s : State) : Host.Outcome State Fault Refusal :=
  vecFun s g t d a fun f rm x => f.special 1 rm x

/-- VSQRT, correctly rounded (R239). -/
def execVsqrt (g : Guard) (t : Ty) (d : Nat) (a : Operand) (s : State) : Host.Outcome State Fault Refusal :=
  vecFun s g t d a fun f rm x => f.sqrt rm x

/-- VDIV, correctly rounded (R239). -/
def execVdiv (g : Guard) (t : Ty) (d : Nat) (a b : Operand) (s : State) : Host.Outcome State Fault Refusal :=
  vecElems s g t d [a, b] fun x ws i =>
    (fmtOf t).div x.w.rm (subOf (arg ws 0) t.width i) (subOf (arg ws 1) t.width i)

/-- VEXP2. -/
def execVexp2 (g : Guard) (t : Ty) (d : Nat) (a : Operand) (s : State) : Host.Outcome State Fault Refusal :=
  vecFun s g t d a fun f rm x => f.special 2 rm x

/-- VLOG2. -/
def execVlog2 (g : Guard) (t : Ty) (d : Nat) (a : Operand) (s : State) : Host.Outcome State Fault Refusal :=
  vecFun s g t d a fun f rm x => f.special 3 rm x

/-- VSIN. -/
def execVsin (g : Guard) (t : Ty) (d : Nat) (a : Operand) (s : State) : Host.Outcome State Fault Refusal :=
  vecFun s g t d a fun f rm x => f.special 4 rm x

/-- VCOS. -/
def execVcos (g : Guard) (t : Ty) (d : Nat) (a : Operand) (s : State) : Host.Outcome State Fault Refusal :=
  vecFun s g t d a fun f rm x => f.special 5 rm x

/-- VTANH. -/
def execVtanh (g : Guard) (t : Ty) (d : Nat) (a : Operand) (s : State) : Host.Outcome State Fault Refusal :=
  vecFun s g t d a fun f rm x => f.special 6 rm x

end Sys2Proof.Machine
end

