-- ==== Sys2Proof/Machine/Cross.lean ====
section
/-! DEFINITION. Cross-lane instructions: shuffles, reductions, scans, broadcasts and ballots (R311 to R316). -/

namespace Sys2Proof.Machine

/-! ### Groups (R311) -/

/-- Lanes of a group. -/
def groupSize (w : Warp) (g : Grp) : Nat :=
  match g with
  | .whole => w.width
  | .g8 => min 8 w.width
  | .g16 => min 16 w.width

/-- The base lane of lane `l`'s group of `n` lanes. -/
def groupBase (n l : Nat) : Nat := n * (l / n)

/-- Element `j` of the group at `gb`, after wrapping (R311, R313): lane and sub-element. -/
def groupElem (t : Ty) (n gb : Nat) (j : Int) : Nat × Nat :=
  let k := (j % (n * t.count : Nat)).toNat
  (gb + k / t.count, k % t.count)

/-- A shuffle: `index` gives j from the lane, the sub-element and e (R313). -/
def shuffle (s : State) (g : Guard) (t : Ty) (grp : Grp) (d : Nat) (a : Operand) (regs : Nat) (priv : Bool)
    (index : Ictx → Nat → Nat → Nat → Int) : Host.Outcome State Fault Refusal :=
  s.perLane g (max (max (d + 1) (Operand.top a 1)) regs) (priv || Operand.priv a) fun x m =>
    let n := groupSize x.w grp
    x.vecWrite m d fun l =>
      let gb := groupBase n l
      elems t fun i =>
        let (sl, si) := groupElem t n gb (index x l i ((l - gb) * t.count + i))
        ⟨subOf (x.src t sl a) t.width si, 0⟩

/-- Index registers that the W form of SHFL reads (R313). -/
def shflRegs (t : Ty) : Nat := (t.count + 3) / 4

/-- SHFL: idx(L, s) is an n16 of register B + s ÷ 4; in the I form the index is IMM (R313). -/
def execShfl (g : Guard) (t : Ty) (grp : Grp) (d : Nat) (a b : Operand) (s : State) : Host.Outcome State Fault Refusal :=
  shuffle s g t grp d a (Operand.top b (shflRegs t)) (Operand.priv b) fun x l i _ =>
    match b with
    | .v n => (subOf (x.w.vreg (n + i / 4) l) 16 (i % 4) : Nat)
    | o => ((x.index l o).toNat : Int)

/-- SHFLX (R313). -/
def execShflx (g : Guard) (t : Ty) (grp : Grp) (d : Nat) (a b : Operand) (s : State) : Host.Outcome State Fault Refusal :=
  shuffle s g t grp d a 0 (Operand.priv b) fun x _ _ e => (e ^^^ (x.index 0 b).toNat : Nat)

/-- SHFLUP (R313). -/
def execShflup (g : Guard) (t : Ty) (grp : Grp) (d : Nat) (a b : Operand) (s : State) : Host.Outcome State Fault Refusal :=
  shuffle s g t grp d a 0 (Operand.priv b) fun x _ _ e => (e : Int) - (x.index 0 b).toNat

/-- SHFLDN (R313). -/
def execShfldn (g : Guard) (t : Ty) (grp : Grp) (d : Nat) (a b : Operand) (s : State) : Host.Outcome State Fault Refusal :=
  shuffle s g t grp d a 0 (Operand.priv b) fun x _ _ e => (e : Int) + (x.index 0 b).toNat

/-! ### Reduce and scan (R314) -/

/-- combine(rop, r, a). -/
def combine (t : Ty) (rop : Rop) (rm : Nat) (r a : Nat) : FRes :=
  let n := t.width
  let f := fmtOf t
  let iv (x : Nat) : Int := if t.signed then sext n x else x
  match rop with
  | .add => if t.isFlt then f.add rm r a else ⟨(r + a) % 2 ^ n, 0⟩
  | .min => if t.isFlt then f.pick false r a else ⟨if iv a < iv r then a else r, 0⟩
  | .max => if t.isFlt then f.pick true r a else ⟨if iv r < iv a then a else r, 0⟩
  | .land => ⟨r &&& a, 0⟩
  | .lor => ⟨r ||| a, 0⟩
  | .lxor => ⟨r ^^^ a, 0⟩

/-- identity(rop) of an exclusive scan. -/
def ropIdentity (t : Ty) (rop : Rop) : Nat :=
  let n := t.width
  let f := fmtOf t
  match rop with
  | .add | .lor | .lxor => 0
  | .land => 2 ^ n - 1
  | .min => if t.isFlt then f.infBits else toBits n (intMax t.signed n)
  | .max => if t.isFlt then f.signed true f.infBits else toBits n (intMin t.signed n)

/-- The elements of a group whose lanes take part, in ascending e: lane, sub-element, value. -/
def Ictx.groupElems (x : Ictx) (t : Ty) (m : Mask) (gb n : Nat) (a : Operand) : List (Nat × Nat × Nat) :=
  ((Mask.lanes m).filter fun l => groupBase n l == gb).flatMap fun l =>
    (upTo t.count).map fun i => (l, i, subOf (x.src t l a) t.width i)

/-- Running results: what each element receives inclusively and exclusively, and flags so far. -/
def scanElems (t : Ty) (rop : Rop) (rm : Nat) : Option Nat → List (Nat × Nat × Nat) → List (Nat × Nat × FRes × Nat)
  | _, [] => []
  | none, (l, i, v) :: es => (l, i, ⟨v, 0⟩, ropIdentity t rop) :: scanElems t rop rm (some v) es
  | some r, (l, i, v) :: es =>
    let q := combine t rop rm r v
    (l, i, q, r) :: scanElems t rop rm (some q.bits) es

/-- Bases of the groups in which some lane takes part. -/
def groupBases (m : Mask) (n : Nat) : List Nat := ((Mask.lanes m).map (groupBase n)).dedup

/-- VRED of a group: the last running result, and the flags. -/
def Ictx.reduce (x : Ictx) (t : Ty) (rop : Rop) (m : Mask) (gb n : Nat) (a : Operand) : FRes :=
  let rs := scanElems t rop x.w.rm none (x.groupElems t m gb n a)
  ⟨((rs.getLast?).map (·.2.2.1.bits)).getD 0, rs.foldl (fun f e => f ||| e.2.2.1.fl) 0⟩

/-- VRED (R314). -/
def execVred (g : Guard) (t : Ty) (rop : Rop) (grp : Grp) (d a : Operand) (s : State) :
    Host.Outcome State Fault Refusal :=
  s.perLane g (topOf [d, a]) (Operand.priv a) fun x m =>
    let n := groupSize x.w grp
    let rs := (groupBases m n).map fun gb => (gb, x.reduce t rop m gb n a)
    x.numericAll (rs.foldl (fun f r => f ||| r.2.fl) 0) fun w =>
      match d with
      | .s k => match rs with
        | [] => .done (x.put w)
        | r :: _ => .done (x.put (w.setS k (splat t r.2.bits)))
      | .v k => .done (x.put (rs.foldl (fun w r =>
          w.setLanes k (((Mask.lanes m).filter fun l => groupBase n l == r.1).map fun l => (l, splat t r.2.bits))) w))
      | _ => .done (x.put w)

/-- VSCAN (R314). -/
def execVscan (g : Guard) (t : Ty) (rop : Rop) (grp : Grp) (exc : Bool) (d : Nat) (a : Operand) (s : State) :
    Host.Outcome State Fault Refusal :=
  s.perLane g (max (d + 1) (Operand.top a 1)) (Operand.priv a) fun x m =>
    let n := groupSize x.w grp
    let es := (groupBases m n).flatMap fun gb => scanElems t rop x.w.rm none (x.groupElems t m gb n a)
    let val (e : Nat × Nat × FRes × Nat) := if exc then e.2.2.2 else e.2.2.1.bits
    x.numericAll (es.foldl (fun f e => f ||| e.2.2.1.fl) 0) fun w =>
      .done (x.put (w.setLanes d ((Mask.lanes m).map fun l =>
        (l, packSubs t.width ((es.filter fun e => e.1 == l).map val)))))

/-! ### Broadcast and ballot (R315, R316) -/

/-- BCST. -/
def execBcst (g : Guard) (t : Ty) (grp : Grp) (d : Nat) (a b : Operand) (s : State) : Host.Outcome State Fault Refusal :=
  vecOp s g d [a, b] fun x l =>
    let n := groupSize x.w grp
    (x.src t (groupBase n l + (x.index 0 b).toNat % n) a, 0)

/-- VBALLOT. -/
def execVballot (g : Guard) (grp : Grp) (d : Operand) (p : Nat) (s : State) : Host.Outcome State Fault Refusal :=
  s.perLane g (Operand.top d 1) false fun x m =>
    let n := groupSize x.w grp
    let set := m &&& x.w.pred p
    match d with
    | .s k =>
      if m == 0 then .done x.s
      else .done (x.put ((x.w.setS k (set.extractLsb' 0 64)).setS (k + 1) (set.extractLsb' 64 64)))
    | .v k =>
      .done (x.put (x.w.setLanes k ((Mask.lanes m).map fun l =>
        if 64 < n then (l, (set >>> (64 * (l / 64))).setWidth 64)
        else (l, (sliceMask set (groupBase n l) n).setWidth 64))))
    | _ => .done x.s

end Sys2Proof.Machine
end

