-- ==== Sys2Proof/Machine/Access.lean ====
section
/-! DEFINITION. How memory instructions check their lanes (R217, R322, R323), issue their accesses (R131, R154, R324) and in
what order those may be performed (R184, R188, R190), and what completing one does. -/

namespace Sys2Proof.Machine

/-! ### Checking lanes -/

/-- What a lane's checks come to: where its accesses lead, or the first failure with its address. -/
abbrev LaneCheck := Except (Word × XErr) (List Target)

/-- Every lane resolved, translated and checked before any performs (R324). -/
def checkLanes (f : State → Nat → LaneCheck × State) : State → List Nat → List (Nat × LaneCheck) × State
  | s, [] => ([], s)
  | s, l :: ls =>
    let (r, s) := f s l
    let (rs, s) := checkLanes f s ls
    ((l, r) :: rs, s)

/-- Lanes that meet a fault class, with their addresses and SUBs. -/
def faultsOf (cls : Nat) (rs : List (Nat × LaneCheck)) : List (Nat × Word × Nat) :=
  rs.filterMap fun r =>
    match r.2 with
    | .error (a, .fault c sub) => if c = cls then some (r.1, a, sub) else none
    | _ => none

/-- The first violation. -/
def violationOf (rs : List (Nat × LaneCheck)) : Option (Nat × Nat) :=
  (rs.filterMap fun r =>
    match r.2 with
    | .error (_, .violation gpa acc) => some (gpa, acc)
    | _ => none).head?

/-- A lane's walk waits for a table in host memory (R27). -/
def walkHeld (rs : List (Nat × LaneCheck)) : Bool :=
  rs.any fun r => match r.2 with | .error (_, .held) => true | _ => false

/-- The highest class of a list that a lane meets. -/
def faultOf (order : List Nat) (rs : List (Nat × LaneCheck)) : Option Trap :=
  (order.filterMap fun cls =>
    match faultsOf cls rs with
    | [] => none
    | h :: hs => some (⟨cls, h.2.2, (h :: hs).map fun e => (e.1, e.2.1), false, none⟩ : Trap)).head?

/-- The highest class that a lane meets, in the order of R217; classes 16 to 18 are known once no walk waits (R27). -/
def worstFaults (rs : List (Nat × LaneCheck)) : Option Trap :=
  if walkHeld rs then faultOf [19] rs else faultOf [19, 16, 17, 18] rs

/-- Registers past the allocation mark every active lane; a lower SUB of the lowest active lane stands when its address
registers can be read (R217, R323, R405). -/
def Ictx.outOfRange (x : Ictx) (addrRegs : Nat) (m : Mask) (f : State → Nat → LaneCheck × State) : Res :=
  let (rs, _) := checkLanes f x.s (Mask.lanes m)
  let es := faultsOf 19 rs
  if x.g.nv < addrRegs then x.fault 19 0x0C
  else
    let low := (Mask.lanes x.act).head?
    let sub := match es with
      | [] => 0x0C
      | e :: _ => if some e.1 = low then min e.2.2 0x0C else 0x0C
    .trap x.s ⟨19, sub, (Mask.lanes x.act).map fun l => (l, ((es.find? fun e => e.1 == l).map (·.2.1)).getD 0), false, none⟩

/-- Check every lane, then go on with the places of each. -/
def Ictx.withLanes (x : Ictx) (regs addrRegs : Nat) (m : Mask) (f : State → Nat → LaneCheck × State)
    (body : State → List (Nat × List Target) → Res) : Res :=
  if x.g.nv < regs then x.outOfRange addrRegs m f
  else
    let (rs, s) := checkLanes f x.s (Mask.lanes m)
    match worstFaults rs with
    | some t => .trap s t
    | none =>
      if walkHeld rs then x.wait else
      match violationOf rs with
      | some (gpa, acc) => x.freeze s gpa acc
      | none => body s (rs.filterMap fun r => match r.2 with | .ok ts => some (r.1, ts) | .error _ => none)

/-- One address resolved for `n` bytes. -/
def Ictx.one (x : Ictx) (s : State) (sp : Space) (a : Word) (n : Nat) (acc : Acc) : LaneCheck × State :=
  match s.resolve x.v x.g sp a n acc with
  | (.ok t, s) => (.ok [t], s)
  | (.error e, s) => (.error (a, e), s)

/-- Place of a cause in the list of R217; what a walk that waits would find comes after an operand fault; a violation is no fault. -/
def XErr.rank : XErr → Nat
  | .fault 19 n => n
  | .held => 2 ^ 7
  | .fault 16 n => 2 ^ 8 + n
  | .fault 17 n => 2 ^ 9 + n
  | .fault _ n => 2 ^ 10 + n
  | .violation _ _ => 2 ^ 11

/-- Where an address leads, whatever the entries permit: an instruction that does not take a space says so before it is refused a
permission (R217). -/
def Ictx.spaceOf (x : Ictx) (s : State) (sp : Space) (a : Word) (n : Nat) : Option Place :=
  match (s.resolve x.v x.g sp a n ⟨false, false, false⟩).1 with
  | .ok t => some t.place
  | .error _ => none

/-- Two addresses of one lane: of two failures the one that stands higher in R217, then the lower SUB, then the first. -/
def andThen (r : LaneCheck × State) (f : State → LaneCheck × State) : LaneCheck × State :=
  match r with
  | (.error d, s) =>
    match f s with
    | (.error e, s) => (.error (if e.2.rank < d.2.rank then e else d), s)
    | (.ok _, s) => (.error d, s)
  | (.ok ts, s) =>
    match f s with
    | (.ok us, s) => (.ok (ts ++ us), s)
    | (.error e, s) => (.error e, s)

def faultAtAddr (cls sub : Nat) (a : Word) (s : State) : LaneCheck × State := (.error (a, .fault cls sub), s)

/-! ### Places -/

def Place.isPod : Place → Bool
  | .pod _ _ => true
  | _ => false

def Place.isVault : Place → Bool
  | .vault _ _ => true
  | _ => false

/-- The 64-byte line, for counting requests (R154). -/
def Place.line (p : Place) : Nat × Nat :=
  match p with
  | .hbm a _ => (0, a / 64)
  | .host a => (1, a / 64)
  | .vault c a => (2, vaultKey c a / 64)
  | .pod v a => (3 + v, a / 64)

/-! ### Operations (R183) -/

def OpKind.reads : OpKind → Bool
  | .load _ | .atom _ _ | .rcas _ | .renq | .rchase _ _ => true
  | _ => false

def OpKind.writes : OpKind → Bool
  | .load _ => false
  | _ => true

/-- Kinds by the event that completes them. -/
def OpKind.isLoad : OpKind → Bool
  | .load _ => true
  | _ => false

def OpKind.isAtomic : OpKind → Bool
  | .atom _ _ | .rcas _ | .renq | .rchase _ _ => true
  | _ => false

def OpKind.isDet : OpKind → Bool
  | .faddd _ | .fdset _ => true
  | _ => false

def OpKind.isBar : OpKind → Bool
  | .bari | .bara => true
  | _ => false

/-- Counted on no class counter (R331). -/
def OpKind.uncounted : OpKind → Bool
  | .bari | .bara => true
  | _ => false

/-- A remote operation, charged one request for each lane (R154). -/
def OpKind.perLane : OpKind → Bool
  | .faddd _ | .fdset _ | .rcas _ | .renq | .rchase _ _ => true
  | _ => false

/-- Counts on the loads counter (R131). -/
def MemOp.onLoads (o : MemOp) : Bool :=
  match o.kind with
  | .load _ => true
  | _ => o.dst.isSome

/-- The translated address of a lane's access: an `RCHASE` reads its offset on from the pointer that it has come to (R335). -/
def MemOp.target (o : MemOp) (l : LaneOp) : Word :=
  match o.kind with
  | .rchase _ _ => l.data.headD 0 + l.cmp.headD 0
  | _ => l.addr

/-- A lane of an operation that is strong: by its suffix, or by a pod address (R185). -/
def MemOp.strongAt (o : MemOp) (l : LaneOp) : Bool := o.strong || l.place.isPod

/-- Requests in flight of an operation for a core (R154); remote operations on the core's own vault count none (log entry 106). -/
def MemOp.charge (o : MemOp) (core : Nat) : Nat :=
  let ls := o.lanes.filter fun l => !l.done && (match l.place with | .vault c _ => c != core | _ => true)
  if o.kind.perLane then ls.length else ((ls.map fun l => l.place.line).dedup).length

/-- Requests in flight of a core. -/
def State.requests (s : State) (core : Nat) : Nat :=
  ((s.work.warps.filter fun e => e.2.id.core == core).map fun e => (e.2.work.ops.map fun o => o.charge core).sum).sum

/-! ### Order (R184, R187, R188, R193, R331) -/

/-- STREAM of a warp (R38). -/
def State.streamOf (s : State) (w : Warp) : Nat :=
  ((((s.vchip? (s.slotOf w)).map fun c => c.coreIndex w.id.core).getD 0) * 16 + w.id.slot) % 256

/-- A lane of an `ATOM` without a destination at a pod address whose stream is frozen (R40): later accesses do not wait for it (R404, log
entry 72). -/
def State.inFrozen (s : State) (w : Warp) (p : MemOp) (q : LaneOp) : Bool :=
  match p.kind, q.place with
  | .atom _ _, .pod d _ => p.dst.isNone && s.fabric.src.any fun x => x.id == ⟨s.slotOf w, d, s.streamOf w⟩ && x.frozen.isSome
  | _, _ => false

/-- Pod accesses of a warp that one stream carries, in order (R38, R188). -/
def Place.sameStream (p q : Place) : Bool :=
  match p, q with
  | .pod v _, .pod w _ => v == w
  | _, _ => false

/-- A pod address of the vchip `own` itself may name the bytes of a local line (R56): they are kept in order as if it did. -/
def Place.meets (own : Option Nat) (p : Place) (n : Nat) (q : Place) (m : Nat) : Bool :=
  match p, q with
  | .pod v _, .hbm _ _ => some v == own
  | .hbm _ _, .pod v _ => some v == own
  | .pod _ _, .pod _ _ => false
  | _, _ => p.overlaps n q m

/-- An operation's lane must wait for an undone lane `q` of an operation `p` that it follows in program order; `held` is the mark of a
frozen stream, `own` the vchip's number. No write goes before a read, in one stream or none (R193); strong local accesses keep the order
of R188; accesses to one byte keep theirs (R187), but for what a frozen stream holds (R404, log entry 72). -/
def mustFollow (held : Bool) (own : Option Nat) (o : MemOp) (l : LaneOp) (p : MemOp) (q : LaneOp) : Bool :=
  p.acq || o.rel ||
  (o.kind.writes && p.kind.reads && !l.place.sameStream q.place && !held) ||
  (o.strongAt l && p.strongAt q && !l.place.isPod && !q.place.isPod &&
    ((p.kind.reads && o.kind.reads) || (p.kind.writes && o.kind.writes))) ||
  (l.place.meets own l.size q.place q.size && !held)

/-- Where a place lies: a pod address of the vchip itself leads through its stage 2 (R56, R70). -/
def State.homePlace (s : State) (v : Nat) (p : Place) : Place :=
  match p with
  | .pod d off =>
    if ((s.vchip? v).map (·.vch)) == some d then
      match s.stage2 v off ⟨false, false, false⟩ with
      | .ok h => if attrAper h.attr == 2 then .host h.out else .hbm h.out (attrOwner h.attr)
      | .error _ => p
    else p
  | _ => p

/-- Two places name one slot or object. -/
def State.sameHome (s : State) (v : Nat) (p q : Place) : Bool := p == q || (s.homePlace v p).overlaps 1 (s.homePlace v q) 1

/-- A contribution has come to its agent, or goes there before a later one does: it is held there, or in the stream that carries the later
one as well (R328). -/
def LaneOp.ahead (l q : LaneOp) : Bool := q.sent && (l.place.isPod || !q.place.isPod)

/-- What a warp's events of one object keep in the order of issue on every path: contributions and set-ups of a slot arrive in it (R143,
R328), barrier events are applied in it, and a `BARA` after every earlier store (R331). `same`: the lanes name one slot. -/
def inIssueOrder (same : Bool) (o : MemOp) (l : LaneOp) (p : MemOp) (q : LaneOp) : Bool :=
  (o.kind.isDet && p.kind.isDet && same && !l.ahead q) ||
  (o.kind.isBar && p.kind.isBar && l.place == q.place) ||
  (o.kind == .bara && p.kind.writes && !p.kind.isBar)

/-- Contributions to one slot, or one that its agent holds and a later one to any slot: it is in no later one's way, for the next rank is
always accepted (R143; log entry 101). -/
def detPair (same : Bool) (o p : MemOp) (q : LaneOp) : Bool :=
  o.kind.isDet && p.kind.isDet && (same || (q.sent && !q.place.isPod))

/-- A lane of operation `o` of warp `w` is performed after lane `q` of operation `p`. -/
def State.waitsFor (s : State) (w : Warp) (o : MemOp) (l : LaneOp) (p : MemOp) (q : LaneOp) : Bool :=
  let v := s.slotOf w
  let own := (s.vchip? v).map (·.vch)
  let same := o.kind.isDet && p.kind.isDet && s.sameHome v l.place q.place
  (p.id < o.id && inIssueOrder same o l p q) ||
    (o.after.contains p.id && !detPair same o p q && mustFollow (s.inFrozen w p q) own o l p q)

/-- A lane of operation `o` of warp `w` may be performed now. -/
def State.mayPerform (s : State) (w : Warp) (o : MemOp) (l : LaneOp) : Bool :=
  w.work.ops.all fun p => p.lanes.all fun q => q.done || !s.waitsFor w o l p q

/-- Every operation of these, or below number `n`, that `which` selects has been performed. -/
def Warp.opsDone (w : Warp) (n : Nat) (which : MemOp → Bool) : Bool :=
  w.work.ops.all fun p => n ≤ p.id || !which p

def State.opsDone (s : State) (wid n : Nat) (which : MemOp → Bool) : Bool :=
  match s.warp? wid with
  | none => true
  | some w => w.opsDone n which

def State.idsDone (s : State) (wid : Nat) (ids : List Nat) (which : MemOp → Bool) : Bool :=
  match s.warp? wid with
  | none => true
  | some w => w.work.ops.all fun p => !ids.contains p.id || !which p

/-- Operations that go before the events of an engine operation issued after them: reads, strong writes, the release of a `BARA`, pod
accesses (R185, R190). -/
def MemOp.beforeEngines (o : MemOp) : Bool :=
  o.kind.reads || o.strong || o.kind == .bara || o.lanes.any fun l => l.place.isPod

/-- What goes before an engine's events has been performed: `after` are the operations before its issue in program order (R190), `xfence`
the number below which `FENCE.X` put the warp's writes before it (R191). -/
def State.engineMayRead (s : State) (wid : Nat) (after : List Nat) (xfence : Nat) : Bool :=
  s.idsDone wid after MemOp.beforeEngines && s.opsDone wid xfence fun o => o.kind.writes

/-! ### Values that a copy may still read (R147) -/

/-- A plain store of local lanes. -/
def MemOp.plainStore (o : MemOp) : Bool := o.kind == .store && !o.strong && !o.rel && !o.lanes.any fun l => l.place.isPod

/-- What an operation's issue adds to the values that its warp's copies may read: those of the words that its plain stores are to write. A
release, or an acquire, shows every earlier store to the copies after it (R190). What no copy can read any more goes. -/
def WarpWork.remember (k : WarpWork) (s : State) (wid : Nat) (o : MemOp) : WarpWork :=
  let ws := if o.kind == .store && !o.strong && !o.rel then
    ((o.lanes.filter fun l => !l.place.isPod).flatMap fun l => l.place.words l.size).dedup else []
  let wanted (e : PastWord) : Bool :=
    (s.work.copies.any fun c => c.2.warp == wid && c.2.past.contains e.op) || (max k.shown k.xfence ≤ e.op && !ws.contains e.place)
  { k with
    past := k.past.filter wanted ++ ws.map fun q => ⟨o.id, q, [s.readWord q 8]⟩
    shown := if o.rel || o.acq then k.nextOp else k.shown }

/-- The stores that a copy issued now may miss. -/
def WarpWork.missed (k : WarpWork) : List Nat := ((k.past.filter fun e => max k.shown k.xfence ≤ e.op).map (·.op)).dedup

/-- Earlier stores reach every copy issued from now on: after a release, a fence or an acquire of the warp (R190). -/
def WarpWork.showAll (k : WarpWork) : WarpWork := { k with shown := k.nextOp }

/-! ### What a reader comes to know (R189, R352) -/

/-- The word that carries knowledge, by place. -/
def Place.msgKey (p : Place) : Nat :=
  4 * (p.num / 8) + (match p with | .hbm _ _ => 0 | .host _ => 1 | .vault _ _ => 2 | .pod _ _ => 3)

/-- The words of a place carry these, beside what they carried where `keep` holds. -/
def State.carry (s : State) (keep : Bool) (ts : List (Nat × Bool)) (p : Place) (n : Nat) : State :=
  s.modDies fun d => { d with msgs := (upTo ((n + 7) / 8)).foldl (fun m i =>
    let k := (p.add (8 * i)).msgKey
    KMap.set m [] k (if keep then (KMap.get m [] k ++ ts).dedup else ts)) d.msgs }

/-- A performed write carries what its warp knew at its issue; a read-modify-write goes on with what stood there. -/
def State.tell (s : State) (o : MemOp) (p : Place) (n : Nat) : State := (s.notePast p n).carry o.kind.reads o.tells p n

/-- What arrivals and contributions tell of joins: the write that completes a phase or a slot is the release of each (R196). -/
def State.join (s : State) (o : MemOp) (p : Place) (n : Nat) : State := (s.notePast p n).carry true (o.tells.map fun e => (e.1, true)) p n

/-- A performed read finds it: an acquire knows at once what a release told, a later fence or release the rest. -/
def State.hear (s : State) (wid : Nat) (acq : Bool) (p : Place) (n : Nat) : State :=
  let got := (upTo ((n + 7) / 8)).flatMap fun i => KMap.get s.dies.msgs [] (p.add (8 * i)).msgKey
  let s := if acq then s.modWarp wid fun w => { w with work := w.work.showAll } else s
  if got.isEmpty then s
  else s.modWarp wid fun w => { w with work := { w.work with
    known := if acq then (w.work.known ++ (got.filter (·.2)).map (·.1)).dedup else w.work.known
    heard := (w.work.heard ++ got.map (·.1)).dedup } }

/-- What a fence makes known, and what later writes tell of. -/
def WarpWork.fenced (k : WarpWork) : WarpWork :=
  let all := (k.known ++ k.heard).dedup
  { k.showAll with known := all, heard := [], told := all }

/-- What a write issued now tells of. -/
def WarpWork.tells (k : WarpWork) (rel : Bool) : List (Nat × Bool) := k.known.map fun i => (i, rel || k.told.contains i)

/-! ### Engine writes that land late (R146, R190) -/

/-- Before an event of the lanes `m`: the engine writes that they have observed (R190). -/
def State.landSeen (s : State) (wid : Nat) (m : Mask) : State := s.landWhich wid fun e => e.seen &&& m != 0

/-- Before an event of the lanes `m` that meets these runs alone: the engine writes that they have observed there, and those before them in
their channels (R145, R190). -/
def State.landOver (s : State) (wid : Nat) (m : Mask) (ps : List (Place × Nat)) : State :=
  match s.warp? wid with
  | none => s
  | some w =>
    let es := w.work.landing.zipIdx
    let hit (e : Landing × Nat) : Bool :=
      e.1.seen &&& m != 0 && ps.any fun p => e.1.place.overlaps e.1.bytes.length p.1 p.2
    let due := es.filter hit
    if due.isEmpty then s
    else
      let goes (e : Landing × Nat) : Bool :=
        due.any fun d => d.2 == e.2 || (e.2 < d.2 && e.1.chan.isSome && e.1.chan == d.1.chan)
      (s.modWarp wid fun w => { w with work := { w.work with landing := (es.filter fun e => !goes e).map (·.1) } }).landAll
        ((es.filter goes).map (·.1))

/-- An acquire of the lanes `m` that the device makes: what they have observed has landed, and earlier stores reach every later copy. -/
def State.acquired (s : State) (wid : Nat) (m : Mask) : State :=
  (s.modWarp wid fun w => { w with work := w.work.showAll }).landSeen wid m

/-- What lands before an operation's events as it issues: a plain store waits for it at its home alone. -/
def State.landFor (s : State) (wid : Nat) (m : Mask) (o : MemOp) : State := if o.plainStore then s else s.landSeen wid m

/-- An engine's write: at once, or after its operation is DONE where the warp's engine writes land late. -/
def State.engineStore (s : State) (wid : Nat) (chan : Option Nat) (f upTo : Nat) (p : Place) (bs : List Byte) : State :=
  match s.warp? wid with
  | none => (s.storeAt p bs).cutPast p bs.length
  | some w =>
    if w.work.late then
      s.setWarp wid { w with work := { w.work with landing := w.work.landing ++ [⟨chan, p, bs, f, upTo, 0⟩] } }
    else (s.storeAt p bs).cutPast p bs.length

/-! ### Issue -/

/-- The counter that an instruction takes is full (R131). -/
def Counters.full (c : Counters) (loads : Bool) : Bool := if loads then 63 ≤ c.ld else 63 ≤ c.st

/-- The number of ATOM's operation (R274). -/
def aopNum (a : Aop) : Nat := a.ctorIdx

/-- The request that a pod lane sends (R34, R35). -/
def laneRequest (wid : Nat) (o : MemOp) (i : Nat) (l : LaneOp) (off : Nat) : Request :=
  let d := l.data.getD 0 0
  let c := l.cmp.getD 0 0
  let org : Origin := .lane wid o.id i
  let agent (aop atype oparg : Nat) (imm : Word) (pl : List Byte) : Request :=
    ⟨4, off, aop, atype, pl.length, 0, false, oparg, imm, pl, org, none⟩
  match o.kind with
  | .load _ => ⟨2, off, 0, 0, 0, 0, false, l.size, 0, [], org, none⟩
  | .atom .cas t => agent 7 t.code 0 c (wordBytes d l.size)
  | .atom a t => agent (aopNum a) t.code 0 d []
  | .faddd t => agent 8 t.code (min c.toNat 0xFFFFFF) d []
  | .fdset t => agent 9 t.code c.toNat d []
  | .rcas n => agent 10 0 n 0 (wordsBytes (l.data ++ l.cmp))
  | .renq => agent 11 0 0 d []
  | .rchase hops o => agent 12 0 (hops + place (o / 8) 4) 0 []
  | _ => ⟨1, off, 0, 0, l.size, 0, false, 0, 0, ((wordsBytes l.data).take l.size), org, none⟩

/-- Queue the requests of an operation's pod lanes in their streams. -/
def State.sendLanes (s : State) (wid : Nat) (v stream : Nat) (o : MemOp) : State :=
  o.lanes.zipIdx.foldl (fun s (l, i) =>
    match l.place with
    | .pod d off => s.enqueueRequest ⟨v, d, stream⟩ (laneRequest wid o i l off)
    | _ => s) s

/-- An instruction's accesses as one operation; nothing when no lane takes part. It is not ready while its requests do not
fit (R113, R154). -/
def Ictx.issue (x : Ictx) (s : State) (o : MemOp) : Res :=
  if o.lanes.isEmpty then .done s
  else if 1536 < s.requests x.w.id.core + o.charge x.w.id.core then x.wait
  else
    let k := if o.rel then { x.w.work with known := (x.w.work.known ++ x.w.work.heard).dedup } else x.w.work
    let o := { o with id := k.nextOp, reach := x.act, after := x.before, tells := k.tells o.rel }
    let c := x.w.cnt
    let cnt := if o.kind.uncounted then c else if o.onLoads then { c with ld := c.ld + 1 } else { c with st := c.st + 1 }
    let k := k.remember s x.c.warp o
    let w := { x.w with cnt := cnt, work := { k with ops := k.ops ++ [o], nextOp := k.nextOp + 1 } }
    .done (((s.setWarp x.c.warp w).landFor x.c.warp x.act o).sendLanes x.c.warp x.v (s.streamOf x.w) o)

/-! ### Completion -/

def LaneOp.second (l : LaneOp) : Bool := l.size == 8 && l.cmp == [1]

/-- Values arrive in an operation's destination in one lane: an exited lane's are discarded (R291). -/
def Warp.deliver (w : Warp) (o : MemOp) (l : LaneOp) (vals : List Word) : Warp :=
  match o.dst with
  | none => w
  | some d =>
    let d := if o.pair && l.second then d + 1 else d
    if o.scalar then vals.zipIdx.foldl (fun w (x, i) => w.setS (d + i) x) w
    else if w.exited.getLsbD l.lane then w
    else vals.zipIdx.foldl (fun w (x, i) => w.setV (d + i) l.lane x) w

def Warp.modOp (w : Warp) (id : Nat) (f : MemOp → MemOp) : Warp :=
  { w with work := { w.work with ops := w.work.ops.map fun o => if o.id = id then f o else o } }

/-- An operation whose lanes are all done goes, and its counter falls (R131). -/
def Warp.retireOp (w : Warp) (id : Nat) : Warp :=
  match w.work.ops.find? fun o => o.id == id with
  | none => w
  | some o =>
    if o.lanes.all LaneOp.done then
      let c := w.cnt
      let cnt := if o.kind.uncounted then c else if o.onLoads then { c with ld := c.ld - 1 } else { c with st := c.st - 1 }
      { w with cnt := cnt, work := { w.work with ops := w.work.ops.filter fun o => o.id != id } }
    else w

def MemOp.markDone (o : MemOp) (i : Nat) : MemOp :=
  { o with lanes := o.lanes.zipIdx.map fun (l, j) => if j = i then { l with done := true } else l }

/-- Lane `i` of an operation is done with these values. -/
def State.laneDone (s : State) (wid opid i : Nat) (vals : List Word) : State :=
  match s.warp? wid with
  | none => s
  | some w =>
    match w.work.ops.find? fun o => o.id == opid with
    | none => s
    | some o =>
      match o.lanes[i]? with
      | none => s
      | some l =>
        if l.done then s
        else (s.setWarp wid (((w.deliver o l vals).modOp opid fun o => o.markDone i).retireOp opid)).settleWarp wid

/-- Replace lane `i`'s record. -/
def State.modLane (s : State) (wid opid i : Nat) (f : LaneOp → LaneOp) : State :=
  s.modWarp wid fun w => w.modOp opid fun o =>
    { o with lanes := o.lanes.zipIdx.map fun (l, j) => if j = i then f l else l }

/-- The lane of an event, when it has not been performed, may be, and does not travel as a packet; nothing is performed in a thermal halt
(R16). -/
def State.laneReady (s : State) (wid opid i : Nat) (kinds : OpKind → Bool) : Option (Warp × MemOp × LaneOp) :=
  match s.warp? wid with
  | none => none
  | some w =>
    match w.work.ops.find? fun o => o.id == opid with
    | none => none
    | some o =>
      match o.lanes[i]? with
      | none => none
      | some l => if s.clocksRun && kinds o.kind && !l.done && !l.sent && !l.place.isPod && s.mayPerform w o l && s.warpResident wid &&
          s.placeOpen (s.slotOf w) l.place && (l.place2.map (s.placeOpen (s.slotOf w))).getD true then some (w, o, l) else none

/-- The value or values that a load's bytes give (R285, R324). -/
def loadValues (sx : Bool) (size : Nat) (bs : List Byte) : List Word :=
  if size = 16 then [leWord (bs.take 8), leWord (bs.drop 8)]
  else if sx then [BitVec.ofInt 64 (sext (8 * size) (leNat bs))]
  else [leWord bs]

/-- LOAD_COMPLETE: a load's lane is performed at its home and its data is written (R131, R324); that of an `LDG`'s ghost or boundary cell
has been read (R365). -/
def execLoadComplete (warp op lane : Nat) (s : State) : Host.Outcome State Fault Refusal :=
  match s.laneReady warp op lane OpKind.isLoad with
  | none => .next s
  | some (_, o, l) =>
    let sx := match o.kind with | .load b => b | _ => false
    let vals := if l.data.isEmpty then loadValues sx l.size (s.readPlace l.place l.size) else l.data
    .next ((s.hear warp o.acq l.place l.size).laneDone warp op lane vals)

/-- STORE_PERFORMED: a store's lane is performed at its home (R131, R324), after the engine writes there that its path had observed. -/
def execStorePerformed (warp op lane : Nat) (s : State) : Host.Outcome State Fault Refusal :=
  match s.laneReady warp op lane fun k => k == .store with
  | none => .next s
  | some (_, o, l) =>
    let s := s.landOver warp o.reach [(l.place, l.size)]
    .next (((s.storeAt l.place ((wordsBytes l.data).take l.size)).tell o l.place l.size).laneDone warp op lane [])

end Sys2Proof.Machine
end

