-- ==== Sys2Proof/Machine/LoadStore.lean ====
section
/-! DEFINITION. Loads, stores and fences (R285, R324, R325, R330). -/

namespace Sys2Proof.Machine

/-- Bytes of a lane's access (R324). -/
def MemOpt.bytes (o : MemOpt) : Nat := if o.x2 then 16 else 2 ^ o.sz

/-- The effective address, wrapping (R324). -/
def Ictx.addr (x : Ictx) (o : MemOpt) (l : Nat) (a b : Operand) : Word := x.src .b64 l a + x.index l b <<< o.sc

/-- An operation before its number and lanes are known. -/
def MemOp.shape (k : OpKind) (scope : Scope) (acq rel scalar : Bool) (dst : Option Nat) (pair : Bool) : MemOp :=
  ⟨0, k, scope != .plain, scope, acq, rel, scalar, dst, pair, [], 0, [], []⟩

/-- A lane's checks: alignment, then where its pieces lead (R324). -/
def Ictx.accessCheck (x : Ictx) (sp : Space) (o : MemOpt) (a b : Operand) (acc : Acc) (s : State) (l : Nat) :
    LaneCheck × State :=
  let n := MemOpt.bytes o
  let addr := x.addr o l a b
  if addr.toNat % min n 8 ≠ 0 then faultAtAddr 19 0x01 addr s
  else if n ≤ 8 || sp == .vault || (sp == .any && fld addr 26 38 = 0) then x.one s sp addr n acc
  else andThen (x.one s sp addr 8 acc) fun s => x.one s sp (addr + 8) 8 acc

def firstPlace (ts : List Target) : Place := ((ts.head?).map (·.place)).getD (.host 0)

/-- A lane's atomic pieces (R194): a pair in host space is two words. -/
def pieces (n l : Nat) (addr : Word) (ts : List Target) (data : List Word) : List LaneOp :=
  let p := firstPlace ts
  let q := match ts with
    | _ :: t :: _ => t.place
    | _ => p.add 8
  let whole := match p with | .host _ => false | _ => addr.toNat % 32 ≤ 16
  if n ≤ 8 || whole then [⟨l, addr, p, none, n, data, [], false, false⟩]
  else [⟨l, addr, p, none, 8, data.take 1, [], false, false⟩, ⟨l, addr + 8, q, none, 8, data.drop 1, [1], false, false⟩]

/-- Check and issue a per-lane operation; a full counter makes the path not ready (R131). -/
def Ictx.perform (x : Ictx) (m : Mask) (regs addrRegs : Nat) (o : MemOp) (check : State → Nat → LaneCheck × State)
    (lanes : Nat → List Target → List LaneOp) : Res :=
  if m != 0 && !o.kind.uncounted && x.w.cnt.full o.onLoads then x.wait
  else x.withLanes regs addrRegs m check fun s oks => x.issue s { o with lanes := oks.flatMap fun e => lanes e.1 e.2 }

/-- A load per lane. -/
def loadLanes (s : State) (g : Guard) (sp : Space) (o : MemOpt) (acq : Bool) (d : Nat) (a b : Operand) :
    Host.Outcome State Fault Refusal :=
  s.run fun x => x.allowed (privOf [a, b])
    (x.perform (x.lanes g) (max (d + (if o.x2 then 2 else 1)) (topOf [a, b])) (topOf [a, b])
      (MemOp.shape (.load o.sx) o.scope acq false false (some d) o.x2) (x.accessCheck sp o a b Acc.read)
      fun l ts => pieces (MemOpt.bytes o) l (x.addr o l a b) ts [])

/-- A store per lane. -/
def storeLanes (s : State) (g : Guard) (sp : Space) (o : MemOpt) (rel : Bool) (d a b : Operand) :
    Host.Outcome State Fault Refusal :=
  s.run fun x => x.allowed (privOf [a, b, d])
    (x.perform (x.lanes g) (max (Operand.top d (if o.x2 then 2 else 1)) (topOf [a, b])) (topOf [a, b])
      (MemOp.shape .store o.scope false rel false none o.x2) (x.accessCheck sp o a b Acc.write)
      fun l ts => pieces (MemOpt.bytes o) l (x.addr o l a b) ts
        (if o.x2 then [x.src .b64 l d, x.src .b64 l (Operand.next d 1)] else [x.src .b64 l d]))

/-- LD. -/
def execLd (g : Guard) (m : MemOpt) (d : Nat) (a b : Operand) (s : State) : Host.Outcome State Fault Refusal :=
  loadLanes s g .any m false d a b

/-- ST. -/
def execSt (g : Guard) (m : MemOpt) (d a b : Operand) (s : State) : Host.Outcome State Fault Refusal :=
  storeLanes s g .any m false d a b

/-- LDV: always a vault address. -/
def execLdv (g : Guard) (m : MemOpt) (d : Nat) (a b : Operand) (s : State) : Host.Outcome State Fault Refusal :=
  loadLanes s g .vault m false d a b

/-- STV: always a vault address. -/
def execStv (g : Guard) (m : MemOpt) (d a b : Operand) (s : State) : Host.Outcome State Fault Refusal :=
  storeLanes s g .vault m false d a b

/-- LDA: an acquire. -/
def execLda (g : Guard) (m : MemOpt) (d : Nat) (a b : Operand) (s : State) : Host.Outcome State Fault Refusal :=
  loadLanes s g .any m true d a b

/-- STL: a release. -/
def execStl (g : Guard) (m : MemOpt) (d a b : Operand) (s : State) : Host.Outcome State Fault Refusal :=
  storeLanes s g .any m true d a b

/-! ### SLD and SST (R285) -/

/-- One access for the path; a fault marks every active lane with the address. -/
def Ictx.scalarAccess (x : Ictx) (o : MemOpt) (op : MemOp) (a : Nat) (b : Operand) (acc : Acc) (data : List Word) : Res :=
  let n := MemOpt.bytes o
  let addr := x.addr o 0 (.s a) b
  if x.w.cnt.full op.onLoads then x.wait
  else if addr.toNat % n ≠ 0 then x.faultAt 19 0x01 addr
  else
    let (r, s) := x.s.resolve x.v x.g .device addr n acc
    match r with
    | .error (.fault c sub) => .trap s (Trap.all c sub x.act addr)
    | .error (.violation gpa bits) => x.freeze s gpa bits
    | .error .held => x.wait
    | .ok t => x.issue s { op with lanes := [⟨0, addr, t.place, none, n, data, [], false, false⟩] }

/-- SLD. -/
def execSld (g : Guard) (m : MemOpt) (d : Nat) (a : Nat) (b : Operand) (s : State) : Host.Outcome State Fault Refusal :=
  s.once g 0 (Operand.priv b) fun x =>
    x.scalarAccess m (MemOp.shape (.load m.sx) m.scope false false true (some d) false) a b Acc.read []

/-- SST. -/
def execSst (g : Guard) (m : MemOpt) (d : Nat) (a : Nat) (b : Operand) (s : State) : Host.Outcome State Fault Refusal :=
  s.once g 0 (Operand.priv b) fun x =>
    x.scalarAccess m (MemOp.shape .store m.scope false false true none false) a b Acc.write [x.w.sreg d]

/-! ### Fences (R330) -/

/-- The operations that a path's instruction waits for: those that the warp had issued when it first tried (R330, R353). -/
def Ictx.holdAt (x : Ictx) : Nat :=
  match x.p.hold with
  | some (.ops n) => n
  | _ => x.w.work.nextOp

/-- The path goes on once they have been performed. -/
def Ictx.afterOps (x : Ictx) (which : MemOp → Bool) (r : Res) : Res :=
  let n := x.holdAt
  if x.w.opsDone n which then r
  else .moved (x.put (x.w.modPath x.c.path fun p => { p with hold := some (.ops n) }))

/-- FENCE: the path waits for every operation that the warp issued before it. -/
def execFence (g : Guard) (scope : Scope) (s : State) : Host.Outcome State Fault Refusal :=
  s.once g 0 false fun x =>
    let _ := scope
    x.afterOps (fun _ => true) (.done ((x.put { x.w with work := x.w.work.fenced }).landSeen x.c.warp x.act))

/-- FENCE.X: later engine reads follow the earlier stores, atomics and contributions (R191). -/
def execFenceX (g : Guard) (s : State) : Host.Outcome State Fault Refusal :=
  s.once g 0 false fun x => .done ((x.put { x.w with work := { x.w.work with xfence := x.w.work.nextOp } }).landSeen x.c.warp x.act)

end Sys2Proof.Machine
end

