-- ==== Sys2Proof/Machine/Atomic.lean ====
section
/-! DEFINITION. Atomics (R326, R327), deterministic add (R142 to R144, R328, R329), barrier objects (R150 to R152, R331, R332)
and remote operations (R333 to R335). -/

namespace Sys2Proof.Machine

/-! ### ATOM (R326) -/

/-- A float result of an atomic: a NaN is the canonical one. -/
def Fmt.canonical (f : Fmt) (r : FRes) : Nat := if f.isNan r.bits then f.canon else r.bits

/-- The new value. -/
def atomNew (a : Aop) (t : Ty) (old b c : Nat) : Nat :=
  let n := t.width
  let f := fmtOf t
  let iv (x : Nat) : Int := if t.signed then sext n x else x
  match a with
  | .add => if t.isFlt then f.canonical (f.add 0 old b) else (old + b) % 2 ^ n
  | .min => if t.isFlt then f.canonical (f.pick false old b) else if iv b < iv old then b else old
  | .max => if t.isFlt then f.canonical (f.pick true old b) else if iv old < iv b then b else old
  | .land => old &&& b
  | .lor => old ||| b
  | .lxor => old ^^^ b
  | .exch => b
  | .cas => if old = c then b else old

/-- What a lane receives of an old value: sign-extended for i32. -/
def atomOld (t : Ty) (old : Nat) : Word := if t == .i32 then BitVec.ofInt 64 (sext 32 old) else wordOf old

/-- The remote-atomic-permit check (R74, R75): through APER 1 without RAP, and through APER 2 without RAP or a match. -/
def permit (hostOk : Bool) (a : Word) (r : LaneCheck × State) : LaneCheck × State :=
  match r with
  | (.ok ts, s) =>
    if ts.any fun t => t.own == 1 && !t.rap then (.error (a, .fault 18 1), s)
    else if ts.any fun t => t.own == 2 && !(hostOk && t.rap) then (.error (a, .fault 18 2), s)
    else r
  | _ => r

/-- Operations that a PCIe AtomicOp matches (R327). -/
def hostAtomic (a : Aop) (t : Ty) : Bool := (a == .add || a == .exch || a == .cas) && !t.isFlt

/-- ATOM. -/
def execAtom (g : Guard) (t : Ty) (aop : Aop) (ord : Ord) (scope : Scope) (d : Option Nat) (a b c : Operand) (s : State) :
    Host.Outcome State Fault Refusal :=
  let cs := if aop == .cas then [c] else []
  let n := t.width / 8
  s.run fun x => x.allowed (privOf (a :: b :: cs))
    (x.perform (x.lanes g) (max (d.elim 0 (· + 1)) (topOf (a :: b :: cs))) (topOf [a])
      (MemOp.shape (.atom aop t) scope (ord == .acq || ord == .ar) (ord == .rel || ord == .ar) false d false)
      (fun s l =>
        let addr := x.src .b64 l a
        if addr.toNat % n ≠ 0 then faultAtAddr 19 0x01 addr s
        else permit (hostAtomic aop t) addr (x.one s .any addr n Acc.both))
      fun l ts =>
        let low (o : Operand) := wordOf ((x.src t l o).toNat % 2 ^ t.width)
        [⟨l, x.src .b64 l a, firstPlace ts, none, n, [low b], cs.map low, false, false⟩])

/-! ### Deterministic add slots (R142, R143) -/

/-- A slot's words as fields. -/
structure AddSlot where
  value : Nat
  act : Bool
  f64 : Bool
  dup : Bool
  idle : Bool
  expect : Nat
  next : Nat
deriving DecidableEq, Repr

def AddSlot.ofWords (w0 w1 : Word) : AddSlot :=
  ⟨w0.toNat, fld w1 63 1 == 1, fld w1 62 1 == 1, fld w1 61 1 == 1, fld w1 60 1 == 1, fld w1 16 16, fld w1 0 16⟩

def AddSlot.w1 (a : AddSlot) : Word :=
  wordOf (bitOf a.act 63 + bitOf a.f64 62 + bitOf a.dup 61 + bitOf a.idle 60 + place a.expect 16 + a.next)

def AddSlot.fmt (a : AddSlot) : Fmt := if a.f64 then Fmt.f64 else Fmt.f32

def AddSlot.add (a : AddSlot) (c : Word) : AddSlot :=
  let f := a.fmt
  { a with value := f.canonical (f.add 0 (a.value % 2 ^ f.width) (c.toNat % 2 ^ f.width)), next := a.next + 1 }

abbrev Held := Nat × Word × Option (Nat × Nat × Nat)

/-- Apply held contributions in rank order (R143), with the local stores that this completes. -/
def AddSlot.drain : Nat → AddSlot → List Held → AddSlot × List Held × List (Nat × Nat × Nat)
  | 0, a, hs => (a, hs, [])
  | fuel + 1, a, hs =>
    match hs.find? fun h => h.1 == a.next with
    | none => (a, hs, [])
    | some h =>
      let (a, hs, os) := AddSlot.drain fuel (a.add h.2.1) (hs.filter fun e => e.1 != h.1)
      (a, hs, h.2.2.toList ++ os)

def State.heldAt (s : State) (key : Nat) : List Held := ((s.work.det.find? fun d => d.key == key).map (·.early)).getD []

def State.setHeld (s : State) (key : Nat) (hs : List Held) : State :=
  s.modWork fun k =>
    let rest := k.det.filter fun d => d.key != key
    { k with det := if hs.isEmpty then rest else rest ++ [⟨key, hs⟩] }

def State.readSlot (s : State) (p : Place) : AddSlot := AddSlot.ofWords (s.readWord p 8) (s.readWord (p.add 8) 8)

def State.writeSlot (s : State) (p : Place) (a : AddSlot) : State := s.storeAt p (wordsBytes [wordOf a.value, a.w1])

/-- Stores completed by the agent. -/
def State.completeHeld (s : State) (os : List (Nat × Nat × Nat)) : State :=
  os.foldl (fun s o => s.laneDone o.1 o.2.1 o.2.2 []) s

/-- How the agent takes a contribution (R143, R328): the code of `FADDD`, whether it is held, and the state; none when it
must wait for a place. A slot with ACT 0 is looked at before the type. -/
def State.contribute (s : State) (t : Ty) (p : Place) (k : Nat) (c : Word) (org : Option (Nat × Nat × Nat)) :
    Option (Nat × Bool × State) :=
  let a := s.readSlot p
  let hs := s.heldAt p.num
  if !a.act then some (2, false, s.writeSlot p { a with idle := true })
  else if a.f64 != (t == .f64) then some (3, false, s.writeSlot p { a with dup := true })
  else if a.expect ≤ k || k < a.next || hs.any fun h => h.1 == k then some (1, false, s.writeSlot p { a with dup := true })
  else if k ≠ a.next then
    if hs.length < 64 then some (0, true, s.setHeld p.num (hs ++ [(k, c, org)])) else none
  else
    let (a, hs, os) := AddSlot.drain 64 (a.add c) hs
    let a := { a with act := a.next != a.expect }
    some (0, false, ((s.writeSlot p a).setHeld p.num hs).completeHeld os)

/-- FDSET at the agent (R143, R329): the old W1, and the state. -/
def State.prepareSlot (s : State) (t : Ty) (p : Place) (v : Word) (count : Nat) : Word × State :=
  let old := s.readWord (p.add 8) 8
  let os := (s.heldAt p.num).flatMap fun h => h.2.2.toList
  let a : AddSlot := ⟨v.toNat % 2 ^ t.width, true, t == .f64, false, false, count, 0⟩
  (old, ((s.writeSlot p a).setHeld p.num []).completeHeld os)

/-- An address leads to a vault through a window, whatever its entry permits (R70, R217). -/
def Ictx.toVault (x : Ictx) (s : State) (a : Word) (n : Nat) : Bool := ((x.spaceOf s .device a n).map Place.isVault).getD false

/-- The check of an address that must not lead to a vault, by itself or through a window: an operand fault before all others (R144, R217). -/
def Ictx.noVault (x : Ictx) (a : Word) (n : Nat) (r : LaneCheck × State) : LaneCheck × State :=
  match r with
  | (.ok [t], s) => if t.place.isVault then faultAtAddr 19 0x03 a s else (.ok [t], s)
  | (.error e, s) => if x.toVault s a n then faultAtAddr 19 0x03 a s else (.error e, s)
  | r => r

/-- A slot address: 16-byte aligned, not in a vault, through RAP, not in host memory (R144, R328, R329). -/
def Ictx.slotCheck (x : Ictx) (addr : Word) (acc : Acc) (s : State) : LaneCheck × State :=
  if fld addr 0 4 ≠ 0 then faultAtAddr 19 0x01 addr s
  else if fld addr 26 38 = 0 then faultAtAddr 19 0x03 addr s
  else x.noVault addr 16 (permit false addr (x.one s .any addr 16 acc))

/-- FADDD. -/
def execFaddd (g : Guard) (t : Ty) (scope : Scope) (d : Option Nat) (a b c : Operand) (s : State) :
    Host.Outcome State Fault Refusal :=
  s.run fun x => x.allowed (privOf [a, b, c])
    (x.perform (x.lanes g) (max (d.elim 0 (· + 1)) (topOf [a, b, c])) (topOf [a])
      (MemOp.shape (.faddd t) scope false false false d false)
      (fun s l => x.slotCheck (x.src .b64 l a) Acc.both s)
      fun l ts => [⟨l, x.src .b64 l a, firstPlace ts, none, 16, [wordOf ((x.src t l b).toNat % 2 ^ t.width)],
        [x.src .n64 l c], false, false⟩])

/-- FDSET. -/
def execFdset (g : Guard) (t : Ty) (scope : Scope) (d : Option Nat) (a b c : Operand) (s : State) :
    Host.Outcome State Fault Refusal :=
  s.run fun x => x.allowed (privOf [a, b, c])
    (x.perform (x.lanes g) (max (d.elim 0 (· + 1)) (topOf [a, b, c])) (topOf [a])
      (MemOp.shape (.fdset t) scope false false false d false)
      (fun s l =>
        let n := (x.src .n64 l c).toNat
        let addr := x.src .b64 l a
        if fld addr 0 4 = 0 && fld addr 26 38 ≠ 0 && (n = 0 || 65535 < n) then
          faultAtAddr 19 (if x.toVault s addr 16 then 0x03 else 0x04) addr s
        else x.slotCheck addr Acc.both s)
      fun l ts => [⟨l, x.src .b64 l a, firstPlace ts, none, 16, [wordOf ((x.src t l b).toNat % 2 ^ t.width)],
        [x.src .n64 l c], false, false⟩])

/-- No earlier lane of the instruction waits to contribute (R328). -/
def MemOp.lanesBefore (o : MemOp) (i : Nat) : Bool := (o.lanes.take i).all fun l => l.done || l.sent || l.place.isPod

/-- FADDD_ARRIVE: a contribution, or a slot's set-up, reaches its agent (R143, R328). A held contribution's store completes when
it is applied or discarded. -/
def execFadddArrive (warp op lane : Nat) (s : State) : Host.Outcome State Fault Refusal :=
  match s.laneReady warp op lane OpKind.isDet with
  | none => .next s
  | some (_, o, l) =>
    let c := l.data.getD 0 0
    let k := (l.cmp.getD 0 0).toNat
    match o.kind with
    | .faddd t =>
      if !o.lanesBefore lane then .next s
      else
        let org := if o.dst.isSome then none else some (warp, op, lane)
        match s.contribute t l.place k c org with
        | none => .next s
        | some (code, held, s) =>
          let s := s.join o l.place 16
          if held && org.isSome then .next (s.modLane warp op lane fun l => { l with sent := true })
          else .next (s.laneDone warp op lane [wordOf code])
    | .fdset t =>
      let (old, s) := s.prepareSlot t l.place c k
      .next ((s.tell o l.place 16).laneDone warp op lane [old])
    | _ => .next s

/-! ### Barrier objects (R150, R151) -/

/-- A barrier object's fields. -/
structure Bar where
  poison : Bool
  phase : Nat
  arr : Nat
  bytes : Int
  init : Nat
  cause : Nat
deriving DecidableEq, Repr

def Bar.ofWords (w0 w1 : Word) : Bar :=
  ⟨fld w0 63 1 == 1, fld w0 48 15, fld w0 32 16, sext 32 (fld w0 0 32), fld w1 32 16, fld w1 0 8⟩

def Bar.words (b : Bar) : List Word :=
  [wordOf (bitOf b.poison 63 + place b.phase 48 + place b.arr 32 + toBits 32 b.bytes), wordOf (place b.init 32 + b.cause)]

/-- A phase that is complete advances (R151). -/
def Bar.settle (b : Bar) : Bar × Bool :=
  if b.arr = 0 && b.bytes == 0 then ({ b with phase := (b.phase + 1) % 2 ^ 15, arr := b.init, bytes := 0 }, true) else (b, false)

def Bar.poisoned (b : Bar) (cause : Nat) : Bar := { b with poison := true, cause := cause }

/-- BYTES moves by `n`, within its range (R151). -/
def Bar.move (b : Bar) (n : Int) : Bar × Bool :=
  let m := b.bytes + n
  if m < -(2 ^ 31) || 2 ^ 31 - 1 < m then (b.poisoned 4, false) else ({ b with bytes := m }).settle

/-- `BARA` with byte count `n`. -/
def Bar.arrive (b : Bar) (n : Int) : Bar × Bool :=
  if b.poison then (b, false)
  else if b.arr = 0 then (b.poisoned 3, false)
  else ({ b with arr := b.arr - 1 }).move n

/-- A copy beat of `m` bytes. -/
def Bar.beat (b : Bar) (m : Nat) : Bar × Bool := if b.poison then (b, false) else b.move (-(m : Int))

def Bar.start (n : Nat) : Bar := ⟨false, 0, n, 0, n, 0⟩

def barBlock (core off : Nat) : Nat := vaultKey core off / 16

def State.readBar (s : State) (core off : Nat) : Bar :=
  Bar.ofWords (leWord (s.vaultRead core off 8)) (leWord (s.vaultRead core (off + 8) 8))

/-- Behaviour is undefined once a program has stored to the object; memory that no `BARI` has prepared reads as a barrier
only while it is zero (R150, R152). -/
def State.barUndefined (s : State) (core off : Nat) : Bool :=
  match KMap.find? s.dies.barriers (barBlock core off) with
  | some t => t
  | none => (s.vaultRead core off 16).any fun b => b != 0

/-- What becomes of the paths that wait at an object. -/
def State.wakeBar (s : State) (block code : Nat) : State :=
  let wake (q : Path) : Path := if q.barw = some (block, 0) then { q with barw := some (block, code) } else q
  let wakeWarp (e : Nat × Warp) : Nat × Warp :=
    if s.gangOnCore e.2.id.gang then (e.1, { e.2 with paths := e.2.paths.map fun p => p.map wake }) else e
  s.modWork fun k => { k with warps := k.warps.map wakeWarp }

/-- The vault controller writes an object. -/
def State.writeBar (s : State) (core off : Nat) (b : Bar) : State :=
  (s.vaultWrite core off (wordsBytes b.words)).modDies fun d =>
    { d with barriers := KMap.put d.barriers (barBlock core off) false }

/-- An event of an object: waiters of a completed phase or of a poisoned object go on; an object with undefined behaviour
takes free values. -/
def State.barEvent (s : State) (core off : Nat) (f : Bar → Bar × Bool) : State :=
  if s.barUndefined core off then
    let (w0, s) := s.fresh
    let (w1, s) := s.fresh
    s.vaultWrite core off (wordsBytes [w0, w1])
  else
    let b := s.readBar core off
    let (b', adv) := f b
    let s := s.writeBar core off b'
    if adv then s.wakeBar (barBlock core off) 1
    else if b'.poison && !b.poison then s.wakeBar (barBlock core off) (16 + b'.cause)
    else s

/-- `BARI`: whatever stood there. -/
def State.barInit (s : State) (core off n : Nat) : State :=
  (s.writeBar core off (Bar.start n)).wakeBar (barBlock core off) 2

/-- A barrier address: alignment, then the gang's vault space (R332). -/
def Ictx.barCheck (x : Ictx) (addr : Word) (s : State) : LaneCheck × State :=
  if fld addr 0 4 ≠ 0 then faultAtAddr 19 0x01 addr s else x.one s .vault addr 16 Acc.both

/-- BARI (R331). -/
def execBari (g : Guard) (a b : Operand) (s : State) : Host.Outcome State Fault Refusal :=
  s.run fun x => x.allowed (privOf [a, b])
    (x.perform (x.lanes g) (topOf [a, b]) (topOf [a]) (MemOp.shape .bari .plain false false false none false)
      (fun s l =>
        let n := (x.src .b64 l b).toNat
        let addr := x.src .b64 l a
        if fld addr 0 4 = 0 && (n = 0 || 65535 < n) then faultAtAddr 19 0x04 addr s else x.barCheck addr s)
      fun l ts => [⟨l, x.src .b64 l a, firstPlace ts, none, 16, [x.src .b64 l b], [], false, false⟩])

/-- BARA: a release (R196, R331). -/
def execBara (g : Guard) (a b : Operand) (s : State) : Host.Outcome State Fault Refusal :=
  s.run fun x => x.allowed (privOf [a, b])
    (x.perform (x.lanes g) (topOf [a, b]) (topOf [a]) (MemOp.shape .bara .plain false true false none false)
      (fun s l => x.barCheck (x.src .b64 l a) s)
      fun l ts => [⟨l, x.src .b64 l a, firstPlace ts, none, 16, [x.src .b64 l b], [], false, false⟩])

/-- BARRIER_ARRIVAL_APPLY: a `BARI` or `BARA` is applied to its object (R151, R331). -/
def execBarrierArrivalApply (warp op lane : Nat) (s : State) : Host.Outcome State Fault Refusal :=
  match s.laneReady warp op lane OpKind.isBar with
  | none => .next s
  | some (_, o, l) =>
    let n := l.data.getD 0 0
    match l.place with
    | .vault core off =>
      let s := if o.kind == .bari then (s.barInit core off n.toNat).carry false [] l.place 8
        else (s.join o l.place 8).barEvent core off fun b => b.arrive n.toInt
      .next (s.laneDone warp op lane [])
    | _ => .next s

/-- The path's warp has no barrier event of this object to come: the controller applies a warp's events of one object in issue order
(R331). -/
def Warp.barsDone (w : Warp) (core off : Nat) : Bool :=
  w.work.ops.all fun o => !o.kind.isBar || o.lanes.all fun l => l.done || l.place != .vault core off

/-- BARW: waits while PHASE is the named one; 0 advanced, which acquires what the arrivals released (R151); 1 poisoned, 2 re-initialised;
with E a poisoned object raises class 21 (R332). -/
def execBarw (g : Guard) (esc : Bool) (d : Nat) (a b : Operand) (s : State) : Host.Outcome State Fault Refusal :=
  s.once g 0 (privOf [a, b]) fun x =>
    let addr := x.uni .b64 a
    let put (s : State) (n : Nat) : Res := .done (s.modWarp x.c.warp fun w => w.setS d (wordOf n))
    let poisoned (cause : Nat) : Res := if esc then x.faultAt 21 cause 0 else put x.s 1
    if fld addr 0 4 ≠ 0 then x.faultAt 19 0x01 addr
    else match x.g.vaultPlace addr 16 with
      | .error (.fault c sub) => x.faultAt c sub addr
      | .error _ => x.wait
      | .ok t =>
        match t.place with
        | .vault core off =>
          let block := barBlock core off
          let passed := x.s.hear x.c.warp true t.place 8
          match x.p.barw with
          | some (_, 1) => put passed 0
          | some (_, 2) => put x.s 2
          | some (_, n + 16) => poisoned n
          | _ =>
            if !x.w.barsDone core off then x.wait
            else if x.s.barUndefined core off then
              let (k, s) := x.s.choose 4
              if k = 3 then .moved s else put s k
            else
              let o := x.s.readBar core off
              if o.poison then poisoned o.cause
              else if o.phase ≠ fld (x.uni .b64 b) 0 15 then put passed 0
              else .moved (x.put (x.w.modPath x.c.path fun p => { p with barw := some (block, 0) }))
        | _ => x.wait

/-! ### Remote operations (R333 to R335) -/

/-- RCAS4. -/
def execRcas4 (g : Guard) (scope : Scope) (words : Nat) (d : Option Nat) (a : Operand) (b c : Nat) (s : State) :
    Host.Outcome State Fault Refusal :=
  let run (l : Nat) (x : Ictx) (n : Nat) := (upTo words).map fun i => x.w.vreg (n + i) l
  s.run fun x => x.allowed (Operand.priv a)
    (x.perform (x.lanes g) (max (max (b + words) (c + words)) (max (d.elim 0 (· + words)) (Operand.top a 1))) (Operand.top a 1)
      (MemOp.shape (.rcas words) scope false false false d false)
      (fun s l =>
        let addr := x.src .b64 l a
        if fld addr 0 3 ≠ 0 then faultAtAddr 19 0x01 addr s
        else if 64 < addr.toNat % 64 + 8 * words then faultAtAddr 19 0x05 addr s
        else permit false addr (x.one s .any addr (8 * words) Acc.both))
      fun l ts => [⟨l, x.src .b64 l a, firstPlace ts, none, 8 * words, run l x b, run l x c, false, false⟩])

/-- Header and node of a `RENQ` in one space and vchip. -/
def samePlaceSpace (p q : Place) : Bool :=
  match p, q with
  | .hbm _ _, .hbm _ _ => true
  | .pod v _, .pod w _ => v == w
  | _, _ => false

/-- The places of a `RENQ`'s header and node are not in one space and vchip: an operand fault, whatever the entries permit (R217, R334). -/
def Ictx.apart (x : Ictx) (s : State) (h n : Word) : Bool :=
  match x.spaceOf s .device h 16, x.spaceOf s .device n 8 with
  | some p, some q => !samePlaceSpace p q
  | _, _ => false

/-- RENQ. -/
def execRenq (g : Guard) (scope : Scope) (d : Option Nat) (a b : Operand) (s : State) : Host.Outcome State Fault Refusal :=
  s.run fun x => x.allowed (privOf [a, b])
    (x.perform (x.lanes g) (max (d.elim 0 (· + 2)) (topOf [a, b])) (topOf [a, b])
      (MemOp.shape .renq scope false false false d false)
      (fun s l =>
        let h := x.src .b64 l a
        let n := x.src .b64 l b
        if fld h 0 4 ≠ 0 then faultAtAddr 19 0x01 h s
        else if fld n 0 3 ≠ 0 then faultAtAddr 19 0x01 n s
        else if fld h 26 38 = 0 then faultAtAddr 19 0x03 h s
        else if fld n 26 38 = 0 then faultAtAddr 19 0x03 n s
        else
          match andThen (permit false h (x.one s .device h 16 Acc.both)) fun s => x.one s .device n 8 Acc.write with
          | (.ok [t, u], s) =>
            if t.place.isVault then faultAtAddr 19 0x03 h s
            else if u.place.isVault then faultAtAddr 19 0x03 n s
            else if samePlaceSpace t.place u.place then (.ok [t, u], s)
            else faultAtAddr 19 0x06 n s
          | (.error e, s) =>
            if x.toVault s h 16 then faultAtAddr 19 0x03 h s
            else if x.toVault s n 8 then faultAtAddr 19 0x03 n s
            else if x.apart s h n then faultAtAddr 19 0x06 n s
            else (.error e, s)
          | r => r)
      fun l ts =>
        match ts with
        | [t, u] => [⟨l, x.src .b64 l a, t.place, some u.place, 16, [x.src .b64 l b], [0, 0], false, false⟩]
        | _ => [])

/-- RCHASE. -/
def execRchase (g : Guard) (scope : Scope) (hops : Nat) (d : Nat) (a b : Operand) (s : State) :
    Host.Outcome State Fault Refusal :=
  s.run fun x =>
    let off := x.index 0 b
    x.allowed (privOf [a, b])
    (x.perform (x.lanes g) (max (d + 2) (Operand.top a 1)) (Operand.top a 1)
      (MemOp.shape (.rchase hops off.toNat) scope false false false (some d) false)
      (fun s l =>
        let p := x.src .b64 l a
        let q := p + off
        if off.toNat ≤ 2040 && fld off 0 3 = 0 && fld q 0 3 ≠ 0 then faultAtAddr 19 0x01 q s
        else if fld q 26 38 = 0 then faultAtAddr 19 0x03 q s
        else if fld off 0 3 ≠ 0 || 2040 < off.toNat then faultAtAddr 19 (if x.toVault s q 8 then 0x03 else 0x0A) q s
        else x.noVault q 8 (permit false q (x.one s .device q 8 Acc.read)))
      fun l ts =>
        let p := x.src .b64 l a
        let pl := match firstPlace ts with
          | .pod v o => .pod v ((o + 2 ^ 40 - off.toNat) % 2 ^ 40)
          | q => q
        [⟨l, p, pl, none, 8, [p], [off, 0], false, false⟩])

/-- A pointer that the agent follows: its place, or the status that ends the operation: 2 for a failed translation or
permission, 3 for an uncorrectable error, 4 for another space (R334, R335); none where the agent waits for a table in host memory (R27). -/
def State.follow (s : State) (v : Nat) (a : Word) (acc : Acc) : Except (Option Nat) Place × State :=
  if fld a 26 38 = 0 || inPodWindow a then (.error (some 4), s)
  else if fld a 0 3 ≠ 0 then (.error (some 2), s)
  else
    let (r, s) := s.translate v a acc
    match r with
    | .error (.fault _ _) => (.error (some 2), s)
    | .error (.violation gpa bits) => (.error (some 2), s.freezeMaster v gpa bits)
    | .error .held => (.error none, s)
    | .ok t =>
      match t.place with
      | .hbm pa o => if s.badLine (.hbm pa o) 8 then (.error (some 3), s) else (.ok (.hbm pa o), s)
      | _ => (.error (some 4), s)

/-- One step of a local `RENQ` (R334). -/
def State.renqStep (s : State) (v wid opid i : Nat) (o : MemOp) (l : LaneOp) : State :=
  let n := l.data.getD 0 0
  let prev := l.cmp.getD 1 0
  match (l.cmp.getD 0 0).toNat with
  | 0 =>
    (s.storeAt (l.place2.getD l.place) (wordBytes 0 8)).modLane wid opid i fun l => { l with cmp := [1, 0] }
  | 1 =>
    let tail := s.readWord (l.place.add 8) 8
    let s := s.hear wid o.acq (l.place.add 8) 8
    ((s.storeAt (l.place.add 8) (wordBytes n 8)).tell o (l.place.add 8) 8).modLane wid opid i fun l => { l with cmp := [2, tail] }
  | _ =>
    if prev == 0 then (s.storeAt l.place (wordBytes n 8)).laneDone wid opid i [prev, 1]
    else
      match s.follow v prev Acc.write with
      | (.ok p, s) => (s.storeAt p (wordBytes n 8)).laneDone wid opid i [prev, 0]
      | (.error (some st), s) => s.laneDone wid opid i [prev, wordOf (if st = 4 then 2 else st)]
      | (.error none, _) => s

/-- One hop of a local `RCHASE` (R335). -/
def State.chaseStep (s : State) (v wid opid i hops : Nat) (acq : Bool) (l : LaneOp) : State :=
  let p := l.data.getD 0 0
  let off := l.cmp.getD 0 0
  let n := (l.cmp.getD 1 0).toNat
  let q := s.readWord l.place 8
  let t := s.hear wid acq l.place 8
  if q == 0 then t.laneDone wid opid i [p, wordOf (n + 256)]
  else if n + 1 = hops then t.laneDone wid opid i [q, wordOf hops]
  else
    match t.follow v (q + off) Acc.read with
    | (.ok pl, t) => t.modLane wid opid i fun l => { l with place := pl, data := [q], cmp := [off, wordOf (n + 1)] }
    | (.error (some st), t) => t.laneDone wid opid i [q, wordOf (n + 1 + 256 * st)]
    | (.error none, _) => s

/-- Compare-and-swap of several words (R333). -/
def State.rcasAt (s : State) (p : Place) (new old : List Word) : List Word × State :=
  let now := (upTo new.length).map fun i => s.readWord (p.add (8 * i)) 8
  (now, s.storeAt p (wordsBytes (if now == old then new else now)))

/-- ATOMIC_PERFORMED: an atomic or remote operation's lane, or its next step, is performed at its home (R141, R326, R333 to
R335). -/
def execAtomicPerformed (warp op lane : Nat) (s : State) : Host.Outcome State Fault Refusal :=
  match s.laneReady warp op lane OpKind.isAtomic with
  | none => .next s
  | some (w, o, l) =>
    let v := s.slotOf w
    match o.kind with
    | .atom a t =>
      let old := leNat (s.readPlace l.place l.size)
      let new := atomNew a t old (l.data.getD 0 0).toNat (l.cmp.getD 0 0).toNat
      .next ((((s.hear warp o.acq l.place l.size).storeAt l.place (wordBytes (wordOf new) l.size)).tell o l.place l.size).laneDone
        warp op lane [atomOld t old])
    | .rcas _ =>
      let (now, s) := (s.hear warp o.acq l.place l.size).rcasAt l.place l.data l.cmp
      .next ((s.tell o l.place l.size).laneDone warp op lane now)
    | .renq => .next (s.renqStep v warp op lane o l)
    | .rchase hops _ => .next (s.chaseStep v warp op lane hops o.acq l)
    | _ => .next s

end Sys2Proof.Machine
end

