-- ==== Sys2Proof/Machine/Copy.lean ====
section
/-! DEFINITION. Copies: issue (R336 to R341), channels, beats, the fill pointer and errors (R145 to R149, R190). -/

namespace Sys2Proof.Machine

/-! ### Issue -/

/-- A gang as far as its vault addresses go (R135). -/
def Copy.gang (c : Copy) : Gang :=
  ⟨0, c.slot, 0, c.words, 0, c.wgs, .resident, none, ⟨⟨[], [], [], [], []⟩, []⟩, 0, [], false⟩

/-- Barrier events that the warp has issued and the controller has not applied (R337). -/
def WarpWork.bars (k : WarpWork) : List Nat := (k.ops.filter fun o => o.kind.isBar).map (·.id)

def isVaultAddr (a : Word) : Bool := fld a 26 38 == 0

/-- A vault operand of `n` bytes outside the gang's vault space. -/
def Ictx.badVault (x : Ictx) (a : Word) (n : Nat) : Bool :=
  isVaultAddr a && (match x.g.vaultPlace a n with | .ok _ => false | .error _ => true)

/-- A copy's barrier: its faults in the order of their SUBs (R323, R332, R337). -/
def barFaults (b : Option Word) : List Nat :=
  match b with
  | none => []
  | some a => (if fld a 0 4 ≠ 0 then [0x01] else []) ++ (if a == 0 then [0x08] else [])

/-- Issue of a copy (R337): `bad` lists its other operand faults, `ends` its vault operands with their bytes, checked whatever the
length (R135; log entry 23). -/
def Ictx.copy (x : Ictx) (f : Nat) (k : CopyKind) (dst src : Word) (len : Nat) (bar : Option Word) (bad : List Nat)
    (ends : List (Word × Nat)) : Res :=
  x.withHandle f fun x =>
    if 31 ≤ x.w.cnt.cp then x.wait
    else
      let subs := sortNat (bad ++ barFaults bar)
      match subs with
      | n :: _ => x.fault 19 n
      | [] =>
        let ends := ends ++ (match bar with | none => [] | some a => [(a, 16)])
        match ends.find? fun e => x.badVault e.1 e.2 || (bar == some e.1 && !isVaultAddr e.1) with
        | some e => x.faultAt 16 3 e.1
        | none =>
          if len = 0 then .done (x.put (x.w.setHandle f ((Handle.issue 0).complete 0 0 0)))
          else
            let w := x.w.setHandle f (Handle.issue 0)
            let w := { w with cnt := { w.cnt with cp := w.cnt.cp + 1 } }
            let id := x.s.work.nextCopy
            let c : Copy := ⟨id, x.c.warp, f, x.w.id.core, x.s.streamOf x.w, x.v, x.g.words, x.g.wgs, k, dst, src, len, 0, bar,
              false, [], x.before ++ (if bar.isSome then x.w.work.bars else []), x.w.work.xfence, false, 0, none, [], x.w.work.missed,
              x.w.work.nextOp⟩
            .done ((x.put w).modWork fun q => { q with copies := KMap.put q.copies id c, nextCopy := id + 1 })

def tooLong (n : Nat) : List Nat := if 2 ^ 32 ≤ n then [0x07] else []

/-- COPY (R336). -/
def execCopy (g : Guard) (ext : Bool) (d : Nat) (a b c : Operand) (bar : Option Operand) (s : State) :
    Host.Outcome State Fault Refusal :=
  s.once g 0 (privOf (a :: b :: c :: bar.toList)) fun x =>
    let _ := ext
    let len := (x.uni .b64 c).toNat
    let dst := x.uni .b64 a
    let src := x.uni .b64 b
    x.copy d .linear dst src len (bar.map (x.uni .b64)) (tooLong len) [(dst, len), (src, len)]

/-- Rows of a strided side: the address of each, as it wraps (R339). -/
def rowsOf (base : Word) (s1 s2 : Int) (n1 n2 : Nat) : List Word :=
  (upTo n2).flatMap fun (q : Nat) => (upTo n1).map fun (r : Nat) => base + BitVec.ofInt 64 ((q : Int) * s2 + (r : Int) * s1)

/-- COPYS (R339). -/
def execCopys (g : Guard) (d : Nat) (a b c : Operand) (bar : Option Operand) (e1 e2 e3 : Nat) (s : State) :
    Host.Outcome State Fault Refusal :=
  s.once g 0 (privOf (a :: b :: c :: bar.toList)) fun x =>
    let row := (x.uni .b64 c).toNat
    let dst := x.uni .b64 a
    let src := x.uni .b64 b
    let n1 := fld (x.w.sreg e3) 0 32
    let n2 := fld (x.w.sreg e3) 32 32
    let s1 := (x.w.sreg e1).toInt
    let s2 := (x.w.sreg (e1 + 1)).toInt
    let d1 := (x.w.sreg e2).toInt
    let d2 := (x.w.sreg (e2 + 1)).toInt
    let len := row * n1 * n2
    let rows (base : Word) (u v : Int) : List (Word × Nat) :=
      (base, 0) :: if len = 0 || 2 ^ 32 ≤ len then [] else (rowsOf base u v n1 n2).map fun w => (w, row)
    x.copy d (.strided row s1 s2 d1 d2 n1 n2) dst src len (bar.map (x.uni .b64)) (tooLong len)
      (rows dst d1 d2 ++ rows src s1 s2)

/-- COPYX (R148, R340). -/
def execCopyx (g : Guard) (wide : Bool) (d : Nat) (a b c : Operand) (bar : Option Operand) (e1 : Operand) (s : State) :
    Host.Outcome State Fault Refusal :=
  s.once g 0 (privOf (a :: b :: c :: e1 :: bar.toList)) fun x =>
    let vals := (x.uni .b64 c).toNat
    let e := if wide then 2 else 1
    let dst := x.uni .b64 a
    let src := x.uni .b64 b
    let md := x.uni .b64 e1
    let bad := (if isVaultAddr dst then [] else [0x03]) ++ tooLong (2 * vals) ++ (if vals % (2 * e) ≠ 0 then [0x09] else [])
    x.copy d (.expand wide md) dst src (2 * vals) (bar.map (x.uni .b64)) bad
      [(dst, 2 * vals), (src, vals), (md, (vals / (2 * e) + 1) / 2)]

/-! ### Addresses (R146, R339) -/

/-- The run of contiguous addresses around a linear index: its first index, its length, and the address of its first byte. -/
structure Run where
  first : Nat
  len : Nat
  addr : Word
deriving DecidableEq, Repr

def Copy.rowRun (row : Nat) (base : Word) (u v : Int) (n1 : Nat) (i : Nat) : Run :=
  let k := i / row
  ⟨k * row, row, base + BitVec.ofInt 64 ((k / n1 : Nat) * v + (k % n1 : Nat) * u)⟩

/-- Destination run of a linear index. -/
def Copy.dstRun (c : Copy) (i : Nat) : Run :=
  match c.kind with
  | .strided row _ _ d1 d2 n1 _ => Copy.rowRun row c.dst d1 d2 n1 i
  | _ => ⟨0, c.len, c.dst⟩

/-- Source run of a source index: for `COPYX`, values first and metadata from `len` on. -/
def Copy.srcRun (c : Copy) (j : Nat) : Run :=
  match c.kind with
  | .strided row s1 s2 _ _ n1 _ => Copy.rowRun row c.src s1 s2 n1 j
  | .expand _ md => if j < c.len then ⟨0, c.len / 2, c.src⟩ else ⟨c.len, c.len, md⟩
  | .linear => ⟨0, c.len, c.src⟩

/-- The address of a source index. -/
def Copy.srcAddr (c : Copy) (j : Nat) : Word :=
  let r := c.srcRun j
  r.addr + wordOf (j - r.first)

/-- Bytes of the beat at a linear index: to a 64-byte destination boundary, the row's end or the copy's end (R146, R339). -/
def Copy.beatLen (c : Copy) (i : Nat) : Nat :=
  let r := c.dstRun i
  let a := r.addr + wordOf (i - r.first)
  min (64 - a.toNat % 64) (r.first + r.len - i)

def Copy.dstAddr (c : Copy) (i : Nat) : Word :=
  let r := c.dstRun i
  r.addr + wordOf (i - r.first)

/-- The 64-byte source unit that holds a source index: first index, bytes, address. -/
def Copy.unit (c : Copy) (j : Nat) : Run :=
  let r := c.srcRun j
  let a := r.addr + wordOf (j - r.first)
  let back := min (a.toNat % 64) (j - r.first)
  let first := j - back
  ⟨first, min (64 - (a.toNat % 64 - back)) (r.first + r.len - first), a - wordOf back⟩

/-- Bytes of a group's values and of the destination that it fills (R148). -/
def elemBytes (wide : Bool) : Nat := if wide then 2 else 1

/-- Source indices that destination bytes `i` to `i + n - 1` need. -/
def Copy.needs (c : Copy) (i n : Nat) : List Nat :=
  match c.kind with
  | .expand wide _ =>
    let e := elemBytes wide
    let g0 := i / (4 * e)
    let g1 := (i + n - 1) / (4 * e)
    (upTo ((g1 - g0 + 1) * 2 * e)).map (fun k => g0 * 2 * e + k) ++
      (upTo (g1 / 2 - g0 / 2 + 1)).map fun k => c.len + g0 / 2 + k
  | _ => (upTo n).map fun k => i + k

/-- Units that hold them. -/
def Copy.units (c : Copy) (i n : Nat) : List Run := ((c.needs i n).map c.unit).dedup

/-- A source byte that has been read. -/
def Copy.byte? (c : Copy) (j : Nat) : Option Byte :=
  let u := c.unit j
  match c.ahead.find? fun e => e.1 == u.first with
  | some (_, some bs) => bs[j - u.first]?
  | _ => none

/-- Every needed source byte has been read. -/
def Copy.ready (c : Copy) (i n : Nat) : Bool := (c.needs i n).all fun j => (c.byte? j).isSome

def Copy.srcByte (c : Copy) (j : Nat) : Byte := (c.byte? j).getD 0

/-- A group's nibble: first and second position (R148). -/
def Copy.nibble (c : Copy) (g : Nat) : Nat × Nat :=
  let b := (c.srcByte (c.len + g / 2)).toNat / 16 ^ (g % 2) % 16
  (b % 4, b / 4)

/-- Destination byte `i`, and whether its group has a metadata error. -/
def Copy.outByte (c : Copy) (i : Nat) : Byte × Bool :=
  match c.kind with
  | .expand wide _ =>
    let e := elemBytes wide
    let g := i / (4 * e)
    let (p, q) := c.nibble g
    let el := i / e % 4
    if q ≤ p then (0, true)
    else if el = p then (c.srcByte (g * 2 * e + i % e), false)
    else if el = q then (c.srcByte (g * 2 * e + e + i % e), false)
    else (0, false)
  | _ => (c.srcByte i, false)

/-! ### Engine errors (R149) -/

/-- What an engine's access meets. -/
inductive EngRes where
  | local (p : Place)
  | pod (vch off : Nat)
  | stage1
  | stage2 (gpa acc : Nat)
  | bad
  | held                          -- a table in host memory that the link die does not reach now (R27)
deriving DecidableEq, Repr

/-- An engine's address resolved for `n` bytes (R145, R149, R322). -/
def State.engResolve (s : State) (v : Nat) (g : Gang) (a : Word) (n : Nat) (acc : Acc) : EngRes × State :=
  match s.resolve v g .any a n acc with
  | (.error (.fault _ _), s) => (.stage1, s)
  | (.error (.violation gpa bits), s) => (.stage2 gpa bits, s)
  | (.error .held, s) => (.held, s)
  | (.ok t, s) =>
    match t.place with
    | .pod d o => (.pod d o, s)
    | p => if acc.r && s.badLine p n then (.bad, s) else (.local p, s)

/-- The error that a result stands for. -/
def EngRes.err? : EngRes → Option EngineErr
  | .stage1 => some .stage1
  | .stage2 _ _ => some .stage2
  | .bad => some .uncorrectable
  | _ => none

/-- STATUS of an error (R294). -/
def errStatus : EngineErr → Nat
  | .stage1 => 0x02
  | .stage2 => 0x08
  | .uncorrectable => 0x03
  | .abandoned => 0x04

/-- CAUSE of a barrier (R150). -/
def errCause : EngineErr → Nat
  | .stage1 => 1
  | .stage2 => 1
  | .uncorrectable => 2
  | .abandoned => 5

/-! ### Beats -/

def State.setCopy (s : State) (c : Copy) : State := s.modWork fun k => { k with copies := KMap.put k.copies c.id c }

def State.dropCopy (s : State) (id : Nat) : State := s.modWork fun k => { k with copies := KMap.erase k.copies id }

/-- Gang records stand under owner 64 and the vchip's key index (R97, R107). -/
def State.saveOwner (s : State) (g : Gang) : Owner := ⟨64, ((s.vchip? g.slot).map (·.keyIx)).getD 0⟩

/-- The vault bytes of a gang's record: where they belong in the vaults, where they stand in HBM, how many. -/
def Gang.spans (g : Gang) (r : Saved) : List (Nat × Nat × Nat) :=
  (g.wgs.zip r.parts).map fun e => (vaultKey e.1.core (e.1.vault + e.2.lo), r.base + e.2.voff, e.2.len)

/-- The vaults as a gang's record has them. -/
def State.recordVault (s : State) (g : Gang) (r : Saved) : Memory :=
  (g.spans r).foldl (fun m e => Memory.setBytes m e.1 (s.hbmRead (s.saveOwner g) e.2.1 e.2.2)) []

/-- What a warp's engine reads at a place: the vault of a gang that is off its cores stands in its record (R106). -/
def State.warpBytes (s : State) (wid : Nat) (q : Place) (n : Nat) : List Byte :=
  match (s.warp? wid).bind fun w => s.gang? w.id.gang with
  | none => s.readPlace q n
  | some g =>
    match q, g.saved with
    | .vault _ _, some r => { s with dies := { s.dies with vault := s.recordVault g r } }.readPlace q n
    | _, _ => s.readPlace q n

/-- Act on the vault bytes and barrier objects of a saved gang's record (R106). -/
def State.inRecord (s : State) (gid : Nat) (f : State → State) : State :=
  match s.gang? gid with
  | none => f s
  | some g =>
    match g.saved with
    | none => f s
    | some r =>
      let own (k : KMap Warp) : KMap Warp := k.filter fun (e : Nat × Warp) => e.2.id.gang == gid
      let t := { s with
        dies := { s.dies with vault := s.recordVault g r, barriers := r.barriers }
        work := { s.work with warps := own s.work.warps, gangs := KMap.put s.work.gangs gid { g with st := .stopping } } }
      let u := f t
      let back (e : Nat × Warp) : Nat × Warp := (e.1, (KMap.find? u.work.warps e.1).getD e.2)
      let g' := { g with saved := some { r with barriers := u.dies.barriers } }
      let s := { s with
        free := u.free
        work := { s.work with warps := s.work.warps.map back, gangs := KMap.put s.work.gangs gid g' } }
      (g.spans r).foldl (fun s e => s.hbmWrite (s.saveOwner g) e.2.1 (Memory.bytes u.dies.vault e.1 e.2.2)) s

/-- An event of a copy's barrier object. -/
def State.copyBar (s : State) (c : Copy) (f : Bar → Bar × Bool) : State :=
  match c.barrier with
  | none => s
  | some a =>
    match c.gang.vaultPlace a 16 with
    | .error _ => s
    | .ok t =>
      match t.place, s.warp? c.warp with
      | .vault core off, some w => s.inRecord w.id.gang fun s => s.barEvent core off f
      | .vault core off, none => s.barEvent core off f
      | _, _ => s

/-- A copy's handle completes and its counter falls (R131). -/
def State.endCopy (s : State) (c : Copy) (status : Nat) (info : Word) : State :=
  let s := s.dropCopy c.id
  (s.modWarp c.warp fun w =>
    let w := w.completeHandle c.f status 0 info
    { w with cnt := { w.cnt with cp := w.cnt.cp - 1 } }).settleWarp c.warp

/-- A started copy fails (R149): it stops at F, its barrier is poisoned; a violation freezes the vchip, and the handle
completes after the resume. -/
def State.failCopy (s : State) (c : Copy) (e : EngineErr) (a : Word) (gpa acc : Nat) : State :=
  let s := s.copyBar c fun b => if b.poison then (b, false) else (b.poisoned (errCause e), false)
  match e with
  | .stage2 => (s.setCopy { c with err := some 0x08, src := a }).freezeMaster c.slot gpa acc
  | e => s.endCopy c (errStatus e) a

/-- Bytes [i, i + n) have been delivered: F moves, the barrier counts, and the last beat completes the copy (R146, R151). -/
def State.delivered (s : State) (c : Copy) (n : Nat) : State :=
  let c := { c with fill := c.fill + n }
  let s := (s.setCopy c).modWarp c.warp fun w => w.setHandle c.f { w.handle c.f with fill := c.fill }
  let s := s.copyBar c fun b => b.beat n
  if c.len ≤ c.fill then s.endCopy c (if c.metaErr then 0x05 else 0) 0 else s

/-- The engines of a slot run: not frozen, clocks running. -/
def State.enginesRun (s : State) (v : Nat) : Bool := !s.isFrozen v && s.clocksRun

/-- What goes before an engine's reads, and the warp's earlier barrier events when a barrier is named, has been performed (R190, R191,
R337). -/
def State.copyMayRead (s : State) (c : Copy) : Bool :=
  s.engineMayRead c.warp c.after c.xfence && (c.barrier.isNone || s.idsDone c.warp c.after fun o => o.kind.isBar)

/-- A channel among all cores' (R145). -/
def Copy.channel (c : Copy) : Nat := 4 * c.core + c.f % 4

/-- What a channel's earlier copies have written lands before a later one's events (R190). -/
def State.landChannel (s : State) (k : Nat) : State :=
  s.work.warps.foldl (fun s (e : Nat × Warp) => s.landWhich e.1 fun x => x.chan == some k) s

/-- COPY_START: a copy starts when every earlier copy of its channel has ended; those of gangs off their cores are not on it (R145,
R108). -/
def execCopyStart (copy : Nat) (s : State) : Host.Outcome State Fault Refusal :=
  match KMap.find? s.work.copies copy with
  | none => .next s
  | some c =>
    let first := s.work.copies.all fun e => !(e.2.channel == c.channel && e.1 < copy && s.warpResident e.2.warp)
    if c.started || !first || !s.enginesRun c.slot || !s.warpResident c.warp || !s.copyMayRead c then .next s
    else .next ((s.landChannel c.channel).setCopy { c with started := true })

/-- The values that a copy may read in an aligned word beside the one that stands there (R147): those since the issue of the warp's most
recent plain store there, where the copy may miss that one. -/
def State.pastOf (s : State) (c : Copy) (q : Place) : List Word :=
  match s.warp? c.warp with
  | none => []
  | some w =>
    match (w.work.past.filter fun e => e.op < c.mark && e.place == q).getLast? with
    | some e => if c.past.contains e.op then e.vals.filter (· != s.readWord q 8) else []
    | none => []

/-- The bytes that a copy reads at a place: each aligned word as it stands or as it stood, which one is unspecified (R147). -/
def State.copyBytes (s : State) (c : Copy) (p : Place) (n : Nat) : List Byte × State :=
  if c.past.isEmpty then (s.readPlace p n, s)
  else
    let (bs, s) := (p.words n).foldl (fun (r : List Byte × State) q =>
      let (bs, s) := r
      match s.pastOf c q with
      | [] => (bs ++ s.readPlace q 8, s)
      | vs => let (k, s) := s.choose (vs.length + 1)
        (bs ++ (if k = 0 then s.readPlace q 8 else wordBytes (vs.getD (k - 1) 0) 8), s)) ([], s)
    ((bs.drop (p.num % 8)).take n, s)

/-- Read one source unit, unless it has been read or asked for. -/
def State.readUnit (s : State) (c : Copy) (u : Run) : Copy × State :=
  if c.ahead.any fun e => e.1 == u.first then (c, s)
  else
    match s.engResolve c.slot c.gang u.addr u.len Acc.read with
    | (.local p, s) =>
      if s.placeOpen c.slot p then
        let (bs, s) := s.copyBytes c p u.len
        ({ c with ahead := c.ahead ++ [(u.first, some bs)] }, s)
      else (c, s)
    | (.pod d o, s) =>
      ({ c with ahead := c.ahead ++ [(u.first, none)] },
        s.enqueueRequest ⟨c.slot, d, c.stream⟩ ⟨2, o, 0, 0, 0, 0, false, u.len, 0, [], .copy c.id u.first, none⟩)
    | (_, s) => (c, s)

/-- Read what the next `beats` beats from `i` on need. -/
def State.readAhead : Nat → State → Copy → Nat → Copy × State
  | 0, s, c, _ => (c, s)
  | beats + 1, s, c, i =>
    if c.len ≤ i then (c, s)
    else
      let n := c.beatLen i
      let (c, s) := (c.units i n).foldl (fun (r : Copy × State) u => State.readUnit r.2 r.1 u) (c, s)
      State.readAhead beats s c (i + n)

/-- Units that no byte from `i` on needs. -/
def Copy.trim (c : Copy) (i : Nat) : Copy :=
  if c.len ≤ i then { c with ahead := [], early := [] }
  else
    let c := { c with early := c.early.filter fun e => i < e.1 + e.2 }
    let low := match c.kind with
      | .expand wide _ => i / (4 * elemBytes wide) * 2 * elemBytes wide
      | _ => i
    { c with ahead := c.ahead.filter fun e => c.len ≤ e.1 || low < e.1 + 64 }

/-- Pod beats of a copy that have been handed to the fabric and not acknowledged. -/
def State.podBeats (s : State) (copy : Nat) : Nat :=
  let mine (typ : Nat) (o : Origin) : Bool := typ == 1 && (match o with | .copy c _ => c == copy | _ => false)
  (s.fabric.src.map fun x => (x.sent.filter fun p => mine p.pkt.typ p.origin).length + (x.queued.filter fun r => mine r.typ r.origin).length).sum

/-- Runs of consecutive numbers: first and length. -/
def runsOf : List Nat → List (Nat × Nat)
  | [] => []
  | k :: ks =>
    match runsOf ks with
    | (j, n) :: rs => if k + 1 = j then (k, n + 1) :: rs else (k, 1) :: (j, n) :: rs
    | [] => [(k, 1)]

/-- A destination byte holds its copied value already (R146). -/
def Copy.taken (c : Copy) (i : Nat) : Bool := c.early.any fun e => e.1 ≤ i && i < e.1 + e.2

/-- A beat's bytes at its home: the words that took their copied values early are not written again. A beat that a barrier counts is
performed at once (R190). -/
def State.beatStore (s : State) (c : Copy) (i : Nat) (p : Place) (bs : List Byte) : State :=
  let put (s : State) (p : Place) (bs : List Byte) : State :=
    if c.barrier.isSome then (s.storeAt p bs).cutPast p bs.length
    else s.engineStore c.warp (some c.channel) c.f (i + bs.length) p bs
  if c.early.isEmpty then put s p bs
  else (runsOf ((upTo bs.length).filter fun k => !c.taken (i + k))).foldl
    (fun s r => if c.barrier.isSome then (s.storeAt (p.add r.1) ((bs.drop r.1).take r.2)).cutPast (p.add r.1) r.2
      else s.engineStore c.warp (some c.channel) c.f (i + bs.length) (p.add r.1) ((bs.drop r.1).take r.2)) s

/-- COPY_BEAT: the channel reads up to `ahead` beats past the next one, at most 32 in flight with those sent (R154), and delivers the next
beat when its bytes have been read. A pod beat is delivered when its packet is acknowledged (R146). -/
def execCopyBeat (copy : Nat) (ahead : Nat) (s : State) : Host.Outcome State Fault Refusal :=
  match KMap.find? s.work.copies copy with
  | none => .next s
  | some c =>
    if !c.started || c.err.isSome || !s.enginesRun c.slot || !s.warpResident c.warp then .next s
    else
      let i := c.fill + c.inPod
      let room := 32 - s.podBeats copy
      let (c, s) := State.readAhead (min (min ahead 31 + 1) room) s c i
      let s := s.setCopy c
      if c.len ≤ i || room = 0 then .next s
      else
        let n := c.beatLen i
        if !c.ready i n then .next s
        else
          let out := (upTo n).map fun k => c.outByte (i + k)
          let bs := out.map (·.1)
          let c := { c with metaErr := c.metaErr || out.any (·.2) }
          match s.engResolve c.slot c.gang (c.dstAddr i) n Acc.write with
          | (.local p, s) =>
            if c.inPod ≠ 0 || !s.placeOpen c.slot p then .next s
            else
              .next ((s.beatStore c i p bs).delivered (c.trim (i + n)) n)
          | (.pod d o, s) =>
            .next ((s.setCopy { c.trim (i + n) with inPod := c.inPod + n }).enqueueRequest ⟨c.slot, d, c.stream⟩
              ⟨1, o, 0, 0, n, 0, false, 0, 0, bs, .copy copy i, none⟩)
          | (_, s) => .next s

/-- A destination word that a started copy has not delivered takes its copied value early, once: which one it holds is unspecified (R146). -/
def State.earlyWord (s : State) (copy idx : Nat) : State :=
  match KMap.find? s.work.copies copy with
  | none => s
  | some c =>
    if !c.started || c.err.isSome || !s.enginesRun c.slot || !s.warpResident c.warp || c.len ≤ idx || idx < c.fill + c.inPod then s
    else
      let r := c.dstRun idx
      let back := min ((c.dstAddr idx).toNat % 8) (idx - r.first)
      let i := idx - back
      let n := min (8 - (c.dstAddr i).toNat % 8) (r.first + r.len - i)
      if i < c.fill + c.inPod || c.taken i || !c.ready i n then s
      else
        match s.engResolve c.slot c.gang (c.dstAddr i) n Acc.write with
        | (.local p, s) =>
          if s.placeOpen c.slot p then
            ((s.storeAt p ((upTo n).map fun k => (c.outByte (i + k)).1)).cutPast p n).setCopy { c with early := c.early ++ [(i, n)] }
          else s
        | (_, s) => s

/-- The first error that a copy's next reads or its next delivery meet: with the address. -/
def State.copyError (s : State) (c : Copy) : Option (EngRes × Word) :=
  let i := c.fill + c.inPod
  if c.len ≤ i then none
  else
    let n := c.beatLen i
    let reads := (c.units i n).filterMap fun u =>
      if c.ahead.any fun e => e.1 == u.first then none
      else
        let r := (s.engResolve c.slot c.gang u.addr u.len Acc.read).1
        if r.err?.isSome then some (r, u.addr) else none
    match reads with
    | r :: _ => some r
    | [] =>
      let r := (s.engResolve c.slot c.gang (c.dstAddr i) n Acc.write).1
      if r.err?.isSome then some (r, c.dstAddr i) else none

/-- COPY_FAULT: the copy's next access meets this error (R149). An abandoned stream ends a copy in its own step (R40). -/
def execCopyFault (copy : Nat) (err : EngineErr) (s : State) : Host.Outcome State Fault Refusal :=
  match KMap.find? s.work.copies copy with
  | none => .next s
  | some c =>
    if !c.started || c.err.isSome || !s.enginesRun c.slot || !s.warpResident c.warp then .next s
    else
      match s.copyError c with
      | none => .next s
      | some (r, a) =>
        if r.err? ≠ some err then .next s
        else
          match r with
          | .stage2 gpa acc => .next (s.failCopy c err a gpa acc)
          | _ => .next (s.failCopy c err a 0 0)

end Sys2Proof.Machine
end

