-- ==== Sys2Proof/Machine/Grid.lean ====
section
/-! DEFINITION. Partitioned grids and the halo engine: descriptors, bindings, tags, halo messages, and GBIND, LDG, STG, HPUB and
HWAIT (R155 to R169, R361 to R369). -/

namespace Sys2Proof.Machine

/-! ### The descriptor (R155) -/

/-- A binding's fields of W0 to W5 and the constants. -/
structure Desc where
  gridid : Nat
  ndim : Nat
  etype : Nat
  ncomp : Nat
  okind : Nat
  d : Nat
  spol : Bool
  stall : Nat
  vbase : Nat
  ext : List Nat                  -- owned extents x, y, z
  own : List Nat                  -- owners along x, y, z
  rules : List Nat
  hw : List Nat
  ooff : Nat
  goff : Nat
  toff : Nat
deriving DecidableEq, Repr

def Desc.of (ws : List Word) : Desc :=
  let w (i : Nat) := recWord ws i
  ⟨fld (w 0) 48 16, fld (w 0) 46 2, fld (w 0) 42 4, fld (w 0) 38 4 + 1, fld (w 0) 36 2, fld (w 0) 33 3 + 1, fld (w 0) 32 1 == 1,
    fld (w 0) 16 16, fld (w 0) 0 10, (upTo 3).map fun k => fld (w 1) (16 * k) 16, (upTo 3).map fun k => fld (w 2) (16 * k) 16,
    (upTo 6).map fun f => fld (w 3) (24 + 3 * f) 3, (upTo 6).map fun f => fld (w 3) (4 * f) 4,
    fld (w 4) 22 22, fld (w 4) 0 22, fld (w 5) 0 22⟩

def Desc.b (g : Desc) (k : Nat) : Nat := g.ext.getD k 1
def Desc.o (g : Desc) (k : Nat) : Nat := g.own.getD k 1
def Desc.rule (g : Desc) (f : Nat) : Nat := g.rules.getD f 0

/-- The element type: codes 0 to 12 (R155). -/
def Desc.ty (g : Desc) : Ty := Ty.all.getD g.etype .b64

/-- Element size in bytes (R159). -/
def Desc.e (g : Desc) : Nat := g.ty.width / 8

/-- Layer count of a face: L_f = HW_f × d. -/
def Desc.layers (g : Desc) (f : Nat) : Nat := g.hw.getD f 0 * g.d

/-- The other two dimensions of a face, ascending. -/
def others (f : Nat) : List Nat := (upTo 3).filter fun k => k != f / 2

/-- S_f, the bytes of one buffer (R159). -/
def Desc.frame (g : Desc) (f : Nat) : Nat := g.e * g.ncomp * g.layers f * ((others f).map g.b).prod

/-- Vault offset of buffer (f, p) (R159). -/
def Desc.buffer (g : Desc) (f p : Nat) : Nat := g.goff + ((upTo f).map fun h => 2 * g.frame h).sum + p * g.frame f

/-- Bytes of the owned block. -/
def Desc.block (g : Desc) : Nat := g.e * g.ncomp * (g.b 0 * g.b 1 * g.b 2)

/-- Vault offset of an owned element (R159). -/
def Desc.owned (g : Desc) (c x y z : Nat) : Nat := g.ooff + g.e * (c + g.ncomp * (x + g.b 0 * (y + g.b 1 * z)))

/-- Vault offset of a ghost element of buffer (f, p): layer l, the two other coordinates, component (R159). -/
def Desc.ghost (g : Desc) (f p l u v c : Nat) : Nat :=
  let bu := g.b ((others f).getD 0 0)
  let bv := g.b ((others f).getD 1 0)
  g.buffer f p + g.e * (c + g.ncomp * (u + bu * (v + bv * l)))

/-- Parity of a step (R161). -/
def Desc.parity (g : Desc) (m : Nat) : Nat := m / g.d % 2

def maxStep : Nat := 2 ^ 24 - 1

/-! ### Owners (R158) -/

/-- Owner coordinates. -/
def Desc.coord (g : Desc) (o k : Nat) : Nat :=
  match k with
  | 0 => o % g.o 0
  | 1 => o / g.o 0 % g.o 1
  | _ => o / (g.o 0 * g.o 1)

def Desc.index (g : Desc) (c : List Nat) : Nat := c.getD 0 0 + g.o 0 * (c.getD 1 0 + g.o 1 * c.getD 2 0)

/-- A face on the edge of the global grid (R156). -/
def Desc.atEdge (g : Desc) (o f : Nat) : Bool :=
  let c := g.coord o (f / 2)
  if f % 2 = 0 then c == 0 else c + 1 == g.o (f / 2)

/-- The owner across a face with which it exchanges layers: at an edge only under the periodic rule (R156). -/
def Desc.neighbour (g : Desc) (o f : Nat) : Option Nat :=
  let k := f / 2
  let n := g.o k
  if g.atEdge o f && g.rule f != 4 then none
  else
    let c := g.coord o k
    let c' := if f % 2 = 0 then (c + n - 1) % n else (c + 1) % n
    some (g.index ((upTo 3).map fun j => if j = k then c' else g.coord o j))

/-- The face across which the neighbour sees this owner. -/
def oppositeFace (f : Nat) : Nat := if f % 2 = 0 then f + 1 else f - 1

/-- The neighbour across `f` delivers ghost layers to this owner. -/
def Desc.receives (g : Desc) (o f : Nat) : Bool := g.layers f != 0 && (g.neighbour o f).isSome

/-- The neighbour across `f` receives ghost layers from this owner (R162). -/
def Desc.delivers (g : Desc) (o f : Nat) : Bool := g.layers (oppositeFace f) != 0 && (g.neighbour o f).isSome

/-- An owner-supplied edge face. -/
def Desc.suppliedEdge (g : Desc) (o f : Nat) : Bool := g.atEdge o f && g.rule f == 5

/-- One with layers. -/
def Desc.supplies (g : Desc) (o f : Nat) : Bool := g.layers f != 0 && g.suppliedEdge o f

/-! ### Checks of GBIND (R157, R158) -/

/-- Members of a gang's pod gang, ascending; none outside one. -/
def State.podMembers (s : State) (g : Gang) : Option (List Nat) :=
  ((s.launch? g.slot g.launch).bind (·.pod)).map fun p => sortNat p.members

/-- Owner index and owner count of a workgroup (R158); none where the map has no such owner, as for a vchip outside the range of OKIND 2
(log entry 109). -/
def State.ownerOf (s : State) (g : Gang) (wg : Nat) (d : Desc) : Option (Nat × Nat) :=
  let v := ((s.vchip? g.slot).map (·.vch)).getD 0
  match d.okind with
  | 0 => some (wg, g.nwg)
  | 1 =>
    match s.podMembers g with
    | none => none
    | some ms =>
      match indexWhere (· == v) ms 0 with
      | none => none
      | some m => some (m * g.nwg + wg, ms.length * g.nwg)
  | _ =>
    let n := d.o 0 * d.o 1 * d.o 2
    if d.vbase ≤ v && v < d.vbase + n then some (v - d.vbase, n) else none

def descReserved (ws : List Word) : Bool :=
  let w (i : Nat) := recWord ws i
  fld (w 0) 10 6 ≠ 0 || fld (w 1) 48 16 ≠ 0 || fld (w 2) 48 16 ≠ 0 || fld (w 3) 42 22 ≠ 0 || fld (w 4) 44 20 ≠ 0 ||
  fld (w 5) 22 42 ≠ 0 || w 6 ≠ 0 || w 7 ≠ 0 || w 14 ≠ 0 || w 15 ≠ 0

/-- A face's breach of R157. -/
def Desc.badFace (g : Desc) (f : Nat) : Bool :=
  let l := g.layers f
  6 ≤ g.rule f || (g.ndim ≤ f / 2 && g.hw.getD f 0 != 0) || 64 < l || g.b (f / 2) < l ||
  (g.rule f == 3 && g.b (f / 2) ≤ l) || (g.rule f == 4 && g.rule (oppositeFace f) != 4)

/-- A breach of R157 that the descriptor alone, the owner count and the allocation show. -/
def Desc.bad (g : Desc) (ws : List Word) (count vault : Nat) : Bool :=
  descReserved ws || g.ndim == 0 || 12 < g.etype || g.okind == 3 ||
  (upTo 3).any (fun k => g.b k == 0 || g.o k == 0 || (g.ndim ≤ k && (g.b k != 1 || g.o k != 1))) ||
  (upTo 6).any g.badFace || g.o 0 * g.o 1 * g.o 2 != count || g.toff % 256 != 0 ||
  vault < g.ooff + g.block || vault < g.buffer 6 0 || vault < g.toff + 256

/-! ### Bindings -/

/-- The binding of a workgroup's grid slot. -/
def State.binding? (s : State) (g : Gang) (gid wg gslot : Nat) : Option Binding :=
  (s.slot g.slot).bindings.find? fun b => b.gang == gid && b.wg == wg && b.gslot == gslot

def Binding.d (b : Binding) : Desc := Desc.of b.desc

/-- Vault place of an offset within the binding's allocation. -/
def State.bindPlace (s : State) (b : Binding) (off : Nat) : Option Place :=
  (s.gang? b.gang).bind fun g => (g.wg? b.wg).map fun c => .vault c.core (c.vault + off)

/-- A word of the tag block; once a program has stored there what it reads as is undefined (R160). -/
def State.tagWord (s : State) (b : Binding) (i : Nat) : Word × State :=
  if b.tampered then s.fresh
  else
    match s.bindPlace b (b.d.toff + 8 * i) with
    | none => (0, s)
    | some p => (s.readWord p 8, s)

/-- The vault controller changes a word of the tag block (R160). -/
def State.setTag (s : State) (b : Binding) (i : Nat) (w : Word) : State :=
  match s.bindPlace b (b.d.toff + 8 * i) with
  | none => s
  | some p => s.writePlace p (wordBytes w 8)

def tagV (w : Word) : Bool := fld w 63 1 == 1
def tagP (w : Word) : Bool := fld w 62 1 == 1
def tagStep (w : Word) : Nat := fld w 0 24

def tagOf (v p : Bool) (step : Nat) : Word := wordOf (bitOf v 63 + bitOf p 62 + step)

/-- V and P only become 1, and STEP only rises (R164). -/
def creditMerge (w : Word) (p : Bool) (step : Nat) : Word := tagOf true (tagP w || p) (max (tagStep w) step)

/-! ### Halo messages (R164, R165) -/

def haloImm (gridid down face kind : Nat) (flag : Bool) (beat : Nat) : Word :=
  wordOf (place gridid 48 + place down 32 + place face 29 + place kind 27 + bitOf flag 26 + beat)

/-- The guest vchip that holds owner `o` of a binding (R158). -/
def State.vchOfOwner (s : State) (b : Binding) (o : Nat) : Nat :=
  let d := b.d
  match d.okind, s.gang? b.gang with
  | 1, some g => ((s.podMembers g).bind fun ms => ms[o / g.nwg]?).getD 0
  | 2, _ => d.vbase + o
  | _, _ => 0

/-- Send a halo message to owner `o`: within a vchip over the Sound, where the packet carries what tells the gang or launch
apart (R158, log entry 41), else as a HALO packet of the stream. -/
def State.sendHalo (s : State) (v : Nat) (b : Binding) (stream o face kind : Nat) (flag : Bool) (step beat : Nat) (payload : List Byte)
    (origin : Origin) : State :=
  let d := b.d
  let me := ((s.vchip? v).map (·.vch)).getD 0
  let imm := haloImm d.gridid o face kind flag beat
  let dst := s.vchOfOwner b o
  if d.okind = 0 || dst = me then
    let h : Hdr := { typ := 7, sslot := v, dslot := v, stream := stream, offset := b.gang, aop := d.okind, oparg := step, imm := imm }
    s.modFabric fun f => { f with sound := f.sound ++ [(h.packet payload, origin)] }
  else s.enqueueRequest ⟨v, dst, stream⟩ ⟨7, 0, 0, 0, payload.length, 0, false, step, imm, payload, origin, none⟩

/-- Announce, reply or credit about this owner's publish state to the neighbour across `f`. -/
def State.sendCredit (s : State) (v : Nat) (b : Binding) (stream f kind : Nat) (pub : Bool) (step : Nat) : State :=
  match b.d.neighbour b.owner f with
  | none => s
  | some o => s.sendHalo v b stream o (oppositeFace f) kind pub step 0 [] .none

/-! ### GBIND -/

/-- The aperture of a device address's stage-1 entry, if it has one. -/
def State.stage1Aper (s : State) (v : Nat) (a : Word) : Option Nat :=
  let w := (s.slot v).win
  match stageFind (s.rdGuest v) w.s1range w.s1root a.toNat with
  | .ok (.hit h) => some (attrAper h.attr)
  | _ => none

/-- A 64-byte piece of a descriptor or table that does not lie in device memory of APER 0 or 2 (R363, R364). -/
def State.notDevice (s : State) (v : Nat) (a : Word) : Bool :=
  isVaultAddr a || inPodWindow a || s.stage1Aper v a == some 1 || s.stage1Aper v a == some 3

/-- A device read of consecutive 64-byte pieces: bytes, or the worst failure with its address (R217). -/
def State.deviceRead (s : State) (v : Nat) (a : Word) : Nat → Except (Word × XErr) (List Byte × List Place) × State
  | 0 => (.ok ([], []), s)
  | n + 1 =>
    match s.translate v a Acc.read with
    | (.error e, s) =>
      match State.deviceRead s v (a + 64) n with
      | (.error d, s) => (.error (if d.2.rank < e.rank then d else (a, e)), s)
      | (.ok _, s) => (.error (a, e), s)
    | (.ok t, s) =>
      match State.deviceRead s v (a + 64) n with
      | (.error e, s) => (.error e, s)
      | (.ok (bs, ps), s) => (.ok (s.readPlace t.place 64 ++ bs, t.place :: ps), s)

/-- A read that an instruction makes as it executes: it may be performed after everything before it that it must follow
(R184, R188). -/
def Ictx.mayRead (x : Ictx) (ps : List Place) (n : Nat) : Bool :=
  let o : MemOp := { MemOp.shape (.load false) .plain false false false none false with id := x.w.work.nextOp, after := x.before }
  ps.all fun p => x.s.mayPerform x.w o ⟨0, 0, p, none, n, [], [], false, false⟩ && x.s.placeOpen x.v p

/-- The engine writes that the path has observed land before it reads (R190). -/
def Ictx.landed (x : Ictx) : Ictx :=
  let s := x.s.landSeen x.c.warp x.act
  { x with s := s, w := (s.warp? x.c.warp).getD x.w }

/-- And before it acquires (R196). -/
def Ictx.acquires (x : Ictx) : Ictx :=
  let s := x.s.acquired x.c.warp x.act
  { x with s := s, w := (s.warp? x.c.warp).getD x.w }

/-- Those of these runs land before it reads them. -/
def Ictx.landedAt (x : Ictx) (ps : List (Place × Nat)) : Ictx :=
  let s := x.s.landOver x.c.warp x.act ps
  { x with s := s, w := (s.warp? x.c.warp).getD x.w }

/-- Causes 0x31 that need no descriptor: the slot is bound, the vchip holds 1024 bindings. -/
def Ictx.bindTaken (x : Ictx) (slot : Nat) : Bool :=
  (x.s.binding? x.g x.w.id.gang x.w.id.wg slot).isSome || 1024 ≤ (x.s.slot x.v).bindings.length

/-- With OKIND 0 or 1 another slot of the workgroup binds the same GRIDID; with OKIND 2 another slot or workgroup of the vchip does so
under OKIND 2 (R157, R158, R363). -/
def Ictx.bindClash (x : Ictx) (d : Desc) : Bool :=
  (x.s.slot x.v).bindings.any fun b =>
    b.d.gridid == d.gridid && (if d.okind == 2 then b.d.okind == 2 else b.gang == x.w.id.gang && b.wg == x.w.id.wg)

/-- GBIND (R364). -/
def execGbind (g : Guard) (slot : Nat) (a : Operand) (s : State) : Host.Outcome State Fault Refusal :=
  s.once g 0 (Operand.priv a) fun x =>
    let addr := x.uni .b64 a
    let taken := x.bindTaken slot
    let x := x.landedAt (match (x.s.deviceRead x.v addr 2).1 with | .ok (_, ps) => ps.map fun p => (p, 64) | .error _ => [])
    if fld addr 0 6 ≠ 0 || x.s.notDevice x.v addr || x.s.notDevice x.v (addr + 64) then
      x.fault 19 (if taken then 0x31 else 0x32)
    else
      match x.s.deviceRead x.v addr 2 with
      | (.error (at', .fault cls sub), s) =>
        if taken then x.fault 19 0x31 else .trap s (Trap.all cls sub x.act at')
      | (.error (_, .violation gpa acc), s) => if taken then x.fault 19 0x31 else x.freeze s gpa acc
      | (.error (_, .held), _) => if taken then x.fault 19 0x31 else x.wait
      | (.ok (bs, ps), s) =>
        if !x.mayRead ps 64 then x.wait
        else
          let ws := bytesWords bs
          let d := Desc.of ws
          let own := x.s.ownerOf x.g x.w.id.wg d
          let count := (own.map (·.2)).getD 0
          let pod := ((x.s.vchip? x.v).map fun c => x.s.podSize c.guest).getD 0
          if d.bad ws count (x.g.vlt * 4096) || own.isNone || (d.okind = 1 && !x.g.podg) ||
              (d.okind = 2 && pod < d.vbase + d.o 0 * d.o 1 * d.o 2) then x.fault 19 0x30
          else if taken || x.bindClash d then x.fault 19 0x31
          else
            let stream := s.streamOf x.w
            let b : Binding := ⟨x.w.id.gang, x.w.id.wg, slot, ws, (own.map (·.1)).getD 0, stream, false⟩
            let s := match s.bindPlace b d.toff with
              | none => s
              | some p => (s.landOver x.c.warp x.act [(p, 256)]).storeAt p (List.replicate 256 0)
            let s := s.modSlot x.v fun y => { y with bindings := y.bindings ++ [b] }
            .done ((upTo 6).foldl (fun s f =>
              if d.receives b.owner f then s.sendCredit x.v b stream f 1 false 0 else s) s)

/-! ### Resolving a cell (R166, R167) -/

/-- Where a cell leads. -/
inductive Cell where
  | value (w : Word)
  | cell (off : Nat)
  | ghost (f p off : Nat)
  | none
deriving DecidableEq, Repr

/-- A signed coordinate of a cell register. -/
def cellCoord (w : Word) (k : Nat) : Int := sext 16 (fld w (16 * k) 16)
def cellComp (w : Word) : Nat := fld w 48 16

/-- The face beyond which a coordinate lies. -/
def Desc.beyond (g : Desc) (k : Nat) (q : Int) : Option Nat :=
  if q < 0 then some (2 * k) else if (g.b k : Int) ≤ q then some (2 * k + 1) else none

/-- The boundary rules in ascending dimension: a value, or the coordinates that remain (R166). -/
def Desc.boundary (g : Desc) (o : Nat) (consts : Nat → Word) : List Nat → List Int → Sum Word (List Int)
  | [], q => .inr q
  | k :: ks, q =>
    let x := q.getD k 0
    match g.beyond k x with
    | none => Desc.boundary g o consts ks q
    | some f =>
      if !g.atEdge o f then Desc.boundary g o consts ks q
      else
        let b : Int := g.b k
        match g.rule f with
        | 0 => .inl 0
        | 1 => .inl (consts f)
        | 2 => Desc.boundary g o consts ks (setAt q k (if f % 2 = 0 then 0 else b - 1))
        | 3 => Desc.boundary g o consts ks (setAt q k (if f % 2 = 0 then -x else 2 * b - 2 - x))
        | _ => Desc.boundary g o consts ks q

/-- grid_resolve (R166). -/
def Binding.resolve (b : Binding) (cell : Word) (m : Nat) : Cell :=
  let g := b.d
  let c := cellComp cell
  if g.ncomp ≤ c || maxStep < m then .none
  else
    let q := (upTo 3).map fun k => if k < g.ndim then cellCoord cell k else 0
    let consts (f : Nat) : Word := wordOf (fld (recWord b.desc (8 + f)) 0 (8 * g.e))
    match g.boundary b.owner consts (upTo g.ndim) q with
    | .inl w => .value w
    | .inr q =>
      match (upTo g.ndim).filterMap fun k => g.beyond k (q.getD k 0) with
      | [] => .cell (g.owned c (q.getD 0 0).toNat (q.getD 1 0).toNat (q.getD 2 0).toNat)
      | [f] =>
        let x := q.getD (f / 2) 0
        let l := if x < 0 then (-x - 1).toNat else (x - g.b (f / 2)).toNat
        if g.layers f ≤ l || m % g.d ≠ 0 then .none
        else
          let u := (q.getD ((others f).getD 0 0) 0).toNat
          let v := (q.getD ((others f).getD 1 0) 0).toNat
          .ghost f (g.parity m) (g.ghost f (g.parity m) l u v c)
      | _ => .none

/-- What a ghost read meets (R167): ready, waits, or traps with a SUB. -/
inductive Stale where
  | ok | wait | trap (sub : Nat)
deriving DecidableEq, Repr

/-- The check of buffer (f, p) against step `m`; `spent`: the stall limit is reached. -/
def State.ghostCheck (s : State) (b : Binding) (f p m : Nat) (spent : Bool) : Stale × State :=
  let (t, s) := s.tagWord b (2 * f + p)
  (if tagV t && tagStep t == m then .ok
   else if tagV t && m < tagStep t then .trap 2
   else if b.d.spol then .trap 1
   else if spent then .trap 0 else .wait, s)

/-- Stalled cycles have reached STALL × 256 (R167). -/
def Ictx.spent (x : Ictx) (b : Binding) : Bool :=
  match x.p.stall with
  | none => b.d.stall == 0
  | some from' => b.d.stall * 256 ≤ x.s.cyc x.w.id.core - from'

/-- The path stalls: its count starts, or goes on (R167). -/
def Ictx.stallPath (x : Ictx) (s : State) : Res :=
  match x.p.stall with
  | some _ => .moved s
  | none => .moved (s.modWarp x.c.warp fun w => w.modPath x.c.path fun p => { p with stall := some (x.s.cyc x.w.id.core) })

/-! ### LDG and STG -/

/-- Faults of a grid access (R363, R217): causes that are not per lane mark every active lane; else the lanes that meet one. -/
def Ictx.gridFault (x : Ictx) (whole : List Nat) (perLane : List (Nat × Nat)) (ok : Res) : Res :=
  let low := (Mask.lanes x.act).head?
  match sortNat whole with
  | n :: _ =>
    let n := match perLane.find? fun e => some e.1 == low with
      | some e => Nat.min n e.2
      | none => n
    x.fault 19 n
  | [] =>
    match perLane with
    | [] => ok
    | e :: _ => .trap x.s ⟨19, e.2, perLane.map fun e => (e.1, 0), false, none⟩

/-- The bound TYPE, or 0 (R365). -/
def Desc.badType (g : Desc) (t : Ty) : Bool := t.code != 0 && t.code != g.etype

/-- A lane's value once every ghost check has passed. -/
def State.cellValue (s : State) (b : Binding) (c : Cell) : Word :=
  match c with
  | .value w => w
  | .cell off | .ghost _ _ off =>
    match s.bindPlace b off with
    | some p => s.readWord p b.d.e
    | none => 0
  | .none => 0

/-- The ghost cells that lanes read. -/
def State.ghostPlaces (s : State) (b : Binding) (cells : List (Nat × Cell)) : List Place :=
  cells.filterMap fun e =>
    match e.2 with
    | .ghost _ _ off => s.bindPlace b off
    | _ => none

/-- The tags that they are checked against. -/
def State.ghostTags (s : State) (b : Binding) (cells : List (Nat × Cell)) : List Place :=
  (cells.filterMap fun e =>
    match e.2 with
    | .ghost f p _ => s.bindPlace b (b.d.toff + 8 * (2 * f + p))
    | _ => none).dedup

/-- An acquire that reads these tags: the warp comes to know what they carry (R196, R352). -/
def Ictx.hears (x : Ictx) (s : State) (tags : List Place) : Ictx :=
  let s := tags.foldl (fun s p => s.hear x.c.warp true p 8) s
  { x with s := s, w := (s.warp? x.c.warp).getD x.w }

/-- Every ghost check of the lanes. -/
def State.ghostChecks (s : State) (b : Binding) (m : Nat) (spent : Bool) : List (Nat × Cell) → List (Nat × Stale) × State
  | [] => ([], s)
  | (l, .ghost f p _) :: es =>
    let (r, s) := s.ghostCheck b f p m spent
    let (rs, s) := State.ghostChecks s b m spent es
    ((l, r) :: rs, s)
  | _ :: es => State.ghostChecks s b m spent es

/-- Lanes that trap, with their SUBs. -/
def staleTraps (rs : List (Nat × Stale)) : List (Nat × Nat) :=
  rs.filterMap fun r => match r.2 with | .trap sub => some (r.1, sub) | _ => none

/-- A lane of `LDG` once every check has passed: an owned cell is loaded plainly; a ghost cell has been read under its check, and a
boundary value is there: they are written with the rest (R365, R167). -/
def State.cellLane (s : State) (b : Binding) (core l : Nat) (c : Cell) : LaneOp :=
  let there (p : Place) (n : Nat) (w : Word) : LaneOp := ⟨l, 0, p, none, n, [w], [], false, false⟩
  match c with
  | .value w => there (.vault core 0) 0 w
  | .cell off =>
    match s.bindPlace b off with
    | some p => ⟨l, 0, p, none, b.d.e, [], [], false, false⟩
    | none => there (.vault core 0) 0 0
  | .ghost _ _ off => there ((s.bindPlace b off).getD (.vault core 0)) 0 (s.cellValue b c)
  | .none => there (.vault core 0) 0 0

/-- LDG: the ghost cells are read at one time, once every lane can return, and acquire; it counts on the loads counter until its data is
written (R365). -/
def execLdg (g : Guard) (t : Ty) (d slot : Nat) (b c : Operand) (s : State) : Host.Outcome State Fault Refusal :=
  s.run fun x => x.allowed (privOf [b, c])
    (let regs := max (d + 1) (Operand.top b 1)
    let m := (x.src t 0 c).toNat
    let lanes := x.lanes g
    let past := if x.g.nv < regs then [0x0C] else []
    if lanes = 0 then x.inRange regs (.done x.s)
    else
      match x.acquires.s.binding? x.g x.w.id.gang x.w.id.wg slot with
      | none => x.gridFault (past ++ [0x33]) [] (.done x.s)
      | some bd =>
        let x := x.acquires
        let cells := if x.g.nv < Operand.top b 1 then [] else
          (Mask.lanes lanes).map fun l => (l, bd.resolve (x.src .b64 l b) m)
        let bad := cells.filterMap fun e => if e.2 = .none then some (e.1, 0x34) else none
        let whole := past ++ (if maxStep < m then [0x34] else []) ++ (if bd.d.badType t then [0x35] else [])
        x.gridFault whole bad
          (if 63 ≤ x.w.cnt.ld then x.wait
          else
            let (rs, s) := x.s.ghostChecks bd m (x.spent bd) cells
            match staleTraps rs with
            | e :: es => .trap s ⟨4, e.2, (e :: es).map fun e => (e.1, 0), false, none⟩
            | [] =>
              if rs.any fun r => r.2 == .wait then x.stallPath s
              else if !x.mayRead (x.s.ghostPlaces bd cells) bd.d.e then x.wait
              else
                let x := x.hears s (s.ghostTags bd cells)
                x.issue x.s { MemOp.shape (.load false) .plain false false false (some d) false with
                  lanes := cells.map fun e => x.s.cellLane bd x.w.id.core e.1 e.2 }))

/-- Where `STG` may store (R168): an owned cell, or a layer of an owner-supplied edge face in the next step's buffer. -/
def State.storable (s : State) (b : Binding) (cell : Word) : Option Nat × State :=
  let g := b.d
  let c := cellComp cell
  if g.ncomp ≤ c then (none, s)
  else
    let q := (upTo 3).map fun k => if k < g.ndim then cellCoord cell k else 0
    match (upTo g.ndim).filterMap fun k => g.beyond k (q.getD k 0) with
    | [] => (some (g.owned c (q.getD 0 0).toNat (q.getD 1 0).toNat (q.getD 2 0).toNat), s)
    | [f] =>
      let x := q.getD (f / 2) 0
      let l := if x < 0 then (-x - 1).toNat else (x - g.b (f / 2)).toNat
      if !g.supplies b.owner f || g.layers f ≤ l then (none, s)
      else
        let (w, s) := s.tagWord b 18
        let p := if tagV w then g.parity (tagStep w + g.d) else 0
        let u := (q.getD ((others f).getD 0 0) 0).toNat
        let v := (q.getD ((others f).getD 1 0) 0).toNat
        (some (g.ghost f p l u v c), s)
    | _ => (none, s)

/-- Every lane's place. -/
def State.storables (s : State) (b : Binding) (cell : Nat → Word) : List Nat → List (Nat × Option Nat) × State
  | [] => ([], s)
  | l :: ls =>
    let (r, s) := s.storable b (cell l)
    let (rs, s) := State.storables s b cell ls
    ((l, r) :: rs, s)

/-- STG: a plain store to the owner's vault (R366). -/
def execStg (g : Guard) (t : Ty) (d : Operand) (slot : Nat) (b : Operand) (s : State) : Host.Outcome State Fault Refusal :=
  s.run fun x => x.allowed (privOf [b, d])
    (let regs := max (Operand.top d 1) (Operand.top b 1)
    let lanes := x.lanes g
    let past := if x.g.nv < regs then [0x0C] else []
    if lanes = 0 then x.inRange regs (.done x.s)
    else
      match x.s.binding? x.g x.w.id.gang x.w.id.wg slot with
      | none => x.gridFault (past ++ [0x33]) [] (.done x.s)
      | some bd =>
        let (cells, s) := if x.g.nv < Operand.top b 1 then ([], x.s) else
          x.s.storables bd (fun l => x.src .b64 l b) (Mask.lanes lanes)
        let bad := cells.filterMap fun e => if e.2.isNone then some (e.1, 0x37) else none
        x.gridFault (past ++ if bd.d.badType t then [0x35] else []) bad
          (if 63 ≤ x.w.cnt.st then x.wait
          else
            let o := MemOp.shape .store .plain false false false none false
            x.issue s { o with lanes := cells.filterMap fun e =>
              (e.2.bind (fun off => s.bindPlace bd off)).map (fun p =>
                (⟨e.1, 0, p, none, bd.d.e, [x.src .b64 e.1 d], [], false, false⟩ : LaneOp)) }))

/-! ### HPUB (R161, R162, R367) -/

/-- A publish's next step number is in sequence (R161). -/
def publishOk (w : Word) (d m : Nat) : Bool :=
  m ≤ maxStep && (if tagV w then m == tagStep w + d else m == 0)

/-- A tag word carries what its publish tells (R162, R196, R352). -/
def State.tagTells (s : State) (b : Binding) (i : Nat) (told : List Nat) : State :=
  match s.bindPlace b (b.d.toff + 8 * i) with
  | none => s
  | some p => s.carry false (told.map fun n => (n, true)) p 8

/-- Array operations whose completion a publish tells. -/
def Ictx.told (x : Ictx) : List Nat := (x.w.work.known ++ x.w.work.heard).dedup

/-- HPUB: a release, so it waits for the warp's earlier operations; then the publish word, credits, tags of owner-supplied
faces, and the face copies, which wait for credit. -/
def execHpub (g : Guard) (d slot : Nat) (b : Operand) (s : State) : Host.Outcome State Fault Refusal :=
  s.once g 0 (Operand.priv b) fun x => x.withHandle d fun x =>
    let m := (x.index 0 b).toNat
    match x.s.binding? x.g x.w.id.gang x.w.id.wg slot with
    | none => x.fault 19 0x33
    | some bd =>
      let ds := bd.d
      let (pw, s) := x.s.tagWord bd 18
      if !publishOk pw ds.d m then x.fault 19 0x36
      else if 31 ≤ x.w.cnt.cp then x.wait
      else
        x.afterOps (fun _ => true)
          (let stream := s.streamOf x.w
          let s := s.setTag bd 18 (tagOf true false m)
          let s := (upTo 6).foldl (fun s f => if ds.receives bd.owner f then s.sendCredit x.v bd stream f 2 true m else s) s
          let s := (upTo 6).foldl (fun s f =>
            if ds.suppliedEdge bd.owner f then (s.setTag bd (2 * f + ds.parity m) (tagOf true false m)).tagTells bd (2 * f + ds.parity m) x.told
            else s) s
          let faces := (upTo 6).filter fun f => ds.delivers bd.owner f
          let w := x.w.setHandle d (Handle.issue 3)
          if faces.isEmpty then .done (s.setWarp x.c.warp (w.completeHandle d 0 0 0))
          else
            let id := s.work.nextPublish
            let w := { w with cnt := { w.cnt with cp := w.cnt.cp + 1 } }
            .done ((s.setWarp x.c.warp w).modWork fun k => { k with
              nextPublish := id + 1
              publishes := KMap.put k.publishes id ⟨id, x.v, x.w.id.gang, x.w.id.wg, slot, x.c.warp, stream, d, m, faces, 0, 0, x.told⟩ }))

/-- INFO of a status: a failing address that the rules do not name, or 0 (R293; log entry 96). -/
def State.failInfo (s : State) (status : Nat) : Word × State := if status = 0x04 then s.fresh else (0, s)

/-- HPUB's handle completes. -/
def State.endPublish (s : State) (p : Publish) (status : Nat) : State :=
  let (info, s) := s.failInfo status
  (s.modWarp p.warp fun w =>
    let w := w.completeHandle p.f status 0 info
    { w with cnt := { w.cnt with cp := w.cnt.cp - 1 } }).settleWarp p.warp

def State.setPublish (s : State) (p : Publish) : State := s.modWork fun k => { k with publishes := KMap.put k.publishes p.id p }

/-- Every face of a publish has been delivered, or has failed. -/
def State.settlePublish (s : State) (p : Publish) : State :=
  if p.waiting.isEmpty && p.pending = 0 then
    let s := s.modWork fun k => { k with publishes := KMap.erase k.publishes p.id }
    if p.status = 0 then s.endPublish p 0 else s
  else s.setPublish p

/-- A face copy has delivered its last beat (R162). -/
def State.faceDone (s : State) (id : Nat) : State :=
  match KMap.find? s.work.publishes id with
  | none => s
  | some p => s.settlePublish { p with pending := p.pending - 1 }

/-- A face copy fails: the first failure completes the handle with its status (R162, R294). -/
def State.faceFailed (s : State) (id status : Nat) : State :=
  match KMap.find? s.work.publishes id with
  | none => s
  | some p =>
    let s := if p.status = 0 then s.endPublish p status else s
    s.settlePublish { p with pending := p.pending - 1, status := if p.status = 0 then status else p.status }

/-! ### Face copies -/

/-- The bytes of a face copy in the order of the receiver's buffer (R159, R162). -/
def State.faceBytes (s : State) (b : Binding) (f : Nat) : List Byte :=
  let g := b.d
  let k := f / 2
  let u := (others f).getD 0 0
  let v := (others f).getD 1 0
  (upTo (g.layers (oppositeFace f))).flatMap fun l =>
    (upTo (g.b v)).flatMap fun j =>
      (upTo (g.b u)).flatMap fun i =>
        (upTo g.ncomp).flatMap fun c =>
          let q (n : Nat) := if n = k then (if f % 2 = 0 then l else g.b k - 1 - l) else if n = u then i else j
          match s.bindPlace b (g.owned c (q 0) (q 1) (q 2)) with
          | some p => s.readPlace p g.e
          | none => List.replicate g.e 0

/-- The credit that face `f` needs for step `m` (R162). -/
def creditFor (w : Word) (d m : Nat) : Bool := tagV w && (m = 0 || (tagP w && m ≤ tagStep w + d))

/-- The binding of a publish. -/
def State.bindingOf (s : State) (p : Publish) : Option Binding :=
  (s.slot p.slot).bindings.find? fun b => b.gang == p.gang && b.wg == p.wg && b.gslot == p.gslot

/-- A lower face waits and has its credit: it goes first (R162, step 6). -/
def State.lowerReady (s : State) (p : Publish) (b : Binding) (face : Nat) : Bool :=
  p.waiting.any fun f => f < face && creditFor (s.tagWord b (12 + f)).1 b.d.d p.step

/-- FACE_COPY_START: a face that has its credit is read and sent, 64 bytes a packet, in ascending buffer address (R162). -/
def execFaceCopyStart (publish face : Nat) (s : State) : Host.Outcome State Fault Refusal :=
  match KMap.find? s.work.publishes publish with
  | none => .next s
  | some p =>
    match s.bindingOf p, s.gang? p.gang with
    | some b, some g =>
      let (w, s) := s.tagWord b (12 + face)
      if !p.waiting.contains face || !creditFor w b.d.d p.step || s.lowerReady p b face || !(g.st == .resident || g.st == .ending) || s.isFrozen p.slot ||
          !s.clocksRun then .next s
      else
        match b.d.neighbour b.owner face with
        | none => .next s
        | some o =>
          let bs := s.faceBytes b face
          let parts := chunks 64 bs.length bs
          let s := s.setPublish { p with waiting := p.waiting.filter fun f => f != face, pending := p.pending + 1 }
          .next (parts.zipIdx.foldl (fun s e =>
            s.sendHalo p.slot b p.stream o (oppositeFace face) 0 (e.2 + 1 = parts.length) p.step e.2 e.1 (.face publish face)) s)
    | _, _ => .next s

/-! ### Arriving halo messages (R164, R165) -/

/-- The binding that a message names: within the sender's gang, within the pod gang's launch, or on the vchip (R158).
`within` is the gang, for a message that came over the Sound; a packet comes from a member `svch` of the pod gang, or to an owner of a
vchip (log entry 41). -/
def State.haloTarget (s : State) (v : Nat) (imm : Word) (svch : Nat) (within : Option Nat) (okind : Nat) : Option Binding :=
  let launch := (within.bind s.gang?).map (·.launch)
  (s.slot v).bindings.find? fun b =>
    b.d.gridid == fld imm 48 16 && b.owner == fld imm 32 16 &&
    (match within with
      | none =>
        b.d.okind == 2 || (b.d.okind == 1 && ((s.gang? b.gang).bind s.podMembers).any fun ms => ms.contains svch)
      | some gid =>
        b.d.okind == okind &&
        (match okind with
          | 0 => b.gang == gid
          | 1 => (s.gang? b.gang).map (·.launch) == launch
          | _ => true))

/-- A data message: its bytes, within the buffer; the last sets the tag. -/
def State.haloDeliver (s : State) (v : Nat) (b : Binding) (imm : Word) (step : Nat) (payload : List Byte) : State :=
  let g := b.d
  let f := fld imm 29 3
  let p := g.parity step
  let off := 64 * fld imm 0 16
  let room := g.frame f - off
  let s := match s.bindPlace b (g.buffer f p + off) with
    | none => s
    | some q => s.storeAt q (payload.take room)
  let _ := v
  if fld imm 26 1 = 1 then (s.setTag b (2 * f + p) (tagOf true false step)).tagTells b (2 * f + p) [] else s

/-- The last data message of a publish within the vchip: the tag that it has set carries what the publish tells. -/
def State.publishTells (s : State) (id : Nat) (p : Packet) : State :=
  match KMap.find? s.work.publishes id, s.haloTarget p.dslot p.imm p.svch (some p.offset) p.aop with
  | some q, some b => s.tagTells b (2 * fld p.imm 29 3 + b.d.parity p.oparg) q.told
  | _, _ => s

/-- The credit word of the face, raised (R164). -/
def State.haloCredit (s : State) (b : Binding) (imm : Word) (step : Nat) : State :=
  let i := 12 + fld imm 29 3
  let (w, s) := s.tagWord b i
  s.setTag b i (creditMerge w (fld imm 26 1 == 1) step)

/-- A reply carries this owner's publish state (R164). -/
def State.haloReply (s : State) (v : Nat) (b : Binding) (imm : Word) : State :=
  let (w, s) := s.tagWord b 18
  s.sendCredit v b b.stream (fld imm 29 3) 2 (tagV w) (tagStep w)

/-- A halo message takes effect at the vchip in slot `v`; one with no binding is discarded (R164), and so is one whose FACE is 6 or 7 (log
entry 107). -/
def State.haloApply (s : State) (v kind step : Nat) (imm : Word) (payload : List Byte) (svch : Nat) (within : Option Nat) (okind : Nat) :
    State :=
  if 6 ≤ fld imm 29 3 then s else
  match s.haloTarget v imm svch within okind with
  | none => s
  | some b =>
    match kind with
    | 0 => s.haloDeliver v b imm step payload
    | 1 => (s.haloCredit b imm step).haloReply v b imm
    | _ => s.haloCredit b imm step

/-! ### HWAIT (R368) -/

/-- Checks of every receiving face. -/
def State.waitChecks (s : State) (b : Binding) (m : Nat) (spent : Bool) : List Nat → List Stale × State
  | [] => ([], s)
  | f :: fs =>
    let (r, s) := s.ghostCheck b f (b.d.parity m) m spent
    let (rs, s) := State.waitChecks s b m spent fs
    (r :: rs, s)

/-- The lowest SUB among the checks that trap. -/
def staleSub (rs : List Stale) : Option Nat :=
  (sortNat (rs.filterMap fun r => match r with | .trap n => some n | _ => none)).head?

/-- HWAIT. -/
def execHwait (g : Guard) (slot : Nat) (b : Operand) (s : State) : Host.Outcome State Fault Refusal :=
  s.once g 0 (Operand.priv b) fun x =>
    let m := (x.index 0 b).toNat
    match x.s.binding? x.g x.w.id.gang x.w.id.wg slot with
    | none => x.fault 19 0x33
    | some bd =>
      if maxStep < m || m % bd.d.d ≠ 0 then x.fault 19 0x34
      else
        let fs := (upTo 6).filter fun f => bd.d.receives bd.owner f || bd.d.supplies bd.owner f
        let (rs, s) := x.s.waitChecks bd m (x.spent bd) fs
        match staleSub rs with
        | some n => .trap s (Trap.all 4 n x.act 0)
        | none =>
          let tags := fs.filterMap fun f => x.s.bindPlace bd (bd.d.toff + 8 * (2 * f + bd.d.parity m))
          if rs.any fun r => r == .wait then x.stallPath s
          else if !x.mayRead tags 8 then x.wait
          else .done ((x.hears s tags).s.acquired x.c.warp x.act)

/-! ### The time-out (R167) -/

/-- The `LDG` or `HWAIT` at which a path of the warp stalls. -/
def State.stalledAt (s : State) (w : Warp) (i : Nat) (p : Path) : Option (Instr × Word × Word) :=
  match p.stall, s.gangOf w with
  | some _, some g =>
    match (s.codeWord g p.pc).1 with
    | .error _ => none
    | .ok w0 =>
      let w1 := if lpOf w0 = 2 then (match (s.codeWord g (p.pc + 8)).1 with | .ok w1 => w1 | .error _ => 0) else 0
      let _ := i
      some ((decode w0 w1).instr, w0, w1)
  | _, _ => none

/-- STALE_HALO_TIMEOUT: the first stalled path of the warp reads its tags again, and traps where its limit has been reached. -/
def execStaleHaloTimeout (warp : Nat) (s : State) : Host.Outcome State Fault Refusal :=
  match s.warp? warp with
  | none => .next s
  | some w =>
    let runs := (s.gangOf w).map (fun g => (g.st == .resident || g.st == .ending) && s.enginesRun g.slot) |>.getD false
    if !runs then .next s
    else
      match ((w.livePaths.filter fun e => w.runs e.2).filterMap fun e => (s.stalledAt w e.1 e.2).map fun r => (e, r)).head? with
      | none => .next s
      | some ((i, p), (ins, w0, w1)) =>
        let t := { s with cur := some ⟨warp, i, w0, w1, p.sec⟩ }
        match ins with
        | .ldg g t' d slot b c => execLdg g t' d slot b c t
        | .hwait g slot b => execHwait g slot b t
        | _ => .next s

end Sys2Proof.Machine
end

