-- ==== Sys2Proof/Machine/Links.lean ====
section
/-! DEFINITION. The fabric ports: module configuration (R29), where ports lead (R28), routes (R30), frames and their replay
(R32), and forwarding (R31). -/

namespace Sys2Proof.Machine

/-- The PCIe endpoint answers: in every state but OFF (R20, R22). -/
def State.answers (s : State) : Bool := s.power.start != .off

/-- The fabric moves packets: outside thermal halt, in OPERATIONAL (R16, R22); not in M3, in which R13 says nothing of the link die
(log entry 100). -/
def State.fabricRuns (s : State) : Bool := s.power.start == .operational && s.power.cur != 3 && !s.power.thalt

/-- Time that leaves thermal halts out, in us. -/
def State.runUs (s : State) : Nat := s.now - s.power.haltUs

def State.modLinks (s : State) (f : Links → Links) : State := { s with links := f s.links }

def State.port (s : State) (i : Nat) : Port := s.links.ports.getD i Port.reset

def State.modPort (s : State) (i : Nat) (f : Port → Port) : State :=
  s.modLinks fun l => { l with ports := setAt l.ports i (f (l.ports.getD i Port.reset)) }

/-! ### Where ports lead (R28) -/

def rowOf (coord : Nat) : Nat := coord / 16 % 16
def colOf (coord : Nat) : Nat := coord % 16

/-- The row port of the module in column `c` that leads to column `j`. -/
def rowPort (c j : Nat) : Nat := if j < c then j else j - 1

/-- The column port of the module in row `r` that leads to row `j`. -/
def colPort (r j : Nat) : Nat := 15 + (if j < r then j else j - 1)

/-- The module that row port `i` of module `coord` leads to. -/
def rowPeer (coord i : Nat) : Nat := 16 * rowOf coord + (if i < colOf coord then i else i + 1)

/-- The port that carries the traffic of port `i`: a spare that stands in for it, or itself (R28, R29). -/
def State.carrier (s : State) (i : Nat) : Nat :=
  if s.links.sp30.toNat = i then 30 else if s.links.sp31.toNat = i then 31 else i

def State.portUp (s : State) (i : Nat) : Bool := (s.port (s.carrier i)).up

def State.portCredit (s : State) (i : Nat) : Bool := !(s.port (s.carrier i)).noCredit

/-- A spare stands in for this port, which carries no traffic (R28, R29). -/
def State.replaced (s : State) (i : Nat) : Bool := s.carrier i != i

/-- A port that takes frames: up, and not replaced by a spare. -/
def State.portTakes (s : State) (i : Nat) : Bool := (s.port i).up && !s.replaced i

/-! ### Virtual channels (R31) -/

/-- Traffic classes (R31, R34): 0 request, 1 response, 2 control. -/
def classOf (typ : Nat) : Nat :=
  if typ = 3 || typ = 5 || typ = 8 then 1 else if typ = 0x10 || typ = 0x11 || typ = 0x20 || typ = 0x21 then 2 else 0

/-- The virtual channel of a class for a packet's `hop`-th hop. -/
def channelOf (cls hop : Nat) : Nat := 3 * cls + (hop - 1)

/-- The number of the hop that a packet takes next at a module `here` that it crosses (R30, R31): the second, or the third of a detour past
its VIA, which may lead back through its source. -/
def hopNumber (rmode via here : Nat) : Nat := if rmode = 2 && here != via then 3 else 2

/-- A channel of the port that carries port `i` has no credit. -/
def State.channelFull (s : State) (i cls hop : Nat) : Bool := (s.port (s.carrier i)).full.contains (channelOf cls hop)

/-! ### Routes (R30) -/

/-- The port of a minimal route's next hop from `here` to `dest`; none where it has arrived. -/
def minimalPort (rowFirst : Bool) (here dest : Nat) : Option Nat :=
  let row := if colOf here = colOf dest then none else some (rowPort (colOf here) (colOf dest))
  let col := if rowOf here = rowOf dest then none else some (colPort (rowOf here) (rowOf dest))
  if rowFirst then row.or col else col.or row

/-- The port of the first hop of a packet at its source. -/
def firstPort (here rmode via dmod : Nat) : Option Nat :=
  if rmode = 2 then minimalPort true here via else minimalPort (rmode != 1) here dmod

/-- The port of a later hop: past VIA a detour is row first. -/
def nextPort (here rmode dmod : Nat) : Option Nat := minimalPort (rmode != 1) here dmod

/-- A detour's VIA is in the source's row or column, and not the source (R30). -/
def viaOk (smod via : Nat) : Bool := smod != via && (rowOf smod == rowOf via || colOf smod == colOf via)

/-- VIA of a detour: the module that the lowest row port that is up and has credit in the class's first channel leads to. -/
def State.detour (s : State) (cls : Nat) : Option Nat :=
  ((upTo 15).find? fun i => s.portUp i && s.portCredit i && !s.channelFull i cls 1).map (rowPeer s.links.coord.toNat)

/-- RMODE and VIA that a packet of a class leaves with: a minimal route is overridden when its first-hop port is down or has had no
credit for 2 us, unless its label is pinned (R30). -/
def State.override (s : State) (cls rmode via dmod : Nat) (pin : Bool) : Nat × Nat :=
  match firstPort s.links.coord.toNat rmode via dmod with
  | none => (rmode, via)
  | some i =>
    if pin || rmode = 2 || (s.portUp i && s.portCredit i) then (rmode, via)
    else
      match s.detour cls with
      | none => (rmode, via)
      | some m => (2, m)

/-! ### Frames (R32) -/

/-- Frames of a packet, numbered from `seq`. -/
def framesOf (seq : BitVec 12) (p : Packet) : List Frame :=
  (upTo (1 + flitsOf p.payload.length)).map fun i => ⟨seq + BitVec.ofNat 12 i, p, i⟩

/-- The last 2048 frames. -/
def lastFrames (fs : List Frame) : List Frame := fs.drop (fs.length - 2048)

/-- Put a packet on the wire of port `i`; on a port that is down with no spare it is discarded (R407). -/
def State.transmit (s : State) (i : Nat) (p : Packet) : State :=
  if s.portUp i then
    s.modPort (s.carrier i) fun q =>
      let fs := framesOf q.txSeq p
      { q with txSeq := q.txSeq + BitVec.ofNat 12 fs.length, out := q.out ++ fs, replay := lastFrames (q.replay ++ fs) }
  else s

/-- A packet has arrived whole at port `i`: its frames brought credit (R32). -/
def State.framesArrived (s : State) (i : Nat) (p : Packet) : State :=
  s.modPort i fun q => { q with rxSeq := q.rxSeq + BitVec.ofNat 12 (1 + flitsOf p.payload.length), noCredit := false }

/-- A newly assigned spare takes over the port's sequence and resends the frames in flight, the last of its replay buffer:
how many were in flight the transmitter's peer knows (log entry 50). -/
def State.takeOver (s : State) (spare named : Nat) : State :=
  if named < 30 then
    let q := s.port named
    let (k, s) := s.choose (q.replay.length + 1)
    s.modPort spare fun x => { x with
      txSeq := q.txSeq, rxSeq := q.rxSeq, replay := q.replay, out := x.out ++ q.replay.drop (q.replay.length - k) }
  else s

/-- MODCFG_WRITE (R29). -/
def execModcfgWrite (v : Word) (s : State) : Host.Outcome State Fault Refusal :=
  if !s.answers then .next s
  else
    let coord := fld v 0 8
    let a := fld v 8 8
    let b := fld v 16 8
    let l := s.links
    if (coord ≠ l.coord.toNat && s.anyVchip) || (30 ≤ a && a ≠ 0xFF) || (30 ≤ b && b ≠ 0xFF) || (a = b && a ≠ 0xFF) then
      .next (s.modLinks fun l => { l with refused := true })
    else
      let s := s.modLinks fun l => { l with
        coord := BitVec.ofNat 8 coord, sp30 := BitVec.ofNat 8 a, sp31 := BitVec.ofNat 8 b
        refused := l.refused && fld v 32 1 == 0 }
      let s := if a ≠ l.sp30.toNat then s.takeOver 30 a else s
      .next (if b ≠ l.sp31.toNat then s.takeOver 31 b else s)

/-- Replays of a port within the last millisecond (R32). The count takes in the replays that the port has asked for and those that it has
served: the spec does not say which count (log entry 74). -/
def Port.recent (q : Port) (now : Nat) : Nat := (q.replays.filter fun t => now < t + 1000).length

/-- FRAME_CRC_ERROR: the frame is discarded and a replay is requested from its sequence number (R32). -/
def execFrameCrcError (port : Nat) (seq : BitVec 12) (s : State) : Host.Outcome State Fault Refusal :=
  if !s.fabricRuns || !s.portTakes port then .next s
  else .next (s.modPort port fun q => { q with ctl := q.ctl ++ [seq], replays := q.replays ++ [s.now] })

/-- LINK_REPLAY: frames from the named one on are sent again, in order (R32); a port that a spare has replaced sends nothing (R28, R29),
and neither does one in a thermal halt or outside OPERATIONAL (R16, R22). -/
def execLinkReplay (port : Nat) (seq : BitVec 12) (s : State) : Host.Outcome State Fault Refusal :=
  if !s.fabricRuns || !s.portTakes port then .next s
  else .next (s.modPort port fun q =>
    let again := q.replay.dropWhile fun f => f.seq != seq
    { q with out := q.out ++ again, replays := q.replays ++ [s.now] })

/-- PORT_DOWN: a port that has needed more than 16 replays within 1 ms is taken down, with a kind-6 record (R32, R86). -/
def execPortDown (port : Nat) (s : State) : Host.Outcome State Fault Refusal :=
  let q := s.port port
  if !s.fabricRuns || !q.up || q.recent s.now ≤ 16 then .next s
  else .next ((s.modPort port fun q => { q with up := false }).post { kind := 6, code := port } none)

/-- NO_CREDIT_TIMEOUT: the port has had no credit for 2 us, until credit returns on it (R30). -/
def execNoCreditTimeout (port : Nat) (s : State) : Host.Outcome State Fault Refusal :=
  if !s.fabricRuns || !(s.port port).up then .next s
  else .next (s.modPort port fun q => { q with noCredit := true })

/-- Which channel a packet that crosses this module enters. -/
def State.hopFull (s : State) (i : Nat) (p : Packet) : Bool :=
  s.portUp i && s.channelFull i (classOf p.typ) (hopNumber p.rmode p.via s.links.coord.toNat)

/-- PACKET_HOP: a packet for another module goes on towards it in the channel of its next hop, once that channel has credit; nobody but
its source reroutes it (R31, R407). -/
def execPacketHop (port : Nat) (p : Packet) (s : State) : Host.Outcome State Fault Refusal :=
  if !s.fabricRuns || !s.portTakes port then .next s
  else
    match nextPort s.links.coord.toNat p.rmode p.dmod with
    | none => .next s
    | some i => if s.hopFull i p then .next s else .next ((s.framesArrived port p).transmit i p)

/-- The channels of a port that have no credit are these from now on (R31); where one of them, or the port at large, has credit again, the
port has not been without for 2 us (R30). -/
def State.setCredit (s : State) (port : Nat) (full : List Nat) : State :=
  s.modPort port fun q => { q with full := full, noCredit := q.noCredit && !full.isEmpty && q.full.all full.contains }

end Sys2Proof.Machine
end

