-- ==== Sys2Proof/Machine/RecvLog.lean ====
section
/-! DEFINITION. Receive logs (R60 to R65): the control block, filing a packet, executing a request packet at its home, replay,
and resuming streams frozen with code 8. -/

namespace Sys2Proof.Machine

/-! ### Control block and validity (R60) -/

/-- A ring of a receive log: base, log2 of its size, and the control-block words of its head and tail counters. -/
structure Ring where
  base : Nat
  log2 : Nat
  head : Nat
  tail : Nat
  cb : Nat
  hw : Nat
deriving DecidableEq, Repr

def State.cbWord (s : State) (cb i : Nat) : Word := leWord (s.hbmRead Owner.hv (cb + 8 * i) 8)

def State.ringOf (s : State) (cb wi hi : Nat) : Ring :=
  let w := s.cbWord cb wi
  ⟨place (fld w 12 52) 12, fld w 0 5, (s.cbWord cb hi).toNat, (s.cbWord cb (hi + 1)).toNat, cb, hi⟩

/-- The message ring and the deferral ring. -/
def State.msgRing (s : State) (cb : Nat) : Ring := s.ringOf cb 0 2
def State.defRing (s : State) (cb : Nat) : Ring := s.ringOf cb 1 4

def Ring.size (r : Ring) : Nat := 2 ^ r.log2
def Ring.ok (r : Ring) : Bool := r.base != 0 && 16 ≤ r.log2 && r.log2 ≤ 28
def Ring.empty (r : Ring) : Bool := r.head == r.tail

def apart (a n b m : Nat) : Bool := a + n ≤ b || b + m ≤ a

/-- The control block's address when the log is valid. -/
def State.validLog? (s : State) (v : Nat) : Option Nat :=
  match s.logBase? v with
  | none => none
  | some cb =>
    let m := s.msgRing cb
    let d := s.defRing cb
    if m.ok && d.ok && apart cb 64 m.base m.size && apart cb 64 d.base d.size && apart m.base m.size d.base d.size then some cb
    else none

def State.logValid (s : State) (v : Nat) : Bool := (s.validLog? v).isSome

/-- Post the log-invalid record of a vchip whose log is not valid (R60, R86). -/
def State.reportInvalidLog (s : State) (v : Nat) : State :=
  match s.vchip? v with
  | none => s
  | some c => if s.logValid v then s else s.post { kind := 4, slot := v, guest := c.guest } none

/-! ### Records (R61) -/

/-- A record's header words. -/
def recordWords (p : Packet) (arrival : Nat) : List Word :=
  [ wordOf (place p.typ 58 + place p.len 54 + place p.svch 44 + place p.stream 36 + place p.seq 12),
    wordOf (place p.smod 56 + place p.sslot 50 + p.offset),
    wordOf (place p.aop 60 + place p.atype 56 + place p.nbytes 46 + place p.mset 38 + bitOf p.mc 37 + p.oparg),
    p.imm, wordOf arrival, 0, 0, 0 ]

/-- Header and LEN data flits. -/
def recordBytes (p : Packet) (arrival : Nat) : List Byte :=
  wordsBytes (recordWords p arrival) ++
    (p.payload ++ List.replicate (64 * p.len - p.payload.length) 0).take (64 * p.len)

/-- Pads that fill a gap before the ring's end: at most 16 flits each. -/
def padBytes : Nat → Nat → List Byte
  | 0, _ => []
  | fuel + 1, gap =>
    if gap = 0 then []
    else
      let n := min gap 1024
      wordsBytes [wordOf (place (n / 64 - 1) 54), 0, 0, 0, 0, 0, 0, 0] ++ List.replicate (n - 64) 0 ++ padBytes fuel (gap - n)

/-- Bytes of the pads that an append of `n` bytes needs. -/
def Ring.pad (r : Ring) (n : Nat) : Nat :=
  let gap := r.size - r.tail % r.size
  if gap < n then gap else 0

def State.setCounter (s : State) (cb i n : Nat) : State := s.hbmWrite Owner.hv (cb + 8 * i) (wordBytes (wordOf n) 8)

/-- Append a packet to a ring; none when it does not fit (R65). -/
def State.appendRecord (s : State) (v : Nat) (r : Ring) (p : Packet) : Option State :=
  let n := 64 * (1 + p.len)
  let pad := r.pad n
  if r.size < r.tail - r.head + n + pad then none
  else
    let arrival := (s.slot v).log.arrival
    let s := s.hbmWrite (s.logOwner v) (r.base + r.tail % r.size) (padBytes (pad / 64) pad)
    let s := s.hbmWrite (s.logOwner v) (r.base + (r.tail + pad) % r.size) (recordBytes p arrival)
    let s := s.setCounter r.cb (r.hw + 1) (r.tail + pad + n)
    some (s.modSlot v fun x => { x with log := { x.log with arrival := arrival + 1 } })

/-- Header words of the record at a ring's head. -/
def State.recordAt (s : State) (v : Nat) (r : Ring) (pos : Nat) : List Word :=
  bytesWords (s.hbmRead (s.logOwner v) (r.base + pos % r.size) 64)

def recordSize (ws : List Word) : Nat := 64 * (1 + fld (recWord ws 0) 54 4)

/-- The position of the oldest record from `pos` on that is no pad. -/
def State.skipPads (s : State) (v : Nat) (r : Ring) : Nat → Nat → Option Nat
  | 0, _ => none
  | fuel + 1, pos =>
    if r.tail ≤ pos then none
    else
      let ws := s.recordAt v r pos
      if fld (recWord ws 0) 58 6 = 0 then State.skipPads s v r fuel (pos + recordSize ws) else some pos

/-- Pads before a record number at most 64 in a row, since a record needs a gap below 1024 bytes. -/
def State.oldest? (s : State) (v : Nat) (r : Ring) : Option Nat := s.skipPads v r 65 r.head

/-! ### At the home (R35, R40, R62) -/

/-- What executing a request packet comes to: done, a fault code, no place at a deterministic-add agent (R143), or a remote operation at
work, whose accesses follow one at a time (R334, R335). -/
inductive HomeRes where
  | done (s : State)
  | fault (code : Nat)
  | wait
  | work (j : AgentJob) (s : State)
deriving DecidableEq, Repr

/-- Fault code of a stage-2 failure at the destination (R40): 2 where the entry found denies, else 1. -/
def State.stage2Code (s : State) (v gpa : Nat) (acc : Acc) : Nat :=
  let b := (s.slot v).blk
  match stageFind s.rdPhys b.s2range b.s2root gpa with
  | .ok (.hit h) => if (h.denied acc).bits ≠ 0 then 2 else 1
  | _ => 1

def StageHit.place (h : StageHit) : Place := if attrAper h.attr == 2 then .host h.out else .hbm h.out (attrOwner h.attr)

/-- Where an offset of a vchip leads through its stage 2. -/
def State.offsetPlace (s : State) (v off : Nat) (acc : Acc) : Except Nat Place :=
  match s.stage2 v off acc with
  | .ok h => .ok h.place
  | .error _ => .error (s.stage2Code v off acc)

/-- An offset that an agent works on: `n` bytes, readable. -/
def State.agentPlace (s : State) (v off n : Nat) (acc : Acc) : Except Nat Place :=
  match s.offsetPlace v off acc with
  | .ok p => if acc.r && s.badLine p n then .error 3 else .ok p
  | .error c => .error c

/-- The runs of a packet's bytes: it may cross into one more page. -/
def State.offsetRuns (s : State) (v off n : Nat) (acc : Acc) : Except Nat (List (Place × Nat)) :=
  let first := min n (4096 - off % 4096)
  match s.agentPlace v off first acc with
  | .error c => .error c
  | .ok p =>
    if first = n then .ok [(p, n)]
    else
      match s.agentPlace v (off + first) (n - first) acc with
      | .error c => .error c
      | .ok q => .ok [(p, first), (q, n - first)]

/-- Answer an AGENT with its old values: the first in IMM, the others as payload. -/
def State.agentAnswer (s : State) (p : Packet) (vals : List Word) : State :=
  s.answer p 0x05 0 (vals.headD 0) p.stream p.seq (wordsBytes vals.tail) false

/-- What the next access of a remote operation comes to: others follow, or the lane's values. -/
inductive JobRes where
  | more (j : AgentJob) (s : State)
  | done (vals : List Word) (s : State)
deriving DecidableEq, Repr

/-- The next access of a `RENQ` at a pod header (R334): step 2, the exchange of TAIL, then step 3, the link of the node before or HEAD. -/
def State.renqHome (s : State) (v : Nat) (j : AgentJob) : JobRes :=
  let n := wordBytes j.pkt.imm 8
  if j.step = 1 then .more { j with step := 2, found := s.readWord (j.place.add 8) 8 } (s.storeAt (j.place.add 8) n)
  else if j.found == 0 then .done [0, 1] (s.storeAt j.place n)
  else if fld j.found 0 3 ≠ 0 then .done [j.found, 2] s
  else
    match s.agentPlace v (fld j.found 0 40) 8 Acc.write with
    | .error _ => .done [j.found, 2] s
    | .ok q =>
      if s.badLine q 8 then .done [j.found, 3] s
      else if !s.placeOpen v q then .more j s
      else .done [j.found, 0] (s.storeAt q n)

/-- The next hop of an `RCHASE` at a pod home (R335): `step` hops are done, `found` is the pointer so far. A later pointer that leaves the
vchip ends the chase with status 4. -/
def State.chaseHome (s : State) (v : Nat) (j : AgentJob) : JobRes :=
  let off := j.pkt.oparg / 16 % 256 * 8
  let q := s.readWord j.place 8
  let n := j.step + 1
  if q == 0 then .done [j.found, wordOf (j.step + 256)] s
  else if j.pkt.oparg % 16 ≤ n then .done [q, wordOf n] s
  else
    let a := q + wordOf off
    if !inPodWindow a || fld a 40 10 ≠ j.pkt.dvch then .done [q, wordOf (n + 4 * 256)] s
    else if fld a 0 3 ≠ 0 then .done [q, wordOf (n + 2 * 256)] s
    else
      match s.agentPlace v (fld a 0 40) 8 Acc.read with
      | .error c => .done [q, wordOf (n + (if c = 3 then 3 else 2) * 256)] s
      | .ok pl => .more { j with step := n, place := pl, found := q } s

/-- The next access of a remote operation, once its place is open (R27). -/
def State.jobStep (s : State) (v : Nat) (j : AgentJob) : JobRes :=
  if !s.placeOpen v j.place then .more j s else if j.pkt.aop = 11 then s.renqHome v j else s.chaseHome v j

/-- AGENT at its home (R35): reserved operations, types that the instruction does not take and misaligned offsets are illegal
agent operations. A `RENQ` begins with step 1, the node's link; an `RCHASE` with nothing done. -/
def State.agentHome (s : State) (v : Nat) (p : Packet) : HomeRes :=
  let place (n : Nat) (acc : Acc) (body : Place → HomeRes) : HomeRes :=
    match s.agentPlace v p.offset n acc with
    | .error c => .fault c
    | .ok pl => body pl
  let typed (ok : Ty → Bool) (body : Ty → HomeRes) : HomeRes :=
    match Ty.ofCode p.atype with
    | none => .fault 6
    | some t => if ok t && p.offset % (t.width / 8) = 0 then body t else .fault 6
  match p.aop with
  | 8 => typed (fun t => (t == .f32 || t == .f64) && p.offset % 16 == 0) fun t =>
      place 16 Acc.both fun pl =>
        match s.contribute t pl p.oparg p.imm none with
        | none => .wait
        | some (code, _, s) => .done (s.agentAnswer p [wordOf code])
  | 9 => typed (fun t => (t == .f32 || t == .f64) && p.offset % 16 == 0 && p.oparg != 0 && p.oparg < 65536) fun t =>
      place 16 Acc.both fun pl =>
        let (old, s) := s.prepareSlot t pl p.imm p.oparg
        .done (s.agentAnswer p [old])
  | 10 =>
    let n := p.oparg
    if n = 0 || 4 < n || p.offset % 8 ≠ 0 || 64 < p.offset % 64 + 8 * n || p.nbytes ≠ 16 * n then .fault 6
    else place (8 * n) Acc.both fun pl =>
      let ws := bytesWords p.payload
      let (old, s) := s.rcasAt pl (ws.take n) ((ws.drop n).take n)
      .done (s.agentAnswer p old)
  | 11 =>
    if p.offset % 16 ≠ 0 || fld p.imm 0 3 ≠ 0 then .fault 6
    else place 16 Acc.both fun h =>
      match s.agentPlace v (fld p.imm 0 40) 8 Acc.write with
      | .error c => .fault c
      | .ok np => .work ⟨0, p, 1, h, 0⟩ (s.storeAt np (wordBytes 0 8))
  | 12 =>
    let hops := p.oparg % 16
    let off := p.oparg / 16 % 256 * 8
    let first := (p.offset + off) % 2 ^ 40
    if hops = 0 || 8 < hops || first % 8 ≠ 0 then .fault 6
    else
      match s.agentPlace v first 8 Acc.read with
      | .error c => .fault c
      | .ok pl => .work ⟨0, p, 0, pl, wordOf (2 ^ 56 + p.dvch * 2 ^ 40 + p.offset)⟩ s
  | k =>
    match [Aop.add, .min, .max, .land, .lor, .lxor, .exch, .cas][k]? with
    | none => .fault 6
    | some a => typed (Aop.takes a) fun t =>
        place (t.width / 8) Acc.both fun pl =>
          let n := t.width / 8
          let old := leNat (s.readPlace pl n)
          let (b, c) := if a == .cas then (leNat (p.payload.take n), p.imm.toNat) else (p.imm.toNat, 0)
          let new := atomNew a t old (b % 2 ^ t.width) (c % 2 ^ t.width)
          .done ((s.storeAt pl (wordBytes (wordOf new) n)).agentAnswer p [atomOld t old])

/-- HALO's IMM holds its kind (R165). -/
def haloKind (imm : Word) : Nat := fld imm 27 2

/-- A WRITE, READ, AGENT or HALO packet at its home. A READ that asks for more than 960 bytes is given 960, one that asks for none gives
none (log entry 102). -/
def State.homeExec (s : State) (v : Nat) (p : Packet) : HomeRes :=
  match p.typ with
  | 1 =>
    match s.offsetRuns v p.offset p.nbytes Acc.write with
    | .error c => .fault c
    | .ok runs =>
      .done (runs.foldl (fun (r : State × List Byte) e => (r.1.storeAt e.1 (r.2.take e.2), r.2.drop e.2)) (s, p.payload)).1
  | 2 =>
    let n := min p.oparg 960
    match s.offsetRuns v p.offset n Acc.read with
    | .error c => .fault c
    | .ok runs => .done (s.answer p 0x03 0 0 p.stream p.seq (runs.flatMap fun e => s.readPlace e.1 e.2) false)
  | 4 => s.agentHome v p
  | 7 => .done (s.haloApply v (haloKind p.imm) p.oparg p.imm p.payload p.svch none 0)
  | _ => .done s

/-- First and last offset that a request works on at its home, with the access that it makes there: what a READ asks for, a WRITE's valid
payload, an agent's words, the first hop of an `RCHASE`, the node of a `RENQ` beside its header. -/
def homeSpan (p : Packet) : List (Nat × Acc) :=
  match p.typ with
  | 2 => [(p.offset, Acc.read), (p.offset + (min p.oparg 960 - 1), Acc.read)]
  | 4 =>
    if p.aop = 12 then [((p.offset + p.oparg / 16 % 256 * 8) % 2 ^ 40, Acc.read)]
    else (p.offset, Acc.both) :: (if p.aop = 11 then [(fld p.imm 0 40, Acc.write)] else [])
  | _ => [(p.offset, Acc.write), (p.offset + (p.nbytes - 1), Acc.write)]

/-- A packet for host memory waits while its vchip's TDI is not in RUN (R27). -/
def State.homeHeld (s : State) (v : Nat) (p : Packet) : Bool :=
  p.typ != 7 && !s.hostOpen v && (homeSpan p).any fun o =>
    match s.offsetPlace v o.1 o.2 with
    | .ok pl => !s.placeOpen v pl
    | .error _ => false

/-- What executing it comes to now. -/
def State.homeNow (s : State) (v : Nat) (p : Packet) : HomeRes := if s.homeHeld v p then .wait else s.homeExec v p

/-- A request packet is filed as R62 gives; a fault code leaves it unexecuted. After 200 us of replay the deferral ring takes nothing more
(R63); the message ring still does, which the spec leaves open (log entry 79). -/
def State.fileRequest (s : State) (p : Packet) : HomeRes :=
  let v := p.dslot
  match s.validLog? v with
  | none => .fault 8
  | some cb =>
    let defer (r : Ring) : HomeRes :=
      match s.appendRecord v r p with
      | none => .fault 8
      | some s => .done s
    if p.typ = 6 then defer (s.msgRing cb)
    else if (s.slot v).log.st == .running then s.homeNow v p
    else if (s.slot v).log.limit then .fault 8
    else defer (s.defRing cb)

/-! ### Resuming streams frozen with code 8 (R60, R63, R65) -/

/-- The destination sends RESUME for the streams frozen with code 8 that a ring's refusal `which` picks, with no hypervisor action. -/
def State.resumeWhere (s : State) (v : Nat) (which : DstFreeze → Bool) : State :=
  (s.fabric.dst.filter fun d => d.id.slot == v && (match d.frozen with | some z => z.code == 8 && which z | none => false)).foldl
    (fun s d =>
      match d.frozen, d.last with
      | some z, some p => (s.setDst { d with frozen := none }).sendResume p false z.seq
      | _, _ => s) s

/-- Every stream frozen with code 8 resumes: the log runs again, or has become valid (R60, R63). -/
def State.resumeFull (s : State) (v : Nat) : State := s.resumeWhere v fun _ => true

/-- A quarter of the message ring is free. -/
def Ring.quarterFree (r : Ring) : Bool := r.size / 4 ≤ r.size - (r.tail - r.head)

/-! ### Replay (R63, R64) -/

/-- The packet of a deferral record, for its answer: the vlink's key is found by its ends. -/
def State.recordPacket (s : State) (v : Nat) (ws : List Word) (data : List Byte) : Packet :=
  let svch := fld (recWord ws 0) 44 10
  let (guest, vch) := match s.vchip? v with
    | some c => (s.headerOf c, c.vch)
    | none => (0, 0)
  let k := ((List.find? (fun (e : Nat × Key) => e.2.v && e.2.guest == guest && e.2.svch == svch && e.2.dvch == vch) s.tables.keys).map
    fun e => e.1).getD 0
  let w2 := recWord ws 2
  let h : Hdr := {
    typ := fld (recWord ws 0) 58 6, stream := fld (recWord ws 0) 36 8, seq := fld (recWord ws 0) 12 24
    smod := fld (recWord ws 1) 56 8, sslot := fld (recWord ws 1) 50 6, offset := fld (recWord ws 1) 0 40
    aop := fld w2 60 4, atype := fld w2 56 4, nbytes := fld w2 46 10, mset := fld w2 38 8, mc := fld w2 37 1 == 1
    oparg := fld w2 0 24, imm := recWord ws 3, keyix := k, guest := guest, svch := svch, dvch := vch, dslot := v
    dmod := s.links.coord.toNat }
  h.packet (data.take (fld w2 46 10))

/-- A record that meets a fault at replay: an answer with its code, and a record with REPL (R64). -/
def State.replayFault (s : State) (v : Nat) (p : Packet) (code : Nat) : State :=
  let s := if p.typ = 2 then s.answer p 0x03 code 0 p.stream p.seq [] false
    else if p.typ = 4 then s.answer p 0x05 code 0 p.stream p.seq [] false else s
  s.post { kind := 2, slot := v, guest := p.guest, svch := p.svch, dvch := p.dvch, stream := p.stream, seq := p.seq,
           repl := true, code := code, addr := p.offset } none

/-- The next access of the remote operation that a log replays (R64, R334, R335), which a freeze lets end; the last one answers, and the
record has executed. -/
def State.replayAgent (s : State) (slot : Nat) : State :=
  match s.validLog? slot, (s.slot slot).log.job with
  | some cb, some j =>
    if (s.slot slot).log.st != .replaying || !s.fabricRuns then s
    else
      let setJob (s : State) (j : Option AgentJob) : State := s.modSlot slot fun x => { x with log := { x.log with job := j } }
      match s.jobStep slot j with
      | .more j s => setJob s (some j)
      | .done vals s =>
        let r := s.defRing cb
        let s := setJob (s.agentAnswer j.pkt vals) none
        match s.oldest? slot r with
        | none => s
        | some pos => s.setCounter cb 4 (pos + recordSize (s.recordAt slot r pos))
  | _, _ => s

/-- LOG_REPLAY_RECORD: the oldest deferral record executes (R64). An illegal agent operation (code 6), which the rule does not name, is
answered and recorded as codes 1 to 3 are (log entry 80). -/
def execLogReplayRecord (slot : Nat) (s : State) : Host.Outcome State Fault Refusal :=
  match s.validLog? slot with
  | none => .next s
  | some cb =>
    if (s.slot slot).log.st != .replaying || s.isFrozen slot || !s.fabricRuns || (s.slot slot).log.job.isSome then .next s
    else
      let r := s.defRing cb
      match s.oldest? slot r with
      | none => .next (s.setCounter cb 4 r.tail)
      | some pos =>
        let ws := s.recordAt slot r pos
        let n := recordSize ws
        let p := s.recordPacket slot ws (s.hbmRead (s.logOwner slot) (r.base + pos % r.size + 64) (n - 64))
        match s.homeNow slot p with
        | .wait => .next s
        | .work j s => .next (s.modSlot slot fun x => { x with log := { x.log with job := some j } })
        | .done s => .next (s.setCounter cb 4 (pos + n))
        | .fault code => .next ((s.replayFault slot p code).setCounter cb 4 (pos + n))

/-- LOG_REPLAY_DONE: the deferral ring is empty; the log runs, warps restart, and streams frozen with code 8 resume (R63). -/
def execLogReplayDone (slot : Nat) (s : State) : Host.Outcome State Fault Refusal :=
  match s.validLog? slot with
  | none => .next s
  | some cb =>
    if (s.slot slot).log.st != .replaying || s.isFrozen slot || s.power.thalt || !(s.defRing cb).empty then .next s
    else .next ((s.setLogSt slot .running).resumeFull slot)

/-- LOG_REPLAY_LIMIT: replay has run 200 us; streams that append further are frozen with code 8 (R63). -/
def execLogReplayLimit (slot : Nat) (s : State) : Host.Outcome State Fault Refusal :=
  let l := (s.slot slot).log
  if l.st != .replaying || s.now < l.since + 200 then .next s
  else .next (s.modSlot slot fun x => { x with log := { x.log with limit := true } })

/-- LOG_SPACE_RESUME: streams that the deferral ring refused resume once it is empty, those that the message ring refused once a quarter
of it is free (R63, R65). -/
def execLogSpaceResume (slot : Nat) (s : State) : Host.Outcome State Fault Refusal :=
  match s.validLog? slot with
  | none => .next s
  | some cb =>
    let d := (s.defRing cb).empty
    let m := (s.msgRing cb).quarterFree
    .next (s.resumeWhere slot fun z => if z.msg then m else d)

/-- The control block of a log that is set: its counters start at 0, and words W0 and W1 that nothing has written hold their reset
values, MQLOG2 20 and DFLOG2 22 (R60). -/
def State.startBlock (s : State) (cb : Nat) : State :=
  let s := if s.cbWord cb 0 == 0 && s.cbWord cb 1 == 0 then s.hbmWrite Owner.hv cb (wordsBytes [20, 22]) else s
  s.hbmWrite Owner.hv (cb + 16) (List.replicate 32 0)

/-- RLOGBASE_WRITE: ignored while the vchip's log is not RUNNING with both rings empty (R69); the ring counters of the new control block
start at 0 (R60). -/
def execRlogbaseWrite (slot : Nat) (v : Word) (s : State) : Host.Outcome State Fault Refusal :=
  let empty := match s.validLog? slot with
    | none => true
    | some cb => (s.msgRing cb).empty && (s.defRing cb).empty
  if !s.answers || 64 ≤ slot || ((s.vchip? slot).isSome && !((s.slot slot).log.st == .running && empty)) then .next s
  else
    let s := s.modSlot slot fun x => { x with blk := { x.blk with rlogbase := wordOf (place (fld v 6 46) 6 + fld v 0 1) } }
    let s := match s.logBase? slot with
      | some cb => s.startBlock cb
      | none => s
    let s := if (s.vchip? slot).isSome then s.setLogSt slot (s.slot slot).log.st else s
    .next (if s.logValid slot then s.resumeFull slot else s.reportInvalidLog slot)

/-- CONTROL_BLOCK_WRITE: W0 and W1, before the vchip first runs; a log that becomes valid lets the streams refused with code 8
go on, and one that ceases to be valid is reported (R60). -/
def execControlBlockWrite (slot : Nat) (w0 w1 : Word) (s : State) : Host.Outcome State Fault Refusal :=
  match s.logBase? slot with
  | none => .next s
  | some cb =>
    if !s.answers || (s.slot slot).log.ran then .next s
    else
      let was := s.logValid slot
      let s := s.hbmWrite Owner.hv cb (wordsBytes [w0, w1])
      .next (if s.logValid slot then s.resumeFull slot else if was then s.reportInvalidLog slot else s)

end Sys2Proof.Machine
end

