-- ==== Sys2Proof/Machine/Fabric.lean ====
section
/-! DEFINITION. The fabric interface units: keys in use and their move (R36, R50 to R52), injecting requests and answers (R30, R38,
R39, R46, R56, R57), abandoning a stream (R40), the check of an arriving packet (R37, R51) and requests in SEQ order (R38). -/

namespace Sys2Proof

open Machine

/-- Reserved fields of the header (R33). -/
def Packet.reserved (p : Packet) : Bool :=
  fld p.w0 49 3 != 0 || fld p.w0 0 12 != 0 || fld p.w2 50 14 != 0 || fld p.w3 24 3 != 0

def Packet.isRequest (p : Packet) : Bool := p.typ == 1 || p.typ == 2 || p.typ == 4 || p.typ == 6 || p.typ == 7

def Packet.listed (p : Packet) : Bool :=
  (1 ≤ p.typ && p.typ ≤ 8) || p.typ == 0x10 || p.typ == 0x11 || p.typ == 0x20 || p.typ == 0x21

/-- A header error that the header alone shows (R30, R33, R37, R165). -/
def Packet.headerBad (p : Packet) : Bool :=
  p.reserved || p.rmode == 3 || (p.rmode == 2 && !viaOk p.smod p.via) || (p.rev && p.isRequest) || !p.listed ||
    (p.typ == 7 && (fld p.imm 27 2 == 3 || fld p.imm 16 10 != 0))

/-- The stream of a request at its destination (R38). -/
def Packet.dstId (p : Packet) : DstId := ⟨p.dslot, p.svch, p.stream⟩

/-- A packet with another RMODE and VIA. -/
def Packet.routed (p : Packet) (route : Nat × Nat) : Packet :=
  { p with w0 := wordOf (place (fld p.w0 54 10) 54 + place route.1 52 + place (fld p.w0 40 9) 40 + place route.2 32 + fld p.w0 0 32) }

end Sys2Proof

namespace Sys2Proof.Machine

def seqMod : Nat := 2 ^ 24

/-- SEQ `a` comes before SEQ `b`, or is `b` (R38, R39). -/
def seqLe (a b : Nat) : Bool := (b + seqMod - a) % seqMod < 2 ^ 23

/-- A stream that expects SEQ `next` has executed SEQ `s`: the distance lies from 1 to 2^23 (R407). -/
def seqExecuted (next s : Nat) : Bool := 1 ≤ (next + seqMod - s) % seqMod && (next + seqMod - s) % seqMod ≤ 2 ^ 23

/-! ### Keys (R52) -/

/-- An end moves the key: the current key becomes the previous one, NKEY the current; the epoch's counts start again; a kind-3
record is posted. -/
def State.moveKey (s : State) (kx : Nat) : State :=
  match s.key? kx with
  | none => s
  | some k =>
    let s := s.modKey kx fun k => { k with
      prev := some k.key, key := k.nkey, epoch := k.epoch + 1, w0 := k.w0 &&& ~~~((1 : Word) <<< 62), retFwd := 0, retRev := 0
      wrap := false }
    let unwrap (x : SrcStream) : SrcStream := if s.keyIxOf x.id.slot x.id.dvch = kx then { x with wrapped := false } else x
    let s := s.modFabric fun f => { f with src := f.src.map unwrap }
    let here := match s.vchip? k.sslot with
      | some c => c.guest == k.guest && c.vch == k.svch
      | none => false
    s.post { kind := 3, slot := if here then k.sslot else k.dslot, guest := k.guest, addr := kx, epoch := (k.epoch + 1).toNat } none

/-- The end holds an unacknowledged request of an earlier epoch. -/
def State.oldEpoch (s : State) (kx : Nat) (k : Key) : Bool :=
  s.fabric.src.any fun x => x.sent.any fun p => p.pkt.keyix == kx && p.pkt.epoch != k.epoch.toNat

/-- KEY_MOVE: a wrap has occurred, the next key is installed, and nothing older is unacknowledged (R52). -/
def execKeyMove (keyix : Nat) (s : State) : Host.Outcome State Fault Refusal :=
  match s.key? keyix with
  | none => .next s
  | some k => if k.wrap && k.nxv && !s.oldEpoch keyix k then .next (s.moveKey keyix) else .next s

/-! ### PSEND's handle (R53, R376) -/

/-- One copy of a `PSEND` has ended with a status; the last completes the handle. Status 4 stands over 6; its INFO is the failing address
that no rule names (R293; log entry 96). -/
def State.psendPart (s : State) (w f status : Nat) : State :=
  match s.work.psends.find? fun p => p.warp == w && p.f == f with
  | none => s
  | some p =>
    let st := if p.status = 4 || status = 4 then 4 else max p.status status
    let rest := s.work.psends.filter fun q => !(q.warp == w && q.f == f)
    if p.pending ≤ 1 then
      let (info, s) := s.failInfo st
      ((s.modWork fun k => { k with psends := rest }).modWarp w fun x => x.completeHandle f st 0 info).settleWarp w
    else s.modWork fun k => { k with psends := rest ++ [{ p with pending := p.pending - 1, status := st }] }

/-! ### Injection -/

/-- New requests of a guest wait during the pause of its rewrite (R55). -/
def State.paused (s : State) (guest : Nat) : Bool :=
  s.tables.rewrite.phase == .paused && (s.tables.rewrite.guest == guest ||
    s.tables.rewrite.shadow.any fun d => d.1.guest == guest)

/-- Put a packet on its way: the loopback path, or the wire of its first hop. -/
def State.emit (s : State) (p : Packet) (loop : Bool) (port : Option Nat) : State :=
  match loop, port with
  | false, some i => s.transmit i p
  | _, _ => s.modFabric fun f => { f with loopback := f.loopback ++ [p] }

/-- The channel of a class for the first hop has no credit (R31). -/
def State.blocked (s : State) (cls : Nat) (loop : Bool) (port : Option Nat) : Bool :=
  match loop, port with
  | false, some i => s.portUp i && s.channelFull i cls 1
  | _, _ => false

def State.coordN (s : State) : Nat := s.links.coord.toNat

/-- A stream may inject: not frozen, its vchip not frozen (R18, R40). -/
def State.mayInject (s : State) (x : SrcStream) : Bool := s.fabricRuns && x.frozen.isNone && !s.isFrozen x.id.slot

/-- The lane behind a request may be performed (R188, R190). -/
def State.originReady (s : State) (o : Origin) : Bool :=
  match o with
  | .lane w op l =>
    match s.warp? w with
    | none => true
    | some x => match x.work.ops.find? fun p => p.id == op with
      | none => true
      | some p => match p.lanes[l]? with
        | none => true
        | some q => s.mayPerform x p q
  | _ => true

/-- What goes before an engine's late read has been performed (R190, R191); of what its path issued before it, an `ATOM` that a frozen stream
holds is not waited for (R404, log entry 72), where no `FENCE.X` lies between them (R330). -/
def State.lateReady (s : State) (r : Request) : Bool :=
  match r.late, r.origin with
  | some l, .psend w _ =>
    let held (o : MemOp) : Bool := ((s.warp? w).map fun x => o.lanes.all fun q => q.done || s.inFrozen x o q).getD false
    ((s.warp? w).map fun x => s.placeOpen (s.slotOf x) l.place).getD true &&
      s.idsDone w l.after (fun o => o.beforeEngines && !held o) &&
      s.opsDone w l.xfence fun o => o.kind.writes
  | _, _ => true

/-- A payload that is read as its packet leaves. -/
def State.lateBytes (s : State) (o : Origin) (l : LateRead) : List Byte :=
  match o with
  | .psend w _ => s.warpBytes w l.place l.len
  | _ => s.readPlace l.place l.len

/-- The header of a request from its stream (R33, R46). -/
def State.requestHdr (s : State) (x : SrcStream) (c : Vchip) (e : Word) (k : Nat) (epoch : Nat) (r : Request) (route : Nat × Nat) :
    Hdr where
  typ := r.typ
  rmode := if mapLoop e then 0 else route.1
  dmod := mapDmod e
  via := if mapLoop e then 0 else route.2
  smod := s.coordN
  dslot := mapDslot e
  sslot := x.id.slot
  keyix := k
  guest := s.headerOf c
  stream := x.id.stream
  seq := x.nextSeq
  dvch := x.id.dvch
  offset := r.offset
  aop := r.aop
  atype := r.atype
  nbytes := r.bytes
  svch := c.vch
  mset := r.mset
  mc := r.mc
  oparg := r.oparg
  imm := r.imm
  epoch := epoch

/-- Send the head of a stream's queue (R46): with no route or key it freezes the stream with code 1, or, as a copy of a
multicast, it is dropped with status 6 (R53, R57). -/
def State.sendHead (s : State) (x : SrcStream) (r : Request) (rest : List Request) : State :=
  match s.vchip? x.id.slot with
  | none => s
  | some c =>
    let g := (s.guest? (s.headerOf c)).getD ⟨0, 0, [], [], []⟩
    let e := g.mapEntry x.id.dvch
    let k := s.keyIxOf x.id.slot x.id.dvch
    let l := g.label (mapLabel e)
    if !mapV e || k = 0 || !labV l then
      if r.mc then
        let s := s.setSrc { x with queued := rest }
        match r.origin with
        | .psend w f => s.psendPart w f 6
        | _ => s
      else s.freezeSrc x.id 1 x.nextSeq r.offset
    else
      let loop := mapLoop e || mapDmod e == s.coordN
      let route := if loop then (labMode l, labVia l) else s.override 0 (labMode l) (labVia l) (mapDmod e) (labPin l)
      let port := if loop then none else firstPort s.coordN route.1 route.2 (mapDmod e)
      if s.blocked 0 loop port then s
      else
        let key := (s.key? k).getD ⟨0, 0, 0, 0, none, 0, 0, false⟩
        let r := match r.late with
          | some q => { r with payload := s.lateBytes r.origin q }
          | none => r
        let p := ((s.requestHdr x c e k key.epoch.toNat r route).packet r.payload).seal key.key false
        let last := x.nextSeq + 1 == seqMod
        let s := s.setSrc { x with
          queued := rest, nextSeq := (x.nextSeq + 1) % seqMod, wrapped := last
          sent := x.sent ++ [⟨x.nextSeq, p, loop, port.getD 0, r.origin, 0⟩] }
        let s := if last then s.modKey k fun q => { q with wrap := true } else s
        let s := match r.origin with
          | .lane w op i => s.modLane w op i fun q => { q with sent := true }
          | _ => s
        s.emit p loop port

/-- The next packet of a stream: one that a RESUME sends again, as first sent and on its first route, else a new one. -/
def State.sendStream (s : State) (id : StreamId) : State :=
  match s.srcStream? id with
  | none => s
  | some x =>
    if !s.mayInject x then s
    else
      match x.resend with
      | q :: qs =>
        match x.sent.find? fun p => p.seq == q with
        | none => s.setSrc { x with resend := qs }
        | some p =>
          if s.blocked 0 p.loopback (some p.port) then s
          else
            let sent := x.sent.map fun (e : Sent) => if e.seq = q then { e with age := 0 } else e
            (s.setSrc { x with resend := qs, sent := sent }).emit p.pkt p.loopback (some p.port)
      | [] =>
        match x.queued with
        | [] => s
        | r :: rest =>
          if x.wrapped || s.paused x.guest || !s.originReady r.origin || !s.lateReady r then s else s.sendHead x r rest

/-- The end of a key that sends a packet: its counter (R36, R51). -/
def Key.counter (k : Key) (rev : Bool) : Nat := if rev && k.svch != k.dvch then k.retRev else k.retFwd

def Key.count (k : Key) (rev : Bool) : Key :=
  let n := k.counter rev + 1
  let k := if n = 2 ^ 32 - 1 then { k with wrap := true } else k
  if rev && k.svch != k.dvch then { k with retRev := n } else { k with retFwd := n }

/-- Whether an answer can go now, and how: its route and first port. -/
def State.outRoute (s : State) (o : OutPkt) : Option ((Nat × Nat) × Option Nat) :=
  let route := if o.loopback then (0, 0) else s.override (classOf o.pkt.typ) o.pkt.rmode o.pkt.via o.pkt.dmod o.pin
  let port := if o.loopback then none else firstPort s.coordN route.1 route.2 o.pkt.dmod
  let full := match s.key? o.keyix with
    | some k => k.counter o.pkt.rev == 2 ^ 32 - 1
    | none => false
  if s.blocked (classOf o.pkt.typ) o.loopback port || full then none else some (route, port)

/-- Seal an answer under its key with the sender's return count, and send it; a key that has gone leaves nothing to send it
under. -/
def State.sendOut (s : State) (o : OutPkt) (route : Nat × Nat) (port : Option Nat) : State :=
  match s.key? o.keyix with
  | none => s
  | some k =>
    let n := k.counter o.pkt.rev
    let p := ((o.pkt.routed route).numbered (n / seqMod) (n % seqMod) k.epoch.toNat).seal k.key true
    (s.modKey o.keyix fun k => k.count o.pkt.rev).emit p o.loopback port

/-- The oldest packet of a class whose channel has credit and whose count is not exhausted. -/
def State.nextOut (s : State) : List OutPkt → Option (OutPkt × List OutPkt × (Nat × Nat) × Option Nat)
  | [] => none
  | o :: os =>
    match s.outRoute o with
    | some (route, port) => some (o, os, route, port)
    | none => (State.nextOut s os).map fun (a, rest, r) => (a, o :: rest, r)

/-- FABRIC_SEND (R30, R36, R46). -/
def execFabricSend (sel : SendSel) (s : State) : Host.Outcome State Fault Refusal :=
  if !s.fabricRuns then .next s
  else
    match sel with
    | .stream id => .next (s.sendStream id)
    | .control =>
      match s.nextOut s.fabric.controls with
      | none => .next s
      | some (o, rest, route, port) => .next ((s.modFabric fun f => { f with controls := rest }).sendOut o route port)
    | .response =>
      match s.nextOut s.fabric.responses with
      | none => .next s
      | some (o, rest, route, port) => .next ((s.modFabric fun f => { f with responses := rest }).sendOut o route port)

/-- SOURCE_TIMEOUT: a request has waited 10 ms for an ACK; its stream freezes here with code 9, at the oldest such SEQ (R407). -/
def execSourceTimeout (id : StreamId) (s : State) : Host.Outcome State Fault Refusal :=
  match s.srcStream? id with
  | none => .next s
  | some x =>
    if !s.fabricRuns || x.frozen.isSome then .next s
    else
      match x.sent.find? fun p => 10000 ≤ p.age && !x.resend.contains p.seq with
      | none => .next s
      | some p => .next (s.freezeSrc id 9 p.seq p.pkt.offset)

/-- Timers of requests run by `us`, except in frozen streams and for packets that wait to be sent again (R407). -/
def State.runTimers (s : State) (us : Nat) : State :=
  let run (x : SrcStream) (p : Sent) : Sent := if x.resend.contains p.seq then p else { p with age := p.age + us }
  let all (x : SrcStream) : SrcStream := if x.frozen.isSome then x else { x with sent := x.sent.map (run x) }
  s.modFabric fun f => { f with src := f.src.map all }

/-! ### Answers at the source -/

/-- How many values an operation's lane receives. -/
def OpKind.vals (k : OpKind) (size : Nat) : Nat :=
  match k with
  | .load _ => if size = 16 then 2 else 1
  | .rcas n => n
  | .renq | .rchase _ _ => 2
  | .store | .bari | .bara => 0
  | _ => 1

/-- A load or agent operation's lane is abandoned: undefined values, and a remote abandon for its warp (R40, R64, R218). -/
def State.abandonLane (s : State) (w op l code : Nat) : State :=
  match (s.warp? w).bind fun x => x.work.ops.find? fun p => p.id == op with
  | none => s
  | some o =>
    if o.kind == .store then s.laneDone w op l []
    else
      let size := ((o.lanes[l]?).map (·.size)).getD 8
      let (vs, s) := s.freshN (o.kind.vals size)
      (s.modWarp w fun x => { x with work := { x.work with abandon := some (x.work.abandon.getD code) } }).laneDone w op l vs

def State.post? (s : State) (id : Nat) : Option Post := KMap.find? s.work.posts id

/-- A post as it stands: its handle's INFO is its completion count (R379). -/
def State.setPost (s : State) (p : Post) : State :=
  (s.modWork fun k => { k with posts := KMap.put k.posts p.id p }).modWarp p.warp fun w =>
    w.setHandle p.f { w.handle p.f with info := wordOf p.count }

/-- A packet of a post goes out on Ethernet under the endpoint's key (R41): its bytes from `off` on. -/
def State.sendEther (s : State) (p : Post) (off : Nat) (bs : List Byte) : State :=
  let key := ((KMap.find? (s.slot p.slot).netcfg p.endpoint).map (·.key)).getD 0
  let mac := Config.gcmTag key (BitVec.ofNat 96 (place p.id 64 + off)) [wordOf p.endpoint, p.roff, p.tag] bs
  s.modFabric fun f => { f with ether := f.ether ++ [⟨p.id, p.slot, p.endpoint, p.op, p.roff, p.tag, off, bs, mac⟩] }

/-- Bytes that a write or a send has read: they leave at once, those of a frozen vchip at its resume (R18). -/
def State.postGot (s : State) (p : Post) (off : Nat) (bs : List Byte) : Post × State :=
  let p := { p with data := p.data ++ [(off, bs)] }
  if s.isFrozen p.slot then ({ p with unsent := p.unsent ++ [(off, bs)] }, s) else (p, s.sendEther p off bs)

/-- What a freeze kept from leaving leaves. -/
def State.sendUnsent (s : State) (p : Post) : State :=
  p.unsent.foldl (fun s e => s.sendEther p e.1 e.2) (s.modWork fun k => { k with posts := KMap.put k.posts p.id { p with unsent := [] } })

/-- A post's bytes that were read from pod space arrive (R74, R379). -/
def State.postData (s : State) (id off : Nat) (bs : List Byte) : State :=
  match KMap.find? s.work.posts id with
  | none => s
  | some p =>
    let (p, s) := s.postGot p off bs
    s.setPost p

/-- A post ends: its handle completes with a status and the bytes counted. -/
def State.endPost (s : State) (id status : Nat) : State :=
  match KMap.find? s.work.posts id with
  | none => s
  | some p =>
    let s := s.modWork fun k => { k with posts := KMap.erase k.posts id }
    (s.modWarp p.warp fun w => w.completeHandle p.f status 0 (wordOf p.count)).settleWarp p.warp

/-- What an abandoned request leaves to who waits for it (R40); a copy's READ names its source (R293). -/
def State.abandonOrigin (s : State) (code : Nat) (read : Bool) (o : Origin) : State :=
  match o with
  | .none => s
  | .lane w op l => s.abandonLane w op l code
  | .copy id i =>
    match KMap.find? s.work.copies id with
    | none => s
    | some c => s.failCopy c .abandoned (if read then c.srcAddr i else c.dstAddr c.fill) 0 0
  | .psend w f => s.psendPart w f 4
  | .post id _ => s.endPost id 4
  | .face p _ => s.faceFailed p 4

/-- Abandon a stream at its source (R40, steps 6 and 7): everything held or queued is dropped, and a forward RESUME confirms,
except where nothing was sent at or after the SEQ frozen. -/
def State.abandonStream (s : State) (id : StreamId) : State :=
  match s.srcStream? id with
  | none => s
  | some x =>
    match x.frozen with
    | none => s
    | some fz =>
      let os := (x.sent.map fun p => (p.pkt.typ == 2, p.origin)) ++ (x.await.map fun e => (true, e.2)) ++
        x.queued.map fun r => (r.typ == 2, r.origin)
      let s := s.setSrc { x with queued := [], resend := [], sent := [], await := [], frozen := none }
      let s := os.dedup.foldl (fun s o => s.abandonOrigin fz.code o.1 o.2) s
      if fz.isLocal && fz.code = 1 then s else s.sendControl id.slot id.dvch 0x11 1 0 id.stream x.nextSeq []

/-- Retransmit a stream from a SEQ on (R40, R407). -/
def State.resendFrom (s : State) (id : StreamId) (seq : Nat) : State :=
  match s.srcStream? id with
  | none => s
  | some x => s.setSrc { x with frozen := none, resend := (x.sent.filter fun p => seqLe seq p.seq).map (·.seq) }

/-- A request has been acknowledged (R39): a store or beat is done; a read or an agent operation with a result waits for its
answer. -/
def State.acked (s : State) (id : StreamId) (p : Sent) : State :=
  let wait (s : State) : State :=
    let x := s.srcStream id
    s.setSrc { x with await := x.await ++ [(p.seq, p.origin)] }
  match p.origin with
  | .none => s
  | .lane w op l =>
    if p.pkt.typ = 1 then s.laneDone w op l []
    else
      match (s.warp? w).bind fun x => x.work.ops.find? fun q => q.id == op with
      | none => s
      | some o => if o.kind.reads || o.dst.isSome then wait s else s.laneDone w op l []
  | .copy c _ =>
    if p.pkt.typ = 2 then wait s
    else
      match KMap.find? s.work.copies c with
      | none => s
      | some c => s.delivered { c with inPod := c.inPod - p.pkt.nbytes } p.pkt.nbytes
  | .psend w f => s.psendPart w f 0
  | .post q _ =>
    if p.pkt.typ = 2 then wait s
    else
      match s.post? q with
      | none => s
      | some x => s.setPost { x with count := x.count + p.pkt.nbytes }
  | .face q _ => if fld p.pkt.imm 26 1 = 1 then s.faceDone q else s

/-- A cumulative ACK. -/
def State.ackStream (s : State) (id : StreamId) (seq : Nat) : State :=
  match s.srcStream? id with
  | none => s
  | some x =>
    let done := x.sent.filter fun p => seqLe p.seq seq
    let s := s.setSrc { x with
      sent := x.sent.filter fun p => !seqLe p.seq seq
      resend := x.resend.filter fun q => !seqLe q seq }
    done.foldl (fun s p => s.acked id p) s

/-- Who waits for the answer to a SEQ, which then waits no more. -/
def State.takeOrigin (s : State) (id : StreamId) (seq : Nat) : Origin × State :=
  match s.srcStream? id with
  | none => (.none, s)
  | some x =>
    match x.await.find? fun e => e.1 == seq with
    | some e => (e.2, s.setSrc { x with await := x.await.filter fun q => q.1 != seq })
    | none =>
      match x.sent.find? fun p => p.seq == seq with
      | none => (.none, s)
      | some p =>
        (p.origin, s.setSrc { x with sent := x.sent.map fun (q : Sent) => if q.seq = seq then { q with origin := .none } else q })

/-- A READRSP's data or status reaches who asked (R34, R64). -/
def State.readAnswer (s : State) (o : Origin) (status : Nat) (bs : List Byte) : State :=
  match o with
  | .lane w op l =>
    if status ≠ 0 then s.abandonLane w op l status
    else
      match (s.warp? w).bind fun x => x.work.ops.find? fun p => p.id == op with
      | none => s
      | some q =>
        let sx := match q.kind with | .load b => b | _ => false
        s.laneDone w op l (loadValues sx (((q.lanes[l]?).map (·.size)).getD 8) bs)
  | .copy id first =>
    match KMap.find? s.work.copies id with
    | none => s
    | some c =>
      if status ≠ 0 then
        s.failCopy c (if status = 3 then .uncorrectable else .stage1) (c.srcAddr first) 0 0
      else s.setCopy { c with ahead := c.ahead.map fun (e : Nat × Option (List Byte)) => if e.1 = first then (first, some bs) else e }
  | .post id off => if status ≠ 0 then s.endPost id (if status = 3 then 3 else 2) else s.postData id off bs
  | _ => s

/-- A chase that made no hop returns the start as the lane gave it (R335). -/
def State.chaseStart (s : State) (w op l : Nat) (vals : List Word) : List Word :=
  match (s.warp? w).bind fun x => x.work.ops.find? fun p => p.id == op with
  | some o =>
    match o.kind, o.lanes[l]?, vals with
    | .rchase _ _, some q, [p, n] => if fld n 0 8 = 0 then [q.addr, n] else [p, n]
    | _, _, vs => vs
  | none => vals

/-- An AGENTRSP's old values reach the lane. -/
def State.agentReply (s : State) (o : Origin) (status : Nat) (vals : List Word) : State :=
  match o with
  | .lane w op l => if status ≠ 0 then s.abandonLane w op l status else s.laneDone w op l (s.chaseStart w op l vals)
  | _ => s

/-! ### The check of an arriving packet (R37, R51, R52) -/

/-- The key that a packet's EPOCH selects, and whether it is the next one. -/
def Key.forEpoch (k : Key) (epoch : Nat) : Option (BitVec 256 × Bool) :=
  if epoch = k.epoch.toNat then some (k.key, false)
  else if (epoch + 1) % 2 ^ 32 = k.epoch.toNat then k.prev.map fun q => (q, false)
  else if epoch = (k.epoch + 1).toNat && k.nxv then some (k.nkey, true)
  else none

/-- The match of R51. -/
def Key.matches (k : Key) (p : Packet) : Bool :=
  p.guest == k.guest && (if p.rev then p.svch == k.dvch && p.dslot == k.sslot else p.svch == k.svch && p.dslot == k.dslot)

/-- The check: a fault code or none, and the state, with the key moved where the packet is the first that checks under the
next one. -/
def State.check (s : State) (p : Packet) : Option Nat × State :=
  match s.key? p.keyix with
  | none => (some 5, s)
  | some k =>
    if !k.v || p.keyix = 0 then (some 5, s)
    else
      match k.forEpoch p.epoch with
      | none => (some 4, s)
      | some (key, next) =>
        if !p.tagOk key (!p.isRequest) then (some 4, s)
        else
          let s := if next then s.moveKey p.keyix else s
          (if p.headerBad || !k.matches p then some 5 else if (s.vchip? p.dslot).isNone then some 7 else none, s)

/-! ### Requests in SEQ order (R38 to R40) -/

/-- Execute the held packets of a stream from the expected SEQ on; whether any was. -/
def State.drain : Nat → State → DstId → Bool → State
  | 0, s, _, _ => s
  | fuel + 1, s, id, some_ =>
    let d := s.dstStream id
    let stop (s : State) : State :=
      match d.last with
      | some p => if some_ then s.sendAck p ((d.expected + seqMod - 1) % seqMod) else s
      | none => s
    if d.frozen.isSome then s
    else if d.job.isSome then stop s
    else
      match d.held.find? fun e => e.2.seq == d.expected with
      | none => stop s
      | some (_, p) =>
        match s.fileRequest p with
        | .wait => stop s
        | .fault code => (stop s).freezeDst p code d.expected
        | .work j s => (stop s).setDst { d with job := some j }
        | .done s =>
          State.drain fuel (s.setDst { d with
            expected := (d.expected + 1) % seqMod, held := d.held.filter fun e => e.2.seq != d.expected }) id true

/-- A remote operation at a home has made its last access: it is answered, and the stream expects the next SEQ. -/
def State.endJob (s : State) (id : DstId) (j : AgentJob) (vals : List Word) : State :=
  let s := s.agentAnswer j.pkt vals
  let d := s.dstStream id
  s.setDst { d with expected := (d.expected + 1) % seqMod, held := d.held.filter fun e => e.2.seq != d.expected, job := none }

/-- The next access of the remote operation at the head of a stream (R334, R335); after the last one the stream goes on. -/
def State.agentTurn (s : State) (id : DstId) : State :=
  let d := s.dstStream id
  match d.job with
  | none => s
  | some j =>
    if !s.fabricRuns || (s.vchip? id.slot).isNone then s
    else
      match s.jobStep id.slot j with
      | .more j s => s.setDst { d with job := some j }
      | .done vals s => (s.endJob id j vals).drain (d.held.length + 1) id true

/-- A remote operation under way ends before its stream freezes or is abandoned: its packet has executed (R40). -/
def State.finishJob : Nat → State → DstId → State
  | 0, s, _ => s
  | fuel + 1, s, id =>
    let d := s.dstStream id
    match d.job with
    | none => s
    | some j =>
      match s.jobStep id.slot j with
      | .more j s => State.finishJob fuel (s.setDst { d with job := some j }) id
      | .done vals s =>
        let s := s.endJob id j vals
        match d.last with
        | some p => s.sendAck p d.expected
        | none => s

/-- A stream with an executable held packet goes on: a place at an agent has come free (R143). -/
def State.retryHeld (s : State) : State :=
  s.fabric.dst.foldl (fun s d => if d.held.any fun e => e.2.seq == d.expected then s.drain (d.held.length + 1) d.id false else s) s

/-- A request that passed its check (R38, R40, R407): already executed, it is acknowledged, in a frozen stream too; a frozen stream
discards what comes later; else it is held until its turn. -/
def State.acceptRequest (s : State) (port : Nat) (p : Packet) : State :=
  let d := { s.dstStream p.dstId with last := some p }
  if seqExecuted d.expected p.seq then (s.setDst d).sendAck p ((d.expected + seqMod - 1) % seqMod)
  else if d.frozen.isSome then s.setDst d
  else
    let held := if d.held.any fun e => e.2.seq == p.seq then d.held else d.held ++ [(port, p)]
    (s.setDst { d with held := held }).drain (held.length + 1) p.dstId false

/-- The packet's KEYIX entry is invalid, or the match of R51 fails: the hypervisor is notified (R37). -/
def State.keyFails (s : State) (p : Packet) : Bool :=
  p.keyix == 0 || ((s.key? p.keyix).map fun k => !k.v || !k.matches p).getD true

/-- The record of a packet whose key does not fit, where no stream is left to freeze: code 5, without a token (R37; log entry 52). -/
def State.notifyKey (s : State) (p : Packet) (stream seq : Nat) : State :=
  s.post { kind := 2, slot := p.dslot, guest := p.guest, svch := p.svch, dvch := p.dvch, stream := stream, seq := seq, code := 5 } none

/-- A request arrives: one that fails the check freezes its stream at the expected SEQ (R37, R40); on a stream that is frozen already it
leaves the record alone that R37 asks for. -/
def State.takeRequest (s : State) (port : Nat) (p : Packet) : State :=
  match s.check p with
  | (none, s) => (s.acceptRequest port p).retryHeld
  | (some code, s) =>
    if (s.dstStream p.dstId).frozen.isSome then if s.keyFails p then s.notifyKey p p.stream p.seq else s
    else
      let s := s.finishJob 10 p.dstId
      s.freezeDst p code (s.dstStream p.dstId).expected

/-- A response or control packet that fails the check is discarded, and its stream freezes with the code (R37): the stream that an answer
names, at its source and from its oldest unacknowledged SEQ; for a packet that goes forward, the stream at its destination that its
RSTREAM names, which HINT and GANG packets leave 0 (log entry 52). With no vchip to hold the stream only the record is left. -/
def State.refuseAnswer (s : State) (p : Packet) (code : Nat) : State :=
  if (s.vchip? p.dslot).isNone then if s.keyFails p then s.notifyKey p p.rstream p.rseq else s
  else if p.rev then
    let id : StreamId := ⟨p.dslot, p.svch, p.rstream⟩
    let x := s.srcStream id
    if x.frozen.isSome then if s.keyFails p then s.notifyKey p p.rstream p.rseq else s
    else
      match x.sent with
      | [] => s.freezeSrc id code x.nextSeq 0
      | q :: _ => s.freezeSrc id code q.seq q.pkt.offset
  else
    let id : DstId := ⟨p.dslot, p.svch, p.rstream⟩
    if (s.dstStream id).frozen.isSome then if s.keyFails p then s.notifyKey p p.rstream p.rseq else s
    else
      let s := s.finishJob 10 id
      s.freezeDst (p.numbered p.rstream p.seq p.epoch) code (s.dstStream id).expected

/-- The reorder buffer of a port, which holds requests, is full: the port withholds credit (R38). -/
def State.reorderFull (s : State) (port : Nat) : Bool :=
  1024 ≤ (s.fabric.dst.map fun d => (d.held.filter fun e => e.1 == port).length).sum

/-- A packet finds no credit at the port by which it comes: a request while the reorder buffer is full. Answers and control packets have
channels of their own (R31, R38). -/
def State.noRoom (s : State) (port : Nat) (p : Packet) : Bool := classOf p.typ == 0 && s.reorderFull port

end Sys2Proof.Machine
end

