-- ==== Sys2Proof/Machine/Dot.lean ====
section
/-! DEFINITION. The dot-product rule: products, groups, scales and accumulation (R243, R244, R246, R349). -/

namespace Sys2Proof.Machine

/-- The product of two elements, with its flags (R243). -/
def dotProduct (a b : FV) : FV × Nat :=
  match a, b with
  | .nan s, .nan t => (.nan false, if s || t then flNV else 0)
  | .nan s, _ => (.nan false, if s then flNV else 0)
  | _, .nan s => (.nan false, if s then flNV else 0)
  | _, _ =>
    match mulFV a b with
    | none => (.nan false, flNV)
    | some p => (p, 0)

/-- The squared difference of `MDSQ` (R349). -/
def dotSquare (a b : FV) : FV × Nat :=
  match a, b with
  | .nan s, .nan t => (.nan false, if s || t then flNV else 0)
  | .nan s, _ => (.nan false, if s then flNV else 0)
  | _, .nan s => (.nan false, if s then flNV else 0)
  | .inf s, .inf t => if s == t then (.nan false, flNV) else (.inf false, 0)
  | .inf _, _ => (.inf false, 0)
  | _, .inf _ => (.inf false, 0)
  | .fin s m i, .fin t n j =>
    let (x, e) := addExact (sgn s m) i (-(sgn t n)) j
    (.fin false (x.natAbs * x.natAbs) (2 * e), 0)

/-- floor(log2 |x|) of a nonzero finite value. -/
def FV.lead : FV → Option Int
  | .fin _ m e => if m = 0 then none else some (e + Nat.log2 m)
  | _ => none

/-- ±floor(|p| × 2^(32 − E)). -/
def FV.term (top : Int) : FV → Int
  | .fin s m e =>
    let k := e + 32 - top
    let t : Nat := if 0 ≤ k then m * 2 ^ k.toNat else m / 2 ^ (-k).toNat
    sgn s t
  | _ => 0

def FV.isNanV : FV → Bool
  | .nan _ => true
  | _ => false

def FV.isInfV (neg : Bool) : FV → Bool
  | .inf s => s == neg
  | _ => false

def FV.isNegZero : FV → Bool
  | .fin s m _ => s && m == 0
  | _ => false

/-- A scale factor, and whether it is a BF16 code with an all-ones exponent (R241). -/
structure Scale where
  neg : Bool
  m : Nat
  e : Int
  special : Bool
deriving DecidableEq, Repr

def Scale.one : Scale := ⟨false, 1, 0, false⟩

/-- A scale code of kind 1 (E8) or 2 (BF16); kind 0 is 1 (R241). -/
def Scale.ofCode (kind code : Nat) : Scale :=
  match kind with
  | 1 => ⟨false, 1, (code : Int) - 127, false⟩
  | 2 =>
    let all := code / 2 ^ 7 % 2 ^ 8 == 255
    match Fmt.bf16.dec (if all then code / 2 ^ 15 * 2 ^ 15 + 0x7F7F else code) with
    | .fin s m e => ⟨s, m, e, all⟩
    | _ => Scale.one
  | _ => Scale.one

/-- ±m × 2^e under both scales. -/
def scaled (neg : Bool) (m : Nat) (e : Int) (a b : Scale) : Bool × Nat × Int :=
  ((neg != a.neg) != b.neg, m * a.m * b.m, e + a.e + b.e)

/-- |m × 2^e| ≥ 2^128 × (1 − 2^−25) (R243). -/
def dotOverflows (m : Nat) (e : Int) : Bool :=
  let lim : Nat := 2 ^ 25 - 1
  if 103 ≤ e then lim ≤ m * 2 ^ (e - 103).toNat else lim * 2 ^ (103 - e).toNat ≤ m

/-- group_value (R243, R246). -/
def groupValue (ps : List FV) (a b : Scale) : FV × Nat :=
  if ps.any FV.isNanV then (.nan false, 0)
  else if ps.any (FV.isInfV false) && ps.any (FV.isInfV true) then (.nan false, flNV)
  else if ps.any (FV.isInfV false) then (.inf false, 0)
  else if ps.any (FV.isInfV true) then (.inf true, 0)
  else
    let fl := if a.special || b.special then flNV else 0
    let leads := ps.filterMap FV.lead
    let top := leads.foldl max (leads.headD 0)
    let s := (ps.map (FV.term top)).sum
    if s = 0 then
      let neg := ps.all FV.isNegZero
      (.fin ((neg != a.neg) != b.neg) 0 0, fl)
    else
      let (neg, m, e) := scaled (s < 0) s.natAbs (top - 32) a b
      if m = 0 then (.fin neg 0 0, fl)
      else if dotOverflows m e then (.inf neg, fl ||| flOF)
      else (.fin neg m e, fl)

/-- accumulate (R243): f32, rounded to nearest even once. -/
def accumulate (acc : Nat) (v : FV) : FRes :=
  let f := Fmt.f32
  let x := f.dec acc
  if f.isNan acc || v.isNanV then ⟨f.canon, if f.isSnan acc then flNV else 0⟩
  else f.addFV 0 x v

/-- One group of a K-step into an f32 accumulator: products, their flags, scales. -/
def dotGroup (sq : Bool) (acc : Nat) (as bs : List FV) (a b : Scale) : FRes :=
  let ps := (as.zip bs).map fun e => if sq then dotSquare e.1 e.2 else dotProduct e.1 e.2
  let fl := ps.foldl (fun f p => f ||| p.2) 0
  let (v, fv) := groupValue (ps.map (·.1)) a b
  let r := accumulate acc v
  ⟨r.bits, fl ||| fv ||| r.fl⟩

/-- An integer group with saturation (R244, R349). -/
def intGroup (sq : Bool) (acc : Nat) (as bs : List Int) : FRes :=
  let s := ((as.zip bs).map fun e => if sq then (e.1 - e.2) * (e.1 - e.2) else e.1 * e.2).sum
  let v := sext 32 acc + s
  let hi := intMax true 32
  let lo := intMin true 32
  if hi < v then ⟨toBits 32 hi, flOF⟩ else if v < lo then ⟨toBits 32 lo, flOF⟩ else ⟨toBits 32 v, 0⟩

end Sys2Proof.Machine
end

