-- ==== Sys2Proof/Machine/Matrix.lean ====
section
/-! DEFINITION. Matrix instructions at issue: encodings' operands, the full-mask rule, the format block and the operand faults
(R220, R241, R242, R342 to R357). -/

namespace Sys2Proof.Machine

/-! ### MOPF (R353) -/

/-- MOPF holds its path until every load of the warp issued before it has written its registers; it then fixes the register
values that a later matrix instruction reads (R197). -/
def execMopf (g : Guard) (s : State) : Host.Outcome State Fault Refusal :=
  s.once g 0 false fun x =>
    x.afterOps (fun o => o.dst.isSome && !o.scalar) (.done (x.put { x.w with work := { x.w.work with mopf := x.w.vr.v } }))

/-! ### Reading the gang's vault -/

/-- Bytes of the gang's vault space; an address outside it reads zero (its checks have gone before). -/
def State.vaultBytes (s : State) (g : Gang) (a : Word) (n : Nat) : List Byte :=
  match g.vaultPlace a n with
  | .ok t => s.readPlace t.place n
  | .error _ => List.replicate n 0

def State.vaultNat (s : State) (g : Gang) (a : Word) (n : Nat) : Nat := leNat (s.vaultBytes g a n)

/-- The array of a core, in the manner of a copy channel (R342). -/
def arrayChannel (core : Nat) : Nat := 2 ^ 20 + core

/-- A result that an operation of warp `wid` with handle `f` writes to the vault (R183, R190). -/
def State.vaultStore (s : State) (g : Gang) (wid f : Nat) (chan : Option Nat) (a : Word) (bs : List Byte) : State :=
  match g.vaultPlace a bs.length with
  | .ok t => s.engineStore wid chan f 1 t.place bs
  | .error _ => s

/-- What goes before an engine operation issued now has been performed: one that reads the vault at its issue waits for it (R190, R191,
R242). -/
def Ictx.engineReady (x : Ictx) : Bool := x.s.engineMayRead x.c.warp x.before x.w.work.xfence

/-- A run of bytes lies in the gang's vault space. -/
def Gang.holds (g : Gang) (a : Word) (n : Nat) : Bool :=
  match g.vaultPlace a n with
  | .ok _ => true
  | .error _ => false

/-! ### The format block (R241, R242) -/

/-- Bytes of `n` elements of a format: BF16, FP16, INT8, CB4 (R346). -/
def fmtBytes (fmt n : Nat) : Nat := if fmt ≤ 1 then 2 * n else if fmt = 2 then n else n / 2

/-- A format block's fields for one operand: W0 fields from `lo`, scale and codebook address words. -/
structure FmtSide where
  fmt : Nat
  blkCode : Nat
  sk : Nat
  cb : Nat
  sc : Nat
deriving DecidableEq, Repr

def FmtSide.of (w0 w : Word) (lo : Nat) : FmtSide := ⟨fld w0 lo 2, fld w0 (lo + 4) 2, fld w0 (lo + 6) 2, fld w 32 26, fld w 0 26⟩

/-- Block length along k. -/
def FmtSide.block (f : FmtSide) : Nat := 32 / 2 ^ f.blkCode

/-- Bytes of a scale. -/
def FmtSide.scaleSize (f : FmtSide) : Nat := if f.sk = 0 then 0 else f.sk

structure FmtBlock where
  iacc : Bool
  a : FmtSide
  b : FmtSide
  reserved : Bool
deriving DecidableEq, Repr

def FmtBlock.of (w0 w1 w2 w3 : Word) : FmtBlock :=
  ⟨fld w0 16 1 == 1, FmtSide.of w0 w1 0, FmtSide.of w0 w2 8,
    fld w0 17 47 ≠ 0 || fld w0 10 2 ≠ 0 || fld w0 2 2 ≠ 0 || fld w1 58 6 ≠ 0 || fld w1 26 6 ≠ 0 ||
    fld w2 58 6 ≠ 0 || fld w2 26 6 ≠ 0 || w3 ≠ 0⟩

def FmtBlock.bad (f : FmtBlock) : Bool :=
  f.reserved || f.a.blkCode == 3 || f.b.blkCode == 3 || f.a.sk == 3 || f.b.sk == 3 ||
  (f.iacc && (f.a.fmt != 2 || f.b.fmt != 2 || f.a.sk != 0 || f.b.sk != 0))

def State.readFmt (s : State) (g : Gang) (a : Word) : FmtBlock :=
  let w (i : Nat) := leWord (s.vaultBytes g (a + wordOf (8 * i)) 8)
  FmtBlock.of (w 0) (w 1) (w 2) (w 3)

/-- Codebook and scale runs of an operand: `first` and `n` scales from the array's base (R347). -/
def FmtSide.runsOk (f : FmtSide) (g : Gang) (runs : List (Nat × Nat)) : Bool :=
  (f.fmt != 3 || (f.cb % 32 == 0 && g.holds (wordOf f.cb) 32)) &&
  (f.sk == 0 || (f.sc % f.scaleSize == 0 && runs.all fun r =>
    g.holds (wordOf (f.sc + f.scaleSize * r.1)) (f.scaleSize * r.2)))

/-- What an operand's format comes to, read at issue. -/
def State.readSide (s : State) (g : Gang) (f : FmtSide) (runs : List (Nat × Nat)) : OperandFmt where
  fmt := f.fmt
  blk := f.block
  sk := f.sk
  sc := f.sc
  book := if f.fmt = 3 then (upTo 16).map fun i => BitVec.ofNat 16 (s.vaultNat g (wordOf (f.cb + 2 * i)) 2) else []
  scales := if f.sk = 0 then [] else runs.flatMap fun r =>
    (upTo r.2).map fun i => BitVec.ofNat 16 (s.vaultNat g (wordOf (f.sc + f.scaleSize * (r.1 + i))) f.scaleSize)

/-- The faults of the format block, in order (R242). -/
def State.fmtFault (s : State) (g : Gang) (fb : Word) (aRuns bRuns : FmtBlock → List (Nat × Nat)) : Option Nat :=
  if fld fb 0 5 ≠ 0 || !g.holds fb 32 then some 0x10
  else
    let f := s.readFmt g fb
    if f.bad then some 0x11
    else if f.a.runsOk g (aRuns f) && f.b.runsOk g (bRuns f) then none else some 0x12

/-! ### The shared issue of a matrix operation -/

/-- The full-mask rule (R220). -/
def Ictx.fullMaskOk (x : Ictx) (g : Guard) : Bool := x.lanes g == fullMask x.w.width

/-- Faults in the order of R344: operand SUBs, lowest first, then vault space. -/
def Ictx.matFaults (x : Ictx) (subs : List Nat) (ends : List (Word × Nat)) (ok : Res) : Res :=
  match sortNat subs with
  | n :: _ => x.fault 19 n
  | [] =>
    match ends.find? fun e => !x.g.holds e.1 e.2 with
    | some e => x.faultAt 16 3 e.1
    | none => ok

/-- A matrix instruction: handle, tiles counter, names, mask, registers, and then its body (R131, R220, R342, R344). -/
def State.matrix (s : State) (g : Guard) (f : Option Nat) (regs : Nat) (priv : Bool) (body : Ictx → Res) :
    Host.Outcome State Fault Refusal :=
  s.run fun x => x.allowed priv
    (let go (x : Ictx) : Res :=
      if 15 ≤ x.w.cnt.tl then x.wait
      else if !x.fullMaskOk g then x.fault 2 1
      else x.inRange regs (body x)
    match f with
    | none => go x
    | some f => x.withHandle f go)

def sub? (b : Bool) (n : Nat) : List Nat := if b then [n] else []

/-- The z-tile check (R345). -/
def Ictx.tileBad (x : Ictx) (zt n : Nat) : List Nat := sub? (x.g.zt < zt + max n 1) 0x29

/-- Physical tile of tile `t` of a warp's workgroup. -/
def Gang.tile (g : Gang) (w : Warp) (t : Nat) : Nat := w.id.core * 384 + ((g.wg? w.id.wg).bind fun c => c.ztiles[t]?).getD 0

/-- The last operation of the workgroup that writes tile `t` is not covered: the warp does not know of its completion (R352). -/
def Ictx.uncovered (x : Ictx) (t : Nat) : Bool :=
  match KMap.find? x.g.writers (384 * x.w.id.wg + t) with
  | none => false
  | some id => !x.w.work.known.contains id

/-- An operation with nothing but its numbers. -/
def Ictx.blankOp (x : Ictx) (f : Nat) (k : MatKind) (zt : Nat) : MatOp :=
  ⟨0, x.c.warp, f, x.c.w0, x.c.w1, k, zt, 0, 0, 0, 0, 0, 0, false, false, false, ⟨0, 32, 0, 0, [], []⟩, ⟨0, 32, 0, 0, [], []⟩,
    [], 0, [], [], x.w.rm, false, 0, 0, 0, x.w.mode, 0, [], [], 0⟩

/-- One that reads or writes the vault after its issue. -/
def Ictx.vaultOp (x : Ictx) (f : Nat) (k : MatKind) (zt : Nat) : MatOp :=
  { x.blankOp f k zt with after := x.before, xfence := x.w.work.xfence }

/-- Register operands as they stand, and as they stood at the last `MOPF`: `n` registers from `r` in 32 lanes (R197). -/
def Ictx.snap (_x : Ictx) (v : KMap Word) (r n : Nat) : List (Nat × Nat × Word) :=
  (upTo n).flatMap fun k => (upTo 32).map fun l => (r + k, l, KMap.get v 0 (128 * (r + k) + l))

/-- The operation joins the array's queue; `tiles` are those that it writes. -/
def Ictx.queue (x : Ictx) (o : MatOp) (handle : Option Nat) (tiles : List Nat) : State :=
  let id := x.s.work.nextMat
  let w := match handle with
    | none => x.w
    | some f => x.w.setHandle f (Handle.issue 1)
  let w := { w with
    cnt := { w.cnt with tl := w.cnt.tl + 1 }
    work := { w.work with mzTiles := w.work.mzTiles ++ tiles.map fun t => (id, handle.getD 16, t) } }
  let own (g : Gang) : Gang := { g with writers := tiles.foldl (fun m t => KMap.put m (384 * x.w.id.wg + t) id) g.writers }
  ((x.put w).modGang x.w.id.gang own).modWork fun k => { k with
    nextMat := id + 1
    arrays := KMap.put k.arrays x.w.id.core (KMap.get k.arrays [] x.w.id.core ++ [{ o with id := id }]) }

/-- DONE at issue. -/
def Ictx.doneAtIssue (x : Ictx) (f op : Nat) : Res := .done (x.put (x.w.setHandle f ((Handle.issue op).complete 0 0 0)))

/-! ### Multiply and distance (R346 to R351) -/

def geoNk (geo : Word) : Nat := fld geo 0 12 + 1
def geoPa (geo : Word) : Nat := fld geo 32 16
def geoPb (geo : Word) : Nat := fld geo 48 16

/-- A multiply's operands: kind, handle, tile, A as a register or an address, the rest. -/
structure MulArgs where
  kind : MatKind
  mmab : Bool
  dsq : Bool
  walk : Bool
  f : Nat
  zt : Nat
  av : Bool
  bt : Bool
  areg : Nat
  a : Word
  b : Word
  fb : Word
  geo : Word
  bstr : Word
  tab : Word
deriving DecidableEq, Repr

/-- The block table's header and entries (R350): NBLK, entries; none when the header lies outside the vault space. -/
def State.readTable (s : State) (g : Gang) (tab : Word) : Option (Nat × Nat × Nat × List Nat) :=
  if !g.holds tab 8 then none
  else
    let h := leWord (s.vaultBytes g tab 8)
    let n := fld h 0 16
    some (fld h 32 32, fld h 16 16, n,
      if n ≤ 1024 && g.holds tab (8 + 2 * n) then (upTo n).map fun i => s.vaultNat g (tab + wordOf (8 + 2 * i)) 2 else [])

/-- Entries strictly ascending. -/
def ascending : List Nat → Bool
  | a :: b :: r => a < b && ascending (b :: r)
  | _ => true

/-- Vault run of one B block (R346). -/
def bRun (m : MulArgs) (fmt beta : Nat) : Word × Nat :=
  let nk := geoNk m.geo
  let base := m.b + m.bstr * wordOf beta
  if m.bt then (base, 31 * geoPb m.geo + fmtBytes fmt (32 * nk)) else (base, (32 * nk - 1) * geoPb m.geo + fmtBytes fmt 32)

/-- Runs of B's scales for the listed blocks (R347). -/
def bScaleRuns (nk : Nat) (list : List Nat) (f : FmtBlock) : List (Nat × Nat) :=
  let n := 32 * (32 / f.b.block) * nk
  list.map fun beta => (beta * n, n)

def aScaleRuns (ta : Nat) (f : FmtBlock) : List (Nat × Nat) := [(0, 32 * (32 / f.a.block) * ta)]

/-- Element bytes of a tile move (R356). -/
def tileElem (t : Ty) : Nat := t.width / 8

/-- Vault run of a tile at a pitch. -/
def tileRuns (t : Ty) (a pitch : Word) : List (Word × Nat) :=
  (upTo 32).map fun m => (a + pitch * wordOf m, 32 * tileElem t)

/-- Vault runs that an array operation is to write (R354, R356). -/
def MatOp.writeRuns (o : MatOp) : List (Word × Nat) :=
  match o.kind with
  | .mzst t => tileRuns t o.a o.b
  | .topk _ _ k => (upTo 32).map fun m => (o.a + wordOf (256 * m), 8 * k)
  | _ => []

/-- Vault runs that an operand's format reads at issue: codebook and scales (R242, R346, R347). -/
def FmtSide.issueRuns (f : FmtSide) (runs : List (Nat × Nat)) : List (Word × Nat) :=
  (if f.fmt = 3 then [(wordOf f.cb, 32)] else []) ++
  if f.sk = 0 then [] else runs.map fun r => (wordOf (f.sc + f.scaleSize * r.1), f.scaleSize * r.2)

/-- An earlier operation in the core's array is still to write some of these runs (R342). -/
def Ictx.rewritten (x : Ictx) (runs : List (Word × Nat)) : Bool :=
  (KMap.get x.s.work.arrays [] x.w.id.core).any fun o =>
    match (x.s.warp? o.warp).bind x.s.gangOf with
    | none => false
    | some g => o.writeRuns.any fun p => runs.any fun q =>
      match g.vaultPlace p.1 p.2, x.g.vaultPlace q.1 q.2 with
      | .ok t, .ok u => t.place.overlaps p.2 u.place q.2
      | _, _ => false

/-- Runs that a multiply reads at its issue: block table, format block, codebooks and scales (R242, R350). -/
def Ictx.mulReads (x : Ictx) (m : MulArgs) : List (Word × Nat) :=
  let nk := geoNk m.geo
  let (_, _, count, list) := (if m.mmab then x.s.readTable x.g m.tab else some (0, 1, 1, [0])).getD (0, 1, 0, [])
  let f := x.s.readFmt x.g m.fb
  (if m.mmab then [(m.tab, 8 + 2 * count)] else []) ++ (m.fb, 32) ::
    (f.a.issueRuns (aScaleRuns (if m.walk then count * nk else nk) f) ++ f.b.issueRuns (bScaleRuns nk list f))

/-- What goes before a multiply's reads at its issue has been performed: the warp's own earlier accesses (R190), and the array's earlier
operations where they write what it reads (R342). -/
def Ictx.mulReady (x : Ictx) (m : MulArgs) : Bool := x.engineReady && !x.rewritten (x.mulReads m)

/-- What the array's earlier operations have written lands before a later one reads (R342). -/
def Ictx.arrayLanded (x : Ictx) : Ictx :=
  let s := x.s.landChannel (arrayChannel x.w.id.core)
  { x with s := s, w := (s.warp? x.c.warp).getD x.w }

/-- Issue of MMA, MMAZ, MMAB and MDSQ, once what it reads at issue stands there. -/
def Ictx.mulIssue (x : Ictx) (m : MulArgs) : Res :=
  let nk := geoNk m.geo
  let tb := if m.mmab then x.s.readTable x.g m.tab else some (0, 1, 1, [0])
  let (hres, nblk, count, list) := tb.getD (0, 1, 0, [])
  let ta := if m.walk then count * nk else nk
  match x.s.fmtFault x.g m.fb (aScaleRuns ta) (bScaleRuns nk list) with
  | some n => x.fault 19 n
  | none =>
    let f := x.s.readFmt x.g m.fb
    let mis (w : Word) := fld w 0 4 ≠ 0
    let subs :=
      sub? (!m.av && (x.w.width ≠ 32 || 64 < fmtBytes f.a.fmt (32 * ta))) 0x20 ++
      sub? ((m.av && (mis m.a || geoPa m.geo % 16 ≠ 0)) || mis m.b || geoPb m.geo % 16 ≠ 0 ||
        (m.mmab && (mis m.bstr || fld m.tab 0 3 ≠ 0))) 0x21 ++
      sub? (fld m.geo 12 20 ≠ 0 || hres ≠ 0) 0x22 ++
      sub? (m.mmab && tb.isSome && (1024 < count || nblk = 0 || list.any (fun e => nblk ≤ e) || !ascending list)) 0x23 ++
      sub? (m.dsq && (f.a.sk ≠ 0 || f.b.sk ≠ 0)) 0x24 ++
      x.tileBad m.zt (if m.mmab && !m.walk then count else 1)
    let ends :=
      (if m.mmab then [(m.tab, 8 + 2 * count)] else []) ++
      (if m.av && 0 < ta then [(m.a, 31 * geoPa m.geo + fmtBytes f.a.fmt (32 * ta))] else []) ++
      list.map (bRun m f.b.fmt)
    x.matFaults subs ends
      (if m.mmab && count = 0 then x.doneAtIssue m.f 1
      else
        let o : MatOp := { x.blankOp m.f m.kind m.zt with
          a := m.a, b := m.b, geo := m.geo, bstr := m.bstr, tab := m.tab, fbk := m.fb, av := m.av, bt := m.bt, iacc := f.iacc
          fa := x.s.readSide x.g f.a (aScaleRuns ta f)
          fb := x.s.readSide x.g f.b (bScaleRuns nk list f)
          list := list, nblk := nblk
          regs := if m.av then [] else x.snap x.w.vr.v m.areg 8
          mopf := if m.av then [] else x.snap x.w.work.mopf m.areg 8 }
        .done (x.queue o (some m.f) (if m.mmab && !m.walk then (upTo count).map fun i => m.zt + i else [m.zt])))

/-- Issue of a multiply. -/
def Ictx.mul (x : Ictx) (m : MulArgs) : Res :=
  let y := x.arrayLanded
  if y.mulReady m then y.mulIssue m else x.wait

/-- The register base of an A operand in registers. -/
def regOf : Operand → Nat
  | .v n => n
  | _ => 0

/-- One of the four multiplies. -/
def mulInstr (s : State) (g : Guard) (k : MatKind) (mmab dsq walk av bt : Bool) (d zt : Nat) (b c fb geo bstr tab : Operand) :
    Host.Outcome State Fault Refusal :=
  s.matrix g (some d) (if av then 0 else Operand.top b 8) (privOf ([c, fb, geo, bstr, tab] ++ (if av then [b] else [])))
    fun x =>
      let u (o : Operand) := x.uni .b64 o
      x.mul ⟨k, mmab, dsq, walk, d, zt, av, bt, regOf b, if av then u b else 0, u c, u fb, u geo, u bstr, u tab⟩

/-- MMA. -/
def execMma (g : Guard) (av bt : Bool) (d zt : Nat) (b c fb geo : Operand) (s : State) :
    Host.Outcome State Fault Refusal :=
  mulInstr s g (.mul false false false false) false false false av bt d zt b c fb geo (.int 0) (.int 0)

/-- MMAZ. -/
def execMmaz (g : Guard) (av bt : Bool) (d zt : Nat) (b c fb geo : Operand) (s : State) :
    Host.Outcome State Fault Refusal :=
  mulInstr s g (.mul true false false false) false false false av bt d zt b c fb geo (.int 0) (.int 0)

/-- MMAB. -/
def execMmab (g : Guard) (av bt z walk : Bool) (d zt : Nat) (b c fb geo bstr tab : Operand) (s : State) :
    Host.Outcome State Fault Refusal :=
  mulInstr s g (.mul z walk true false) true false walk av bt d zt b c fb geo bstr tab

/-- MDSQ. -/
def execMdsq (g : Guard) (av bt z : Bool) (d zt : Nat) (b c fb geo : Operand) (s : State) :
    Host.Outcome State Fault Refusal :=
  mulInstr s g (.mul z false false true) false true false av bt d zt b c fb geo (.int 0) (.int 0)

/-! ### Selection and tile moves (R354 to R356) -/

def misaligned16 (w : Word) : Bool := fld w 0 4 != 0

/-- MTOPK: reads the tile; `undef` when a writer of it is not covered. -/
def execMtopk (g : Guard) (t : Ty) (max : Bool) (k : Nat) (d zt : Nat) (b c : Operand) (s : State) :
    Host.Outcome State Fault Refusal :=
  s.matrix g (some d) 0 (privOf [b, c]) fun x =>
    let list := x.uni t b
    let base := fld (x.uni t c) 0 32
    x.matFaults (sub? (misaligned16 list) 0x21 ++ sub? (0xFFFFFFDF < base) 0x25 ++ x.tileBad zt 1) [(list, 32 * 256)]
      (.done (x.queue { x.vaultOp d (.topk t max k) zt with a := list, c := wordOf base, undef := x.uncovered zt } (some d) []))

/-- Registers of a `MZMV` (R355). -/
def mzmvRegs (t : Ty) : Nat := if t.width = 32 then 16 else 8

/-- MZMV: out of a tile its registers hold undefined values until a `WAIT` covers it (R197, R352). -/
def execMzmv (g : Guard) (t : Ty) (into : Bool) (d zt : Nat) (s : State) : Host.Outcome State Fault Refusal :=
  let n := mzmvRegs t
  s.matrix g none (d + n) false fun x =>
    x.matFaults (sub? (x.w.width ≠ 32) 0x20 ++ x.tileBad zt 1) []
      (let o := { x.blankOp 16 (.mzmv t into d) zt with undef := !into && x.uncovered zt }
      if into then
        .done (x.queue { o with regs := x.snap x.w.vr.v d n, mopf := x.snap x.w.work.mopf d n } none [zt])
      else
        let s := x.queue o none []
        let (ws, s) := s.freshN (n * 32)
        .done (s.modWarp x.c.warp fun w => ws.zipIdx.foldl (fun w e => w.setV (d + e.2 / 32) (e.2 % 32) e.1) w))

/-- MZLD. -/
def execMzld (g : Guard) (t : Ty) (d zt : Nat) (b c : Operand) (s : State) : Host.Outcome State Fault Refusal :=
  s.matrix g (some d) 0 (privOf [b, c]) fun x =>
    let a := x.uni t b
    let pitch := x.uni t c
    x.matFaults (sub? (misaligned16 a || misaligned16 pitch) 0x21 ++ x.tileBad zt 1) (tileRuns t a pitch)
      (.done (x.queue { x.vaultOp d (.mzld t) zt with a := a, b := pitch } (some d) [zt]))

/-- MZST. -/
def execMzst (g : Guard) (t : Ty) (d zt : Nat) (b c : Operand) (s : State) : Host.Outcome State Fault Refusal :=
  s.matrix g (some d) 0 (privOf [b, c]) fun x =>
    let a := x.uni t b
    let pitch := x.uni t c
    x.matFaults (sub? (misaligned16 a || misaligned16 pitch) 0x21 ++ x.tileBad zt 1) (tileRuns t a pitch)
      (.done (x.queue { x.vaultOp d (.mzst t) zt with a := a, b := pitch, undef := x.uncovered zt } (some d) []))

/-- MZCLR. -/
def execMzclr (g : Guard) (d zt : Nat) (b : Operand) (s : State) : Host.Outcome State Fault Refusal :=
  s.matrix g (some d) 0 (Operand.priv b) fun x =>
    let n := (x.uni .b64 b).toNat
    x.matFaults (x.tileBad zt n) []
      (if n = 0 then x.doneAtIssue d 1
      else .done (x.queue (x.blankOp d (.mzclr n) zt) (some d) ((upTo n).map fun i => zt + i)))

/-! ### MVN (R153, R357) -/

/-- 4 KiB pages that the rows of W touch, ascending. -/
def rowPages (w pitch : Word) (rows bytes : Nat) : List Nat :=
  ((upTo rows).flatMap fun m =>
    let a := (w + pitch * wordOf m).toNat
    (upTo ((a % 4096 + bytes + 4095) / 4096)).map fun k => a / 4096 + k).dedup

/-- Every page translated at issue: its place, or the first failure. -/
def State.pagesOf (s : State) (v : Nat) : List Nat → List (Nat × Except XErr Target) × State
  | [] => ([], s)
  | p :: ps =>
    let (r, s) := s.translate v (wordOf (p * 4096)) Acc.read
    let (rs, s) := State.pagesOf s v ps
    ((p, r) :: rs, s)

/-- A page that near-memory reads may use: local HBM with effective NME (R75, R153). -/
def mvnPage (t : Target) : Bool :=
  match t.place with
  | .hbm _ _ => t.nme
  | _ => false

/-- The page whose cause is raised, its class and SUB: that of the highest class met, then the lowest SUB, then the first (R217). -/
def worstPage (ps : List (Nat × Except XErr Target)) : Option (Nat × Nat × Nat) :=
  (ps.filterMap fun e => match e.2 with
    | .error (.fault cl sub) => some (e.1, cl, sub)
    | _ => none).foldl (fun b e =>
    match b with
    | none => some e
    | some m => if (XErr.fault e.2.1 e.2.2).rank < (XErr.fault m.2.1 m.2.2).rank then some e else b) none

/-- Pages in local HBM that resolved: virtual page, physical page, owner and key. -/
def placedPages (ps : List (Nat × Except XErr Target)) : List (Nat × Nat × Owner) :=
  ps.filterMap fun e => match e.2 with
    | .ok t => (match t.place with | .hbm pa o => some (e.1, pa / 4096, o) | _ => none)
    | .error _ => none

/-- A page that resolves lies where `MVN` does not read weights (R153). -/
def misplaced (ps : List (Nat × Except XErr Target)) : Bool :=
  ps.any fun e => match e.2 with | .ok t => !mvnPage t | .error _ => false

/-- The walk of some page waits (R27). -/
def pagesHeld (ps : List (Nat × Except XErr Target)) : Bool :=
  ps.any fun e => match e.2 with | .error .held => true | _ => false

def overlapAddr (a : Word) (n : Nat) (b : Word) (m : Nat) : Bool :=
  a.toNat < b.toNat + m && b.toNat < a.toNat + n

/-- MVN. A breach of R153 by x or y is class 19 SUB 0x27 (log entry 108). -/
def execMvn (g : Guard) (acc : Bool) (d : Nat) (a b c fb geo pitch : Operand) (s : State) :
    Host.Outcome State Fault Refusal :=
  s.matrix g (some d) 0 (privOf [a, b, c, fb, geo, pitch]) fun x =>
    let u (o : Operand) := x.uni .b64 o
    let w := u a
    let xa := u b
    let y := u c
    let gw := u geo
    let p := u pitch
    let klen := fld gw 32 16
    let rows := fld gw 0 20 + 1
    let ta := klen / 32
    let aRuns (f : FmtBlock) : List (Nat × Nat) := [(0, rows * (32 / f.a.block) * ta)]
    let bRuns (f : FmtBlock) : List (Nat × Nat) := [(0, (32 / f.b.block) * ta)]
    if !x.engineReady then x.wait else
    match x.s.fmtFault x.g (u fb) aRuns bRuns with
    | some n => x.fault 19 n
    | none =>
      let f := x.s.readFmt x.g (u fb)
      let rowBytes := fmtBytes f.a.fmt klen
      let space := isVaultAddr w || inPodWindow w
      let away := !x.g.holds xa (fmtBytes f.b.fmt klen) || !x.g.holds y (4 * rows)
      let early := sub? (misaligned16 w || misaligned16 xa || misaligned16 y || misaligned16 p) 0x21 ++
        sub? (fld gw 48 16 ≠ 0 || fld gw 20 12 ≠ 0) 0x22 ++
        sub? (space || f.a.fmt = 1 || fld w 0 8 ≠ 0 || fld p 0 8 ≠ 0 || away) 0x27
      let late := sub? (klen % 32 ≠ 0 || klen < 32 || 16384 < klen || p.toNat < rowBytes ||
          overlapAddr y (4 * rows) xa (fmtBytes f.b.fmt klen) || overlapAddr y (4 * rows) (u fb) 32) 0x28
      match sortNat early with
      | n :: _ => x.fault 19 n
      | [] =>
        let (ps, s) := x.s.pagesOf x.v (rowPages w p rows rowBytes)
        if misplaced ps then x.fault 19 0x27
        else if pagesHeld ps then x.wait
        else if !late.isEmpty then x.fault 19 0x28
        else
          match worstPage ps,
            ps.find? fun e => (match e.2 with | .error (.violation _ _) => true | _ => false) with
          | some (q, cl, sub), _ => x.faultAt cl sub (wordOf (q * 4096))
          | _, some (_, .error (.violation gpa bits)) => x.freeze s gpa bits
          | _, _ =>
            let id := s.work.nextMat
            let o : MatOp := { x.blankOp d (.mul (!acc) false false false) 0 with
              id := id, a := w, b := xa, c := y, geo := gw, fbk := u fb, iacc := f.iacc
              fa := x.s.readSide x.g f.a (aRuns f), fb := x.s.readSide x.g f.b (bRuns f) }
            let w' := x.w.setHandle d (Handle.issue 2)
            let w' := { w' with cnt := { w'.cnt with tl := w'.cnt.tl + 1 } }
            .done ((s.setWarp x.c.warp w').modWork fun k => { k with
              nextMat := id + 1
              mvns := KMap.put k.mvns id ⟨o, rows, klen, p.toNat, acc, y, placedPages ps, none⟩ })

end Sys2Proof.Machine
end

