-- ==== Sys2Proof/Machine/MatrixRun.lean ====
section
/-! DEFINITION. The matrix array and the near-memory multipliers at work: K-steps, selection, tile moves and completion (R139,
R197, R243, R244, R342, R346 to R360). -/

namespace Sys2Proof.Machine

/-! ### Elements (R232, R346) -/

def elemBits (fmt : Nat) : Nat := if fmt ≤ 1 then 16 else if fmt = 2 then 8 else 4

/-- 32 element codes from the little-endian number of a run of bytes. -/
def elemCodes (fmt x : Nat) : List Nat := (upTo 32).map fun i => x / 2 ^ (elemBits fmt * i) % 2 ^ elemBits fmt

/-- The value of a code: BF16, FP16, INT8, or the codebook entry that a CB4 code selects. -/
def OperandFmt.value (f : OperandFmt) (c : Nat) : FV :=
  match f.fmt with
  | 0 => Fmt.bf16.dec c
  | 1 => Fmt.f16.dec c
  | 2 => .fin (decide (sext 8 c < 0)) (sext 8 c).natAbs 0
  | _ => Fmt.bf16.dec (f.book.getD c 0).toNat

/-- The scale at an index of the array read at issue. -/
def OperandFmt.scale (f : OperandFmt) (i : Nat) : Scale := Scale.ofCode f.sk (f.scales.getD i 0).toNat

/-- One K-step of an element: groups in ascending k; `ia` and `ib` are the first scale indexes of the row and the column
(R243, R244). -/
def kStep (sq iacc : Bool) (fa fb : OperandFmt) (ia ib : Nat) (acc : Nat) (as bs : List Nat) : FRes :=
  let g := Nat.min fa.blk fb.blk
  (upTo (32 / g)).foldl (fun (r : FRes) h =>
    let xs := (as.drop (h * g)).take g
    let ys := (bs.drop (h * g)).take g
    let t :=
      if iacc then intGroup sq r.bits (xs.map (sext 8)) (ys.map (sext 8))
      else dotGroup sq r.bits (xs.map fa.value) (ys.map fb.value) (fa.scale (ia + h * g / fa.blk)) (fb.scale (ib + h * g / fb.blk))
    ⟨t.bits, r.fl ||| t.fl⟩) ⟨acc, 0⟩

/-! ### Tiles -/

def zKey (tile m n : Nat) : Nat := tile * 1024 + 32 * m + n

def State.zElem (s : State) (tile m n : Nat) : Nat := (KMap.get s.dies.z 0 (zKey tile m n)).toNat

def State.setZ (s : State) (tile m n x : Nat) : State :=
  s.modDies fun d => { d with z := KMap.set d.z 0 (zKey tile m n) (BitVec.ofNat 32 x) }

/-- Every element of a tile, row after row. -/
def State.tileElems (s : State) (tile : Nat) : List Nat := (upTo 1024).map fun i => s.zElem tile (i / 32) (i % 32)

def State.setTile (s : State) (tile : Nat) (xs : List Nat) : State :=
  xs.zipIdx.foldl (fun s e => s.setZ tile (e.2 / 32) (e.2 % 32) e.1) s

/-- What a reader of a tile obtains: its elements, or undefined ones (R352). -/
def State.readTile (s : State) (o : MatOp) (tile : Nat) : List Nat × State :=
  if o.undef then
    let (ws, s) := s.freshN 1024
    (ws.map fun w => fld w 0 32, s)
  else (s.tileElems tile, s)

/-! ### Register operands (R197) -/

/-- One register operand in one lane: its value at issue, at the last `MOPF`, or now; which one is unspecified. -/
def State.regOperand (s : State) (w : Warp) (now before : Nat × Nat × Word) : Word × State :=
  let cands := [now.2.2, before.2.2, w.vreg now.1 now.2.1].dedup
  match cands with
  | [x] => (x, s)
  | _ =>
    let (k, s) := s.choose cands.length
    (cands.getD k 0, s)

/-- Every register operand of an operation, in the order of its record. -/
def State.regOperands (s : State) (w : Warp) (o : MatOp) : List Word × State :=
  (o.regs.zip o.mopf).foldl (fun (r : List Word × State) e =>
    let (x, s) := r.2.regOperand w e.1 e.2
    (r.1 ++ [x], s)) ([], s)

/-- Row `m` of an operand in registers: lane m, lowest register first (R346). -/
def rowOfRegs (ws : List Word) (m : Nat) : Nat := leNat (wordsBytes ((upTo (ws.length / 32)).map fun k => ws.getD (32 * k + m) 0))

/-! ### Completion -/

def State.modArray (s : State) (core : Nat) (f : List MatOp → List MatOp) : State :=
  s.modWork fun k => { k with arrays := KMap.set k.arrays [] core (f (KMap.get k.arrays [] core)) }

/-- An operation of the array or a near-memory operation has written its results (R131, R223, R342). -/
def State.finishOp (s : State) (o : MatOp) (fl : Nat) : State :=
  (s.modWarp o.warp fun w =>
    let w := if o.f < 16 then w.completeHandle o.f 0 (BitVec.ofNat 5 fl) 0 else w
    { w with cnt := { w.cnt with tl := w.cnt.tl - 1 } }).settleWarp o.warp

/-! ### A K-step (R348 to R351) -/

/-- An entry that a resume passed over, and one that it read anew (R360): log entry 40. -/
def passedOver : Nat := 2 ^ 20
def isPassed (e : Nat) : Bool := passedOver ≤ e && e < 2 * passedOver
def isNewEntry (e : Nat) : Bool := 2 * passedOver ≤ e

/-- B's scales of a block entry that changed are read when the block is reached (R360). -/
def State.newScales (s : State) (g : Gang) (f : OperandFmt) (nk beta : Nat) : OperandFmt :=
  let n := 32 * (32 / f.blk) * nk
  { f with scales := if f.sk = 0 then [] else
      (upTo n).map fun i => BitVec.ofNat 16 (s.vaultNat g (wordOf (f.sc + f.sk * (beta * n + i))) f.sk) }

/-- The 32 element codes of row m of A at K-step `kA`. -/
def State.aRow (s : State) (g : Gang) (o : MatOp) (ws : List Word) (kA m : Nat) : List Nat :=
  let fmt := o.fa.fmt
  if o.av then
    elemCodes fmt (s.vaultNat g (o.a + wordOf (m * geoPa o.geo + fmtBytes fmt (32 * kA))) (fmtBytes fmt 32))
  else elemCodes fmt (rowOfRegs ws m / 2 ^ (elemBits fmt * 32 * kA))

/-- The 32 columns of B's block `beta` at K-step `h`, each in ascending k. -/
def State.bCols (s : State) (g : Gang) (o : MatOp) (beta h : Nat) : List (List Nat) :=
  let fmt := o.fb.fmt
  let base := o.b + o.bstr * wordOf beta
  let run (off : Nat) := elemCodes fmt (s.vaultNat g (base + wordOf off) (fmtBytes fmt 32))
  if o.bt then (upTo 32).map fun n => run (n * geoPb o.geo + fmtBytes fmt (32 * h))
  else
    let rows := (upTo 32).map fun k => run ((32 * h + k) * geoPb o.geo)
    (upTo 32).map fun n => rows.map fun r => r.getD n 0

/-- One K-step of a multiply into its tile, with the flags that it raises. The B scales of an entry that changed are read once, as the
block is reached (R360). -/
def State.multiplyStep (s : State) (g : Gang) (w : Warp) (o : MatOp) (zero walk mmab dsq : Bool) : Nat × MatOp × State :=
  let i := o.block
  let h := o.kstep
  let e := o.list.getD i 0
  if isPassed e then (0, o, s)
  else
    let nk := geoNk o.geo
    let beta := e % passedOver
    let tile := g.tile w (if mmab && !walk then o.zt + i else o.zt)
    let fb := if !isNewEntry e then o.fb
      else if h = 0 || o.reread.isEmpty then s.newScales g o.fb nk beta
      else { o.fb with scales := o.reread }
    let kA := if walk then i * nk + h else h
    let ta := if walk then o.list.length * nk else nk
    let (ws, s) := s.regOperands w o
    let cols := s.bCols g o beta h
    let clear := h = 0 && zero && (!walk || i = 0)
    let out := (upTo 32).flatMap fun m =>
      let row := s.aRow g o ws kA m
      let ia := m * (32 / o.fa.blk) * ta + kA * (32 / o.fa.blk)
      cols.zipIdx.map fun c =>
        let ib := (if isNewEntry e then 0 else i * (32 * (32 / fb.blk) * nk)) + c.2 * (32 / fb.blk) * nk + h * (32 / fb.blk)
        kStep dsq o.iacc o.fa fb ia ib (if clear then 0 else s.zElem tile m c.2) row c.1
    (out.foldl (fun f r => f ||| r.fl) 0, { o with reread := if isNewEntry e then fb.scales else [] }, s.setTile tile (out.map (·.bits)))

/-- The operation after its current K-step: none when that was the last. -/
def MatOp.advance (o : MatOp) : Option MatOp :=
  if o.kstep + 1 < geoNk o.geo && !isPassed (o.list.getD o.block 0) then some { o with kstep := o.kstep + 1 }
  else if o.block + 1 < o.list.length then some { o with block := o.block + 1, kstep := 0, reread := [] }
  else none

/-! ### Selection (R354) -/

/-- A candidate of `MTOPK`: value and index. -/
structure Cand where
  value : Nat
  index : Nat
deriving DecidableEq, Repr

/-- 0 a number, 1 a NaN, 2 empty. -/
def Cand.rank (c : Cand) (float : Bool) : Nat :=
  if c.index = 0xFFFFFFFF then 2 else if float && Fmt.f32.isNan c.value then 1 else 0

/-- A number's place among numbers, −0 just below +0. -/
def Cand.key (c : Cand) (float : Bool) : Int :=
  if float then (if Fmt.f32.neg c.value then -((c.value % 2 ^ 31 : Nat) : Int) - 1 else (c.value : Int)) else sext 32 c.value

/-- `c` goes before or with `d`. -/
def Cand.before (float max : Bool) (c d : Cand) : Bool :=
  let r := c.rank float
  let q := d.rank float
  if r ≠ q then decide (r < q)
  else
    let x := c.key float
    let y := d.key float
    if r = 0 && x ≠ y then (if max then decide (y < x) else decide (x < y)) else decide (c.index ≤ d.index)

/-- Row `m` of a list after the merge: its first `k` entries. -/
def topRow (float max : Bool) (k base : Nat) (old : List Word) (row : List Nat) : List Cand :=
  (sortBy (Cand.before float max) ((old.map fun w => (⟨fld w 0 32, fld w 32 32⟩ : Cand)) ++
    row.zipIdx.map fun (e : Nat × Nat) => (⟨e.1, base + e.2⟩ : Cand))).take k

def State.topk (s : State) (g : Gang) (core : Nat) (o : MatOp) (tile : Nat) (t : Ty) (max : Bool) (k : Nat) : State :=
  let (xs, s) := s.readTile o tile
  (upTo 32).foldl (fun s m =>
    let at' (j : Nat) := o.a + wordOf (256 * m + 8 * j)
    let old := (upTo k).map fun j => leWord (s.vaultBytes g (at' j) 8)
    let new := topRow (t == .f32) max k o.c.toNat old ((xs.drop (32 * m)).take 32)
    new.zipIdx.foldl (fun s e => s.vaultStore g o.warp o.f (some (arrayChannel core)) (at' e.2) (wordBytes (wordOf (e.1.value + place e.1.index 32)) 8)) s) s

/-! ### Tile moves (R355, R356) -/

/-- Into the tile: exact, NaNs canonical, NV for a signalling one (R238); f32 and i32 copy bits. -/
def widen (t : Ty) (x : Nat) : FRes :=
  match t with
  | .f16 | .bf16 =>
    let r := (fmtOf t).convert Fmt.f32 0 x
    if (fmtOf t).isNan x then ⟨Fmt.f32.canon, r.fl⟩ else r
  | _ => ⟨x, 0⟩

/-- Out of the tile under a rounding mode, with flags. -/
def narrow (t : Ty) (rm x : Nat) : FRes :=
  match t with
  | .f16 | .bf16 => Fmt.f32.convert (fmtOf t) rm x
  | _ => ⟨x, 0⟩

/-- Elements of a row packed into registers, and back. -/
def packRow (t : Ty) (xs : List Nat) : List Word :=
  let per := 64 / t.width
  (upTo (32 / per)).map fun j => packSubs t.width ((xs.drop (per * j)).take per)

def State.mzmvIn (s : State) (w : Warp) (o : MatOp) (tile : Nat) (t : Ty) : State :=
  let (ws, s) := s.regOperands w o
  let per := 64 / t.width
  s.setTile tile ((upTo 1024).map fun i =>
    let m := i / 32
    let n := i % 32
    (widen t (subOf (ws.getD (32 * (n / per) + m) 0) t.width (n % per))).bits)

/-- The results wait in the warp's record until a `WAIT` covers them (R197). -/
def State.mzmvOut (s : State) (o : MatOp) (tile : Nat) (t : Ty) (d : Nat) : State :=
  let (xs, s) := s.readTile o tile
  let vals := (upTo 32).flatMap fun m =>
    (packRow t (((xs.drop (32 * m)).take 32).map fun x =>
      if t.width = 16 && Fmt.f32.isNan x then (fmtOf t).canon else (narrow t 0 x).bits)).zipIdx.map fun e => (o.id, d + e.2, m, e.1)
  s.modWarp o.warp fun w => { w with work := { w.work with mzPending := w.work.mzPending ++ vals } }

def State.mzld (s : State) (g : Gang) (o : MatOp) (tile : Nat) (t : Ty) : Nat × State :=
  let e := tileElem t
  let rs := (upTo 1024).map fun i => widen t (s.vaultNat g (o.a + o.b * wordOf (i / 32) + wordOf (i % 32 * e)) e)
  (rs.foldl (fun f r => f ||| r.fl) 0, s.setTile tile (rs.map (·.bits)))

/-- Rows that overlap are written in an unspecified order: it begins with any of them. -/
def State.mzst (s : State) (g : Gang) (core : Nat) (o : MatOp) (tile : Nat) (t : Ty) : Nat × State :=
  let (xs, s) := s.readTile o tile
  let e := tileElem t
  let rs := xs.map (narrow t o.rm)
  let (k, s) := if o.b.toNat < 32 * e then s.choose 32 else (0, s)
  (rs.foldl (fun f r => f ||| r.fl) 0,
    (upTo 32).foldl (fun s i =>
      let m := (i + k) % 32
      s.vaultStore g o.warp o.f (some (arrayChannel core)) (o.a + o.b * wordOf m) (((rs.drop (32 * m)).take 32).flatMap fun r => leBytes e r.bits)) s)

def State.mzclr (s : State) (g : Gang) (w : Warp) (o : MatOp) (n : Nat) : State :=
  s.modDies fun d => { d with z := (upTo n).foldl (fun z i => KMap.dropRange z (1024 * g.tile w (o.zt + i)) 1024) d.z }

/-! ### The array's event (R342) -/

/-- The array works for a gang that is on its cores and whose vchip runs. -/
def State.arrayRuns (s : State) (g : Gang) : Bool := (g.st == .resident || g.st == .ending) && s.enginesRun g.slot

/-- The array's first operation whose warp stands on its core. -/
def State.arrayHead (s : State) (core : Nat) : Option (MatOp × Warp × Gang) :=
  ((KMap.get s.work.arrays [] core).filterMap fun o =>
    match s.warp? o.warp with
    | none => none
    | some w => (s.gangOf w).bind fun g => if g.st == .saved then none else some (o, w, g)).head?

/-- What the array does next with an operation: the flags raised, and whether the operation has ended. -/
def State.matrixStep (s : State) (g : Gang) (w : Warp) (o : MatOp) : Nat × Option MatOp × State :=
  let tile := g.tile w o.zt
  match o.kind with
  | .mul zero walk mmab dsq =>
    let (fl, o, s) := s.multiplyStep g w o zero walk mmab dsq
    (fl, o.advance, s)
  | .topk t max k => (0, none, s.topk g w.id.core o tile t max k)
  | .mzmv t into d => (0, none, if into then s.mzmvIn w o tile t else s.mzmvOut o tile t d)
  | .mzld t =>
    let (fl, s) := s.mzld g o tile t
    (fl, none, s)
  | .mzst t =>
    let (fl, s) := s.mzst g w.id.core o tile t
    (fl, none, s)
  | .mzclr n => (0, none, s.mzclr g w o n)

/-- MATRIX_OP_COMPLETE: the array of a core performs the next K-step of its first operation, or the whole of one that has no
K-steps, once what goes before its events has been performed (R190, R191) and earlier results have landed (R342); the last completes
it. -/
def execMatrixOpComplete (core : Nat) (s : State) : Host.Outcome State Fault Refusal :=
  match s.arrayHead core with
  | none => .next s
  | some (o, w, g) =>
    if !s.arrayRuns g || !s.engineMayRead o.warp o.after o.xfence then .next s
    else
      let (fl, next, s) := (s.landChannel (arrayChannel core)).matrixStep g w o
      let fl := o.flags.toNat ||| fl
      match next with
      | some o => .next (s.modArray core fun os => os.map fun p => if p.id = o.id then { o with flags := BitVec.ofNat 5 fl } else p)
      | none => .next ((s.modArray core fun os => os.filter fun p => p.id != o.id).finishOp o fl)

/-! ### MVN (R153, R357) -/

/-- Element codes of 32 weights of a row: they lie in one page (R153). -/
def State.weightCodes (s : State) (m : MvnOp) (row h : Nat) : List Nat :=
  let fmt := m.op.fa.fmt
  let a := (m.op.a + wordOf (row * m.pitch + fmtBytes fmt (32 * h))).toNat
  match m.pages.find? fun p => p.1 == a / 4096 with
  | none => elemCodes fmt 0
  | some (_, page, owner) => elemCodes fmt (leNat (s.hbmRead owner (page * 4096 + a % 4096) (fmtBytes fmt 32)))

def State.mvnRow (s : State) (g : Gang) (m : MvnOp) (row : Nat) : FRes :=
  let o := m.op
  let steps := m.klen / 32
  let acc := if m.acc then s.vaultNat g (m.y + wordOf (4 * row)) 4 else 0
  (upTo steps).foldl (fun (r : FRes) h =>
    let ws := s.weightCodes m row h
    let xs := elemCodes o.fb.fmt (s.vaultNat g (o.b + wordOf (fmtBytes o.fb.fmt (32 * h))) (fmtBytes o.fb.fmt 32))
    let t := kStep false o.iacc o.fa o.fb (row * (32 / o.fa.blk) * steps + h * (32 / o.fa.blk)) (h * (32 / o.fb.blk)) r.bits ws xs
    ⟨t.bits, r.fl ||| t.fl⟩) ⟨acc, 0⟩

def State.setMvn (s : State) (m : MvnOp) : State := s.modWork fun k => { k with mvns := KMap.put k.mvns m.op.id m }

/-- An `MVN` ends with an error at a page of W. -/
def State.failMvn (s : State) (m : MvnOp) (status page : Nat) : State :=
  let s := s.modWork fun k => { k with mvns := KMap.erase k.mvns m.op.id }
  (s.modWarp m.op.warp fun w =>
    let w := w.completeHandle m.op.f status 0 (wordOf (page * 4096))
    { w with cnt := { w.cnt with tl := w.cnt.tl - 1 } }).settleWarp m.op.warp

/-- An `MVN` is reissued (R358): its pages of W are translated again, once its vchip is not frozen (R19) and no table is held (R27). One
that does not resolve to memory with NME ends it with the status of its cause and the page's address (log entry 98); a violation freezes
the vchip, and the handle completes at the resume (R19). -/
def State.resumeMvn (s : State) (v : Nat) (m : MvnOp) : State :=
  let later (s : State) (e : Nat × Nat) : State := s.setMvn { m with pages := [], err := some e }
  if (m.err.map fun e => e.1 != 0).getD false then s.setMvn m
  else if s.isFrozen v then later s (0, 0)
  else
    let (ps, s') := s.pagesOf v (rowPages m.op.a (wordOf m.pitch) m.rows (fmtBytes m.op.fa.fmt m.klen))
    let bad (e : Nat × Except XErr Target) : Bool := match e.2 with | .ok t => !mvnPage t | .error _ => true
    match ps.find? bad with
    | none => s'.setMvn { m with pages := placedPages ps, err := none }
    | some (q, .error (.violation gpa bits)) => (later s' (8, q)).freezeMaster v gpa bits
    | some (_, .error .held) => later s (0, 0)
    | some (q, _) => s'.failMvn m 2 q

/-- MVN_COMPLETE: one that waits to be reissued is, and one whose access violated waits for the resume (R19). -/
def execMvnComplete (op : Nat) (s : State) : Host.Outcome State Fault Refusal :=
  match KMap.find? s.work.mvns op with
  | none => .next s
  | some m =>
    match (s.warp? m.op.warp).bind s.gangOf with
    | none => .next s
    | some g =>
      if !s.arrayRuns g && !(g.st == .stopping && s.clocksRun) then .next s
      else if m.err.isSome then .next (if s.arrayRuns g then s.resumeMvn g.slot m else s)
      else
        let rows := (upTo m.rows).map (s.mvnRow g m)
        let s := rows.zipIdx.foldl (fun s e => s.vaultStore g m.op.warp m.op.f none (m.y + wordOf (4 * e.2)) (leBytes 4 e.1.bits)) s
        let s := s.modWork fun k => { k with mvns := KMap.erase k.mvns op }
        .next (s.finishOp m.op (rows.foldl (fun f r => f ||| r.fl) 0))

end Sys2Proof.Machine
end

