-- ==== Sys2Proof/Machine/Arrive.lean ====
section
/-! DEFINITION. Arriving packets: one meaning for each row of R34 and R35, and the commands that answer frozen streams and masters
(R87). -/

namespace Sys2Proof.Machine

/-- The packet that arrives, with its port (32 for the loopback path), taken from where it waited: a packet of the wire is for
this module, at a port that is up and whose reorder buffer has room (R38). -/
def State.arrival (s : State) : Option (Nat × Packet × State) :=
  if !s.fabricRuns then none
  else
    match s.fabric.arriving with
    | some (.wire port p) =>
      if s.portTakes port && p.dmod = s.coordN && !s.noRoom port p then some (port, p, s.framesArrived port p) else none
    | some (.loop n) =>
      match s.fabric.loopback[n]? with
      | none => none
      | some p => if s.noRoom 32 p then none else some (32, p, s.modFabric fun f => { f with loopback := f.loopback.eraseIdx n })
    | _ => none

/-- A request row: the arriving packet is of that kind. -/
def State.onRequest (s : State) (kind : Packet → Bool) : Host.Outcome State Fault Refusal :=
  match s.arrival with
  | none => .next s
  | some (port, p, s') => if kind p then .next (s'.takeRequest port p) else .next s

/-- A response or control row (R37): a packet that fails the check freezes its stream. -/
def State.onAnswer (s : State) (kind : Packet → Bool) (body : State → Packet → State) : Host.Outcome State Fault Refusal :=
  match s.arrival with
  | none => .next s
  | some (_, p, s') =>
    if kind p then
      match s'.check p with
      | (none, s') => .next (body s' p)
      | (some code, s') => .next (s'.refuseAnswer p code)
    else .next s

/-- The stream at its source that an answer names (R33). -/
def answered (p : Packet) : StreamId := ⟨p.dslot, p.svch, p.rstream⟩

/-- An AGENT packet of these operations. -/
def agentOf (ops : List Nat) (p : Packet) : Bool := p.typ == 4 && ops.contains p.aop

/-! ### Requests -/

def execWrite (s : State) : Host.Outcome State Fault Refusal := s.onRequest fun p => p.typ == 1

def execRead (s : State) : Host.Outcome State Fault Refusal := s.onRequest fun p => p.typ == 2

def execSend (s : State) : Host.Outcome State Fault Refusal := s.onRequest fun p => p.typ == 6

def execAgentAdd (s : State) : Host.Outcome State Fault Refusal := s.onRequest (agentOf [0, 1, 2])

def execAgentLogic (s : State) : Host.Outcome State Fault Refusal := s.onRequest (agentOf [3, 4, 5])

def execAgentExchange (s : State) : Host.Outcome State Fault Refusal := s.onRequest (agentOf [6])

def execAgentCompareAndSwap (s : State) : Host.Outcome State Fault Refusal := s.onRequest (agentOf [7])

def execAgentDeterministicAdd (s : State) : Host.Outcome State Fault Refusal := s.onRequest (agentOf [8])

def execAgentSlotSetup (s : State) : Host.Outcome State Fault Refusal := s.onRequest (agentOf [9])

def execAgentMultiwordCas (s : State) : Host.Outcome State Fault Refusal := s.onRequest (agentOf [10])

def execAgentListEnqueue (s : State) : Host.Outcome State Fault Refusal := s.onRequest (agentOf [11])

def execAgentPointerChase (s : State) : Host.Outcome State Fault Refusal := s.onRequest (agentOf [12])

/-- HEADER_ERROR: an unlisted TYPE or HALO kind (code 5), or a reserved agent operation (code 6). -/
def execHeaderError (s : State) : Host.Outcome State Fault Refusal :=
  s.onRequest fun p => !p.listed || (p.typ == 7 && haloKind p.imm == 3) || agentOf [13, 14, 15] p

/-! ### Halo messages: a packet, or a message of the Sound within the vchip (R165) -/

/-- A halo row of kind `k`. A message of the Sound takes effect in the order that its stream sent it. -/
def State.onHalo (s : State) (k : Nat) : Host.Outcome State Fault Refusal :=
  match s.fabric.arriving with
  | some (.sound n) =>
    match s.fabric.sound[n]? with
    | none => .next s
    | some (p, o) =>
      let first := (s.fabric.sound.take n).all fun e => !(e.1.sslot == p.sslot && e.1.stream == p.stream)
      if haloKind p.imm ≠ k || !first || !s.clocksRun then .next s
      else
        let s := s.modFabric fun f => { f with sound := f.sound.eraseIdx n }
        let s := s.haloApply p.dslot k p.oparg p.imm p.payload p.svch (some p.offset) p.aop
        .next (match o with
          | .face q _ => if fld p.imm 26 1 = 1 then (s.publishTells q p).faceDone q else s
          | _ => s)
  | _ => s.onRequest fun p => p.typ == 7 && haloKind p.imm == k

def execHaloData (s : State) : Host.Outcome State Fault Refusal := s.onHalo 0

def execHaloAnnounce (s : State) : Host.Outcome State Fault Refusal := s.onHalo 1

def execHaloCredit (s : State) : Host.Outcome State Fault Refusal := s.onHalo 2

/-! ### Responses -/

/-- READRSP. -/
def execReadrsp (s : State) : Host.Outcome State Fault Refusal :=
  s.onAnswer (fun p => p.typ == 3) fun s p =>
    let (o, s) := s.takeOrigin (answered p) p.rseq
    s.readAnswer o (p.oparg % 256) p.payload

/-- AGENTRSP. -/
def execAgentrsp (s : State) : Host.Outcome State Fault Refusal :=
  s.onAnswer (fun p => p.typ == 5) fun s p =>
    let (o, s) := s.takeOrigin (answered p) p.rseq
    s.agentReply o (p.oparg % 256) (p.imm :: bytesWords p.payload)

/-- ACK: cumulative (R39). -/
def execAck (s : State) : Host.Outcome State Fault Refusal :=
  s.onAnswer (fun p => p.typ == 8) fun s p => s.ackStream (answered p) p.rseq

/-! ### The freeze and resume exchange (R40) -/

/-- FREEZE: the source stops injecting the stream; a stream frozen already stays as it is. -/
def execFreeze (s : State) : Host.Outcome State Fault Refusal :=
  s.onAnswer (fun p => p.typ == 0x10) fun s p =>
    match s.srcStream? (answered p) with
    | none => s
    | some x => if x.frozen.isSome then s else s.setSrc { x with frozen := some ⟨p.oparg % 256, p.rseq, false⟩ }

/-- RESUME from the destination: the source retransmits from the SEQ that it names. -/
def execResume (s : State) : Host.Outcome State Fault Refusal :=
  s.onAnswer (fun p => p.typ == 0x11 && p.rev && p.oparg % 2 == 0) fun s p =>
    match (s.srcStream? (answered p)).bind (·.frozen) with
    | some fz => if fz.isLocal then s else s.resendFrom (answered p) p.rseq
    | none => s

/-- RESUME-abandon from the destination. -/
def execResumeAbandon (s : State) : Host.Outcome State Fault Refusal :=
  s.onAnswer (fun p => p.typ == 0x11 && p.rev && p.oparg % 2 == 1) fun s p =>
    match (s.srcStream? (answered p)).bind (·.frozen) with
    | some fz => if fz.isLocal then s else s.abandonStream (answered p)
    | none => s

/-- ABANDON_CONFIRM: the source's RESUME; the destination goes on from the SEQ that it names. -/
def execAbandonConfirm (s : State) : Host.Outcome State Fault Refusal :=
  s.onAnswer (fun p => p.typ == 0x11 && !p.rev && p.oparg % 2 == 1) fun s p =>
    let id : DstId := ⟨p.dslot, p.svch, p.rstream⟩
    let s := s.finishJob 10 id
    let d := s.dstStream id
    let held := d.held.filter fun e => seqLe p.rseq e.2.seq
    (s.setDst { d with expected := p.rseq, frozen := none, held := held, job := none }).drain (held.length + 1) id false

/-! ### HVCMD (R87) -/

/-- The command's result; BUSY falls as it ends. -/
def State.hvResult (s : State) (r : Nat) : State := { s with host := { s.host with hvResult := r } }

/-- A command on a token: unknown tokens and tokens of another kind are refused, and stay valid. -/
def State.hvcmd (s : State) (token : BitVec 16) (body : State → TokenOf → Except Nat State) : Host.Outcome State Fault Refusal :=
  if !s.answers then .next s
  else if s.host.hvBusy then .next (s.hvResult 4)
  else
    match KMap.find? s.evq.tokens token.toNat with
    | none => .next (s.hvResult 1)
    | some t =>
      match body s t with
      | .error r => .next (s.hvResult r)
      | .ok s => .next ((s.dropToken token.toNat).hvResult 0)

/-- Copies, `MVN`s and posts that stopped at a violation complete at the resume (R19); what other posts have read leaves (R18). -/
def State.resumeEngines (s : State) (v : Nat) : State :=
  let s := (s.work.copies.filter fun (e : Nat × Copy) => e.2.slot == v && e.2.err.isSome).foldl
    (fun s (e : Nat × Copy) => s.endCopy e.2 (e.2.err.getD 8) e.2.src) s
  let s := s.work.mvns.foldl (fun s (e : Nat × MvnOp) =>
    match e.2.err with
    | some (st, q) => if st ≠ 0 && ((s.warp? e.2.op.warp).map s.slotOf) == some v then s.failMvn e.2 st q else s
    | none => s) s
  (s.work.posts.filter fun (e : Nat × Post) => e.2.slot == v).foldl
    (fun s (e : Nat × Post) => if e.2.err.isSome then s.endPost e.1 (e.2.err.getD 8) else if e.2.unsent.isEmpty then s else s.sendUnsent e.2) s

/-- HVCMD_RESUME_MASTER: the freeze ends; the log of a vchip that is switched in replays (R19, R63, R87). A host whose access through a
TDI violated has its record answered; its TDI leaves ERROR as TDISP gives (R19). -/
def execHvcmdResumeMaster (token : BitVec 16) (s : State) : Host.Outcome State Fault Refusal :=
  s.hvcmd token fun s t =>
    match t with
    | .master v =>
      let s := (s.modSlot v fun x => { x with frozen := none }).resumeEngines v
      let c := (s.slot v).sched
      .ok (if c.switchedIn && (!c.preempting || c.grace) && (s.slot v).log.st == .logging then s.setLogSt v .replaying else s)
    | .tdi _ => .ok s
    | _ => .error 2

/-- HVCMD_RESUME_STREAM: the destination sends RESUME; a stream frozen at its source goes on: code 1 rebuilds its request, the other codes
retransmit; only abandon ends code 7 (R37, R57, R87, R407). -/
def execHvcmdResumeStream (token : BitVec 16) (s : State) : Host.Outcome State Fault Refusal :=
  s.hvcmd token fun s t =>
    match t with
    | .master _ | .tdi _ => .error 2
    | .dst id =>
      let d := s.dstStream id
      match d.frozen, d.last with
      | some fz, some p =>
        if fz.code = 7 then .error 3 else .ok ((s.setDst { d with frozen := none }).sendResume p false fz.seq)
      | _, _ => .ok s
    | .src id =>
      let x := s.srcStream id
      match x.frozen with
      | some fz =>
        if fz.code = 7 then .error 3
        else .ok (if fz.code = 1 then s.setSrc { x with frozen := none } else s.resendFrom id fz.seq)
      | none => .ok s

/-- HVCMD_ABANDON_STREAM: the destination sends RESUME-abandon and waits for the confirming RESUME; a stream frozen at its source
is abandoned there (R40, R87). -/
def execHvcmdAbandonStream (token : BitVec 16) (s : State) : Host.Outcome State Fault Refusal :=
  s.hvcmd token fun s t =>
    match t with
    | .master _ | .tdi _ => .error 2
    | .dst id =>
      let d := s.dstStream id
      match d.frozen, d.last with
      | some fz, some p => .ok (s.sendResume p true fz.seq)
      | _, _ => .ok s
    | .src id => .ok (s.abandonStream id)

end Sys2Proof.Machine
end

