-- ==== Sys2Proof/Machine/Boost.lean ====
section
/-! DEFINITION. Boosted speculative tasks (R170 to R182, R370 to R375): the undo stack, the boost directory and its checks, abort and
replay, and BBEGIN, BOP, BRET, BCOMMIT, BABORT, BSTAT and BCTL. -/

namespace Sys2Proof.Machine

/-! ### Dies and ages (R9, R170, R171, R175) -/

def dieOfCore (core : Nat) : Nat := core / 512

/-- The compute dies that hold a vchip's clusters, ascending. -/
def Vchip.dies (c : Vchip) : List Nat := (upTo 8).filter fun d => c.clusters.any fun k => k / 32 == d

/-- The die on which a key is homed: XOR of its bytes, modulo the number of dies (R175). -/
def State.homeOf (s : State) (v : Nat) (key : Word) : Nat :=
  match s.vchip? v with
  | none => 0
  | some c => c.dies.getD ((wordBytes key 8).foldl (fun x b => x ^^^ b.toNat) 0 % max c.dies.length 1) 0

def seqOf (age : Nat) : Nat := age / 8

def State.nextSeq (s : State) (die : Nat) : Nat := KMap.get s.dies.ageSeq 0 die

def State.setSeq (s : State) (die n : Nat) : State := s.modDies fun d => { d with ageSeq := KMap.set d.ageSeq 0 die (n % 2 ^ 60) }

/-- A conflict was judged between two tasks: each one's die raises its counter above the larger SEQ (R171). -/
def State.syncAges (s : State) (r h : Warp) : State :=
  let m := max (seqOf r.task.age) (seqOf h.task.age)
  [dieOfCore r.id.core, dieOfCore h.id.core].foldl (fun s d => if s.nextSeq d ≤ m then s.setSeq d (m + 1) else s) s

/-! ### Abort (R178, R179) -/

/-- An ACTIVE task starts its abort: its paths stop, a user handler is abandoned (R172, R181). -/
def Warp.startAbort (w : Warp) (cause value : Nat) : Warp :=
  let w := if w.trap.level = 2 then w.swapBank else w
  { w with
    trap := { w.trap with level := 0, own1 := 0, own2 := 0 }
    task := { w.task with st := .drainA, cause := cause, value := value, pendingAbort := none, memos := [], miss := [], keyed := [] } }

/-- The abort cause that a boundary takes: none at level 2 unless the gang is ending (R181, R221). -/
def State.abortDue (s : State) (w : Warp) : Option (Nat × Nat) :=
  let ending := ((s.gangOf w).map fun g => g.st == .ending).getD false
  if w.task.st == .active && (w.trap.level < 2 || ending) then w.task.pendingAbort else none

/-- An abort cause for an ACTIVE task that has none pending. -/
def Warp.askAbort (w : Warp) (cause value : Nat) : Warp :=
  if w.task.st == .active && w.task.pendingAbort.isNone then
    { w with task := { w.task with pendingAbort := some (cause, value) } }
  else w

/-- BOOST_ABORT_TAKEN. -/
def execBoostAbortTaken (warp : Nat) (s : State) : Host.Outcome State Fault Refusal :=
  match s.warp? warp with
  | none => .next s
  | some w =>
    match s.abortDue w with
    | none => .next s
    | some (c, v) =>
      if s.warpResident warp && s.enginesRun (s.slotOf w) then .next (s.setWarp warp (w.startAbort c v)) else .next s

/-- The code written to sd (R179). -/
def Task.code (t : Task) : Word := wordOf (t.cause + place t.value 8 + place (Nat.min t.retry 65535) 16)

/-- The end of an abort: keys released, sd written, one path of the task lanes at T (R172, R179). -/
def State.endAbort (s : State) (wid : Nat) : State :=
  let s := s.releaseKeys wid
  match s.warp? wid with
  | none => s
  | some w =>
    let t := w.task
    let w := w.setS t.sd t.code
    let w := { w with
      paths := [some (Path.start t.target (t.lanes &&& ~~~w.exited) none), none, none, none]
      stack := List.replicate 32 none
      task := { t.over with lastTarget := some t.target, lastCode := t.code } }
    s.setWarp wid w

/-! ### The undo stack (R173) -/

/-- A record: key, arguments, inverse offset, lane, whether its `BOP` pushed it first. -/
structure Undo where
  key : Word
  arg0 : Word
  arg1 : Word
  ioff : Int
  lane : Nat
  first : Bool
deriving DecidableEq, Repr

def undoWords (key a0 a1 : Word) (ioff : Nat) (kind lane : Nat) (first : Bool) : List Word :=
  [key, a0, a1, wordOf (place ioff 32 + place kind 26 + place lane 21 + bitOf first 20)]

def Undo.of (ws : List Word) : Undo :=
  let w3 := recWord ws 3
  ⟨recWord ws 0, recWord ws 1, recWord ws 2, sext 32 (fld w3 32 32), fld w3 21 5, fld w3 20 1 == 1⟩

/-- Records from `a` downwards through the first with FIRST, at most `n`; undefined once a program has stored there. -/
def State.undoGroup (s : State) (g : Gang) (tampered : Bool) (a : Word) : Nat → List Undo × State
  | 0 => ([], s)
  | n + 1 =>
    let (ws, s) := if tampered then s.freshN 4 else
      (match g.vaultPlace a 32 with
        | .ok t => bytesWords (s.readPlace t.place 32)
        | .error _ => [], s)
    let r := Undo.of ws
    if r.first || n = 0 then ([r], s)
    else
      let (rs, s) := State.undoGroup s g tampered (a - 32) n
      (r :: rs, s)

/-- The next group of the replay, newest first: popped, its lanes' registers written, one path at its inverse; with no
record left, the abort ends (R179). -/
def State.nextGroup (s : State) (wid : Nat) : State :=
  match s.warp? wid with
  | none => s
  | some w =>
    let t := w.task
    let n := (t.sp - t.ub).toNat / 32
    if n = 0 then s.endAbort wid
    else
      match s.gangOf w with
      | none => s
      | some g =>
        let (rs, s) := s.undoGroup g t.tampered (t.sp - 32) n
        let m := maskOf (rs.map (·.lane))
        let w := rs.foldl (fun w r =>
          ((w.setV t.vb r.lane r.key).setV (t.vb + 1) r.lane r.arg0).setV (t.vb + 2) r.lane r.arg1) w
        let io := (rs.getLast?.map (·.ioff)).getD 0
        let w := { w with
          paths := [some (Path.start (t.target + BitVec.ofInt 64 (8 * io)) m none), none, none, none]
          stack := List.replicate 32 none
          task := { t with st := .replay, sp := t.sp - wordOf (32 * rs.length), glanes := m } }
        s.setWarp wid w

/-- The warp's task drains and nothing of it is outstanding; its gang stands on its cores and runs (R110, R172). -/
def State.drained (s : State) (w : Warp) (st : TaskSt) : Bool :=
  let runs := ((s.gangOf w).map fun g => (g.st == .resident || g.st == .ending) && s.enginesRun g.slot).getD false
  runs && w.task.st == st && !w.pending && w.work.ops.isEmpty

/-- BOOST_DRAIN_A_DONE: every handle DONE and every counter 0; paths and stack are discarded and the replay begins (R172). -/
def execBoostDrainADone (warp : Nat) (s : State) : Host.Outcome State Fault Refusal :=
  match s.warp? warp with
  | none => .next s
  | some w => if s.drained w .drainA then .next (s.nextGroup warp) else .next s

/-- BOOST_COMMIT_DONE: the same drain, then the keys are released and boosted mode ends (R172, R180). -/
def execBoostCommitDone (warp : Nat) (s : State) : Host.Outcome State Fault Refusal :=
  match s.warp? warp with
  | none => .next s
  | some w =>
    if s.drained w .drainC then .next ((s.releaseKeys warp).modWarp warp fun w => { w with task := w.task.over }) else .next s

/-! ### BBEGIN (R170, R370) -/

/-- A code address: 8 times a signed 26-bit displacement from the instruction. -/
def codeTarget (a : Word) (disp : BitVec 26) : Word := a + 8 * disp.signExtend 64

def Warp.stackEmpty (w : Warp) : Bool := w.stack.all Option.isNone

/-- BBEGIN. -/
def execBbegin (g : Guard) (d : Nat) (a b : Operand) (vb : Nat) (disp : BitVec 26) (s : State) :
    Host.Outcome State Fault Refusal :=
  s.run fun x => x.allowed (privOf [a, b])
    (if !x.any g then x.inRange (vb + 3) (.done x.s)
    else if x.w.boosted || x.w.width ≠ 32 || x.w.livePaths.length ≠ 1 || !x.w.stackEmpty then x.fault 2 3
    else x.inRange (vb + 3)
      (let ub := x.uni .b64 a
      let kib := (x.index 0 b).toNat
      let size := if kib = 0 then 8 else kib
      let target := codeTarget x.p.pc disp
      if !x.g.boost then x.fault 19 0x40
      else if 64 < kib || fld ub 0 5 ≠ 0 then x.fault 19 0x41
      else if !x.g.holds ub (size * 1024) then x.faultAt 16 3 ub
      else
        let t := x.w.task
        let die := dieOfCore x.w.id.core
        let again := t.lastTarget == some target
        let age := if again then t.age else 8 * x.s.nextSeq die + die
        let s := if again then x.s else x.s.setSeq die (x.s.nextSeq die + 1)
        .done (s.setWarp x.c.warp { x.w with task := { t with
          st := .active, target := target, sd := d, ub := ub, sp := ub, size := size, vb := vb, age := age
          retry := if again then t.retry + 1 else 0, lanes := x.act, glanes := 0, cause := 0, value := 0
          pendingAbort := none, lastTarget := none, memos := [], miss := [], tampered := false, keyed := [] } })))

/-! ### BOP (R176, R177, R371) -/

/-- E(i, j) (R174). -/
def tableEntry (t : List (BitVec 128)) (i j : Nat) : Nat := ((t.getD i 0).extractLsb' (2 * j) 2).toNat

/-- Other live tasks of the vchip in ascending age. -/
def State.otherTasks (s : State) (v wid : Nat) : List (Nat × Warp) :=
  sortBy (fun (a b : Nat × Warp) => decide (a.2.task.age ≤ b.2.task.age))
    (s.work.warps.filter fun e => e.1 != wid && e.2.task.live && s.slotOf e.2 == v)

/-- Kinds that a task has declared, ascending. -/
def State.kindsOf (s : State) (wid : Nat) : List Nat :=
  (upTo 64).filter fun j => s.dies.dirs.any fun e => e.warp == wid && e.kinds.contains j

def State.holdsKey (s : State) (wid : Nat) (key : Word) (j : Nat) : Bool :=
  s.dies.dirs.any fun e => e.warp == wid && e.key == key && e.kinds.contains j

/-- What the check finds of one lane, one other task, one kind: nothing, a conflict, or a miss (R176). -/
inductive Finding where
  | conflict (warp j : Nat)
  | miss (m : Miss)
deriving DecidableEq, Repr

/-- The `BOP` in progress on the path (R177). -/
def Ictx.bopId (x : Ictx) : BopId := ⟨x.p.pc, x.p.mask, x.w.trap.level⟩

def Ictx.judge (x : Ictx) (k lane : Nat) (key : Word) (h j : Nat) : Option Finding :=
  let holds := x.s.holdsKey h key j
  match tableEntry (x.s.slot x.v).ctab k j with
  | 0 => none
  | 1 => if holds then some (.conflict h j) else none
  | 2 => some (.conflict h j)
  | _ =>
    match x.w.task.memos.find? fun m => m.bop == x.bopId && m.warp == h && m.kind == j && m.holds == holds with
    | some m => if m.conflict then some (.conflict h j) else none
    | none => some (.miss ⟨x.bopId, k, j, lane, holds, h, none, false⟩)

/-- Every finding in the order of R177: lanes, then other tasks by age, then kinds. -/
def Ictx.findings (x : Ictx) (k : Nat) (keys : List (Nat × Word)) : List Finding :=
  let hs := x.s.otherTasks x.v x.c.warp
  keys.flatMap fun e => hs.flatMap fun h => (x.s.kindsOf h.1).filterMap fun j => x.judge k e.1 e.2 h.1 j

def missesOf (fs : List Finding) : List Miss := fs.filterMap fun f => match f with | .miss m => some m | _ => none

def conflictsOf (fs : List Finding) : List (Nat × Nat) :=
  fs.filterMap fun f => match f with | .conflict h j => some (h, j) | _ => none

/-- The task aborts at once and the instruction has no effect (R176). -/
def Ictx.abortNow (x : Ictx) (s : State) (cause value : Nat) : Res :=
  .moved (s.modWarp x.c.warp fun w => w.startAbort cause value)

/-- Ages are kept in step with every task of a conflict. -/
def Ictx.syncAll (x : Ictx) (hs : List Nat) : State :=
  hs.foldl (fun s h => match s.warp? h with | some w => s.syncAges x.w w | none => s) x.s

/-- Younger ACTIVE tasks abort with cause 2; the path waits until each task has released its keys (R176). -/
def Ictx.askYounger (x : Ictx) (s : State) (hs : List Nat) (k : Nat) : Res :=
  let s := hs.foldl (fun s h => s.modWarp h fun w => w.askAbort 2 k) s
  .moved (s.modWarp x.c.warp fun w => w.modPath x.c.path fun p => { p with bop := some hs })

/-- The path's `BOP` waits for releases, and does not check before them (R176). -/
def Path.awaitsKeys (p : Path) : Bool := p.bop.any fun ws => !ws.isEmpty

/-- New entries that the keys need, by home. -/
def Ictx.newKeys (x : Ictx) (keys : List Word) : List (Nat × Word) :=
  (keys.dedup.filter fun key => !x.s.dies.dirs.any fun e => e.warp == x.c.warp && e.key == key).map fun key =>
    (x.s.homeOf x.v key, key)

/-- A home's 4096 entries have no room for the new ones (R175). -/
def Ictx.noRoom (x : Ictx) (new : List (Nat × Word)) : Bool :=
  (upTo 8).any fun d =>
    let n := (new.filter fun e => e.1 == d).length
    n ≠ 0 && 4096 < (x.s.dies.dirs.filter fun e => e.die == d).length + n

/-- Entries created and the kind added. -/
def Ictx.declare (x : Ictx) (keys : List Word) (k : Nat) (new : List (Nat × Word)) (s : State) : State :=
  let add (e : DirEntry) : DirEntry :=
    if e.warp == x.c.warp && keys.contains e.key && !e.kinds.contains k then { e with kinds := e.kinds ++ [k] } else e
  let fresh := new.map fun e => (⟨e.1, x.v, x.c.warp, e.2, [k]⟩ : DirEntry)
  s.modDies fun d => { d with dirs := d.dirs.map add ++ fresh }

/-- What the releases that a `BOP` acquires have told: those of the tasks that it waited for, and those of the keys that it acquires
(R180). -/
def Ictx.keyed (x : Ictx) (new : List (Nat × Word)) : List Nat :=
  x.w.task.keyed ++ (x.s.dies.keyMsgs.filter fun m => m.1 == x.v && new.any fun e => e.2 == m.2.1).flatMap (·.2.2)

/-- Records pushed in ascending lane order (R173). -/
def Ictx.pushUndo (x : Ictx) (s : State) (recs : List (List Word)) : State :=
  recs.zipIdx.foldl (fun s e =>
    match x.g.vaultPlace (x.w.task.sp + wordOf (32 * e.2)) 32 with
    | .ok t => s.writePlace t.place (wordsBytes e.1)
    | .error _ => s) s

/-- An argument in a lane: a handle gives its `TSTF` word (R371). -/
def Ictx.arg (x : Ictx) (l : Nat) : Operand → Word
  | .f n => (x.w.handle n).image
  | o => x.src .b64 l o

/-- Handles among the arguments: blocked while PENDING, merged once. -/
def Ictx.withArgs (x : Ictx) : List Operand → (Ictx → Res) → Res
  | [], body => body x
  | .f n :: os, body => x.withHandle n fun x => Ictx.withArgs x os body
  | _ :: os, body => Ictx.withArgs x os body

/-- BOP. -/
def execBop (g : Guard) (kind : Nat) (a b c : Operand) (disp : BitVec 26) (s : State) : Host.Outcome State Fault Refusal :=
  s.run fun x => x.allowed (privOf [a, b, c])
    (let regs := topOf [a, b, c]
    let lanes := x.lanes g
    if lanes = 0 then x.inRange regs (.done x.s)
    else if x.w.task.st != .active then x.fault 2 3
    else if x.p.awaitsKeys then x.wait
    else x.inRange regs
      (let t := x.w.task
      let io := ((codeTarget x.p.pc disp - t.target).toInt) / 8
      if io < -2 ^ 31 || 2 ^ 31 ≤ io then x.fault 19 0x42
      else if !(x.s.slot x.v).ctabLoads.isEmpty then x.wait
      else x.withArgs [b, c] fun x =>
        let ls := Mask.lanes lanes
        let keys := ls.map fun l => (l, x.src .b64 l a)
        let fs := x.findings kind keys
        match missesOf fs with
        | m :: ms =>
          let marks := ((m :: ms).map (·.lane)).dedup.map fun l => (l, (0 : Word))
          .trap (x.s.modWarp x.c.warp fun w => { w with task := { w.task with miss := m :: w.task.miss } }) ⟨5, 0, marks, false, none⟩
        | [] =>
          let cs := conflictsOf fs
          let s := x.syncAll (cs.map (·.1)).dedup
          let age (h : Nat) : Nat := ((x.s.warp? h).map (·.task.age)).getD 0
          match cs.find? fun e => age e.1 < t.age with
          | some (_, j) => x.abortNow s 1 j
          | none =>
            if !cs.isEmpty then x.askYounger s (cs.map (·.1)).dedup kind
            else
              let n := 32 * ls.length
              let ks := keys.map (·.2)
              let new := x.newKeys ks
              if t.size * 1024 < (t.sp - t.ub).toNat + n then x.abortNow s 4 0
              else if x.noRoom new then x.abortNow s 5 0
              else
                let recs := keys.zipIdx.map fun e =>
                  undoWords e.1.2 (x.arg e.1.1 b) (x.arg e.1.1 c) (toBits 32 io) kind e.1.1 (e.2 = 0)
                let s := x.declare ks kind new (x.pushUndo s recs)
                .done (s.modWarp x.c.warp fun w => { w with
                  task := { w.task with
                    sp := w.task.sp + wordOf n, memos := w.task.memos.filter (fun m => m.bop != x.bopId), keyed := [] }
                  work := { w.work with known := (w.work.known ++ x.keyed new).dedup } })))

/-- What `RFT` does about a table miss whose handler it leaves (R177, R375): the verdict, or conflict without one, becomes a
memo, unless the other task has released its keys; with skip, or where the handler has written another `%tpc`, this `BOP` does not
reissue, and its memos go. -/
def Warp.leaveMiss (w : Warp) (skip : Bool) : Warp :=
  let t := w.trap
  let here := (t.level = 1 && fld t.tcause1 0 8 = 5) || (t.level = 2 && fld t.tcause2 0 8 = 23 && fld t.tcause2 8 8 = 5)
  match w.task.miss with
  | m :: ms =>
    if !here then w
    else
      let verdict := if t.level = 1 then m.verdict.getD true else true
      let memos := if skip || (if t.level = 1 then t.tpc1 else t.tpc2) != m.bop.pc then w.task.memos.filter fun n => n.bop != m.bop
        else if m.gone then w.task.memos
        else w.task.memos ++ [⟨m.bop, m.warp, m.j, m.holds, verdict⟩]
      { w with task := { w.task with miss := ms, memos := memos } }
  | [] => w

/-! ### BRET, BCOMMIT, BABORT, BSTAT (R372, R373) -/

/-- BRET: the last release follows the inverses' stores (R180). -/
def execBret (g : Guard) (s : State) : Host.Outcome State Fault Refusal :=
  s.once g 0 false fun x =>
    let t := x.w.task
    if t.st != .replay || x.act != t.glanes then x.fault 2 3
    else if t.sp != t.ub then .moved (x.s.nextGroup x.c.warp)
    else x.afterOps (fun _ => true) (.moved (x.s.endAbort x.c.warp))

/-- BCOMMIT. At level 2 it commits although an abort cause is deferred there, which goes (log entry 111). -/
def execBcommit (g : Guard) (s : State) : Host.Outcome State Fault Refusal :=
  s.once g 0 false fun x =>
    let t := x.w.task
    if t.st != .active || (t.lanes &&& ~~~x.w.exited) &&& ~~~x.act != 0 || !x.w.stackEmpty then x.fault 2 3
    else .done (x.put { x.w with task := { t with st := .drainC, pendingAbort := none, lastTarget := none } })

/-- BABORT. -/
def execBabort (g : Guard) (u : Nat) (s : State) : Host.Outcome State Fault Refusal :=
  s.once g 0 false fun x => if x.w.task.st != .active then x.fault 2 3 else x.abortNow x.s 3 u

def TaskSt.num : TaskSt → Nat
  | .none => 0
  | .active => 1
  | .drainC => 2
  | .drainA => 2
  | .replay => 3

/-- An item of the task (R182). -/
def Task.item (t : Task) (i : Nat) : Word :=
  if i = 4 then t.lastCode
  else if !t.live then 0
  else
    match i with
    | 0 => wordOf t.st.num
    | 1 => wordOf t.age
    | 2 => wordOf ((t.sp - t.ub).toNat / 32)
    | 3 =>
      match t.miss with
      | m :: _ => wordOf (m.k + place m.j 6 + place m.lane 12 + bitOf m.holds 17)
      | [] => 0
    | _ => 0

/-- BSTAT. -/
def execBstat (g : Guard) (d : Nat) (a : Operand) (s : State) : Host.Outcome State Fault Refusal :=
  s.once g 0 (Operand.priv a) fun x => .done (x.put (x.w.setS d (x.w.task.item (x.index 0 a).toNat)))

/-! ### BCTL (R174, R374) -/

/-- The table that an image holds: row i in its bytes 16 i to 16 i + 15. -/
def tableOf (image : List Byte) : List (BitVec 128) := (upTo 64).map fun i => BitVec.ofNat 128 (leNat ((image.drop (16 * i)).take 16))

def symmetric (t : List (BitVec 128)) : Bool := (upTo 64).all fun i => (upTo i).all fun j => tableEntry t i j == tableEntry t j i

/-- A piece of an image lies in host or pod space, whatever its entry permits (R217). -/
def Ictx.imageAway (x : Ictx) (a : Word) : Bool :=
  (upTo 16).any fun i => match x.spaceOf x.s .device (a + wordOf (64 * i)) 64 with
    | some (.host _) | some (.pod _ _) => true
    | _ => false

/-- The image's bytes, in vault or device space; pod and host addresses are refused (R363). -/
def Ictx.readImage (x : Ictx) (a : Word) (body : State → List Byte → List Place → Res) : Res :=
  if fld a 0 6 ≠ 0 || inPodWindow a then x.fault 19 0x43
  else if isVaultAddr a then
    match x.g.vaultPlace a 1024 with
    | .ok t => body x.s (x.s.readPlace t.place 1024) ((upTo 16).map fun i => t.place.add (64 * i))
    | .error _ => x.faultAt 16 3 a
  else if x.s.stage1Aper x.v a == some 1 then x.fault 19 0x43
  else
    match x.s.deviceRead x.v a 16 with
    | (.error (at', .fault cls sub), s) => if x.imageAway a then x.fault 19 0x43 else .trap s (Trap.all cls sub x.act at')
    | (.error (_, .violation gpa acc), s) => x.freeze s gpa acc
    | (.error (_, .held), _) => x.wait
    | (.ok (bs, ps), s) =>
      if ps.any fun p => match p with | .host _ => true | .pod _ _ => true | _ => false then x.fault 19 0x43 else body s bs ps

/-- BCTL, load form: the image is read and the ACTIVE tasks of the vchip abort; the path goes on once the table is replaced. -/
def execBctlLoad (g : Guard) (a : Operand) (s : State) : Host.Outcome State Fault Refusal :=
  s.once g 0 (Operand.priv a) fun x =>
    let mine (l : CtabLoad) : Bool := l.warp == x.c.warp && l.path == x.c.path
    if x.w.boosted then x.fault 2 3
    else if x.p.hold == some .table then (if (x.s.slot x.v).ctabLoads.any mine then x.wait else .done x.s)
    else
      let x := x.landed
      x.readImage (x.uni .b64 a) fun s bs ps =>
      if !x.mayRead ps 64 then x.wait
      else if !symmetric (tableOf bs) then x.fault 19 0x44
      else
        let s := s.modSlot x.v fun y => { y with
          ctabLoads := (y.ctabLoads.filter fun l => !mine l) ++ [⟨x.c.warp, x.c.path, bs⟩] }
        let s := (s.otherTasks x.v x.c.warp).foldl (fun s e => s.modWarp e.1 fun w => w.askAbort 6 0) s
        .moved (s.modWarp x.c.warp fun w => w.modPath x.c.path fun p => { p with hold := some .table })

/-- BCTL, verdict form (R177). -/
def execBctlVerdict (g : Guard) (a : Operand) (s : State) : Host.Outcome State Fault Refusal :=
  s.once g 0 (Operand.priv a) fun x =>
    match x.w.task.miss with
    | [] => x.fault 2 3
    | m :: ms =>
      if x.w.trap.level = 1 && fld x.w.trap.tcause1 0 8 = 5 then
        .done (x.put { x.w with task := { x.w.task with miss := { m with verdict := some (fld (x.index 0 a) 0 1 == 1) } :: ms } })
      else x.fault 2 3

/-- BCTL_TABLE_REPLACED: every live task of the vchip has released its keys (R174). -/
def execBctlTableReplaced (slot : Nat) (s : State) : Host.Outcome State Fault Refusal :=
  match (s.slot slot).ctabLoads with
  | [] => .next s
  | l :: ls =>
    if s.power.thalt || s.dies.dirs.any fun e => e.slot == slot then .next s
    else .next (s.modSlot slot fun y => { y with ctab := tableOf l.image, ctabLoads := ls })

end Sys2Proof.Machine
end

