-- ==== Sys2Proof/Machine/Context.lean ====
section
/-! DEFINITION. The context block (R224 to R226): its image, written by CTXS and by a pre-emption, and its reading by CTXL. -/

namespace Sys2Proof.Machine

/-! ### Pieces -/

def widthCode (n : Nat) : Nat := match n with | 8 => 0 | 16 => 1 | 32 => 2 | 64 => 3 | _ => 4
def widthOf (c : Nat) : Nat := 8 * 2 ^ c

/-- A mask as a pair of words (R224). -/
def maskWords (m : Mask) : List Word := [m.extractLsb' 0 64, m.extractLsb' 64 64]

def maskAt (ws : List Word) (i : Nat) : Mask := (recWord ws (i + 1)) ++ (recWord ws i)

/-- A region link; 63 is none. -/
def linkCode : Option Nat → Nat
  | some n => n
  | none => 63

def linkOf (n : Nat) : Option Nat := if n < 32 then some n else none

/-- Bits [56:3] of a code address. -/
def codeAddr (w : Word) : Nat := place (fld w 3 54) 3

/-- What a save adds to a warp's own state: saved registers, resume records, YIELD form, the stall (R107, R225). -/
structure CtxInfo where
  nv : Nat
  ncp : Nat
  nmr : Nat
  yf : Bool
  stall : Option Nat
deriving DecidableEq, Repr

def ctxBytes (nv width : Nat) : Nat := 0x1700 + 8 * nv * width

def TaskSt.code : TaskSt → Nat
  | .none => 0
  | .active => 1
  | .drainC => 2
  | .drainA => 2
  | .replay => 3

/-- The header's eight words. -/
def Warp.ctxHeader (w : Warp) (i : CtxInfo) : List Word :=
  let rz := (w.livePaths.filterMap fun p => p.2.rz).head?
  [wordOf (place (ctxBytes i.nv w.width + 64 * (i.ncp + i.nmr)) 32 + place i.nv 23 + place (widthCode w.width) 20 + place w.id.first 16 + place i.ncp 8 +
      place w.trap.level 6 + bitOf w.task.live 5 + bitOf i.yf 4 + i.nmr),
    wordOf (place w.cnt.ld 58 + place w.cnt.st 52 + place w.cnt.cp 47 + place w.cnt.tl 43),
    w.mode, wordOf w.flags.toNat,
    (match rz with
      | some r => wordOf (2 ^ 63 + bitOf (r.factor == 4) 62 + place r.tag 58 + r.limit)
      | none => 0),
    (match i.stall with
      | some n => wordOf (2 ^ 63 + Nat.min n (2 ^ 32 - 1))
      | none => 0),
    wordOf w.nseq, w.trap.utvec]

def Warp.ctxPath (w : Warp) (p : Option Path) : List Word :=
  match p with
  | none => [0, 0, 0, 0]
  | some p => [wordOf (2 ^ 63 + codeAddr p.pc), wordOf (place p.q 55 + place (linkCode p.link) 49)] ++ maskWords (p.mask &&& ~~~w.exited)

def ctxEntry : Option StackEntry → List Word
  | none => [0, 0, 0, 0, 0, 0, 0, 0]
  | some ⟨.region r, q⟩ =>
    [wordOf (2 ^ 63 + codeAddr r.join), wordOf (place q 48 + place (linkCode r.parent) 42)] ++ maskWords r.members ++
      maskWords r.arrived ++ maskWords r.parked
  | some ⟨.deferred p, q⟩ =>
    [wordOf (2 ^ 63 + 2 ^ 62 + codeAddr p.pc), wordOf (place q 48 + place (linkCode p.link) 42)] ++ maskWords p.mask ++ [0, 0, 0, 0]

def ctxSet (m : KMap Word) (lo n : Nat) : List Word := (upTo n).map fun i => KMap.get m 0 (lo + i)

def TrapState.ctx (t : TrapState) : List Word :=
  [t.tcause1, t.tpc1, t.tcause2, t.tpc2, wordOf (t.xop.toNat + place t.xtype.toNat 32),
    wordOf (place (fld t.xd 0 9) 27 + place (fld t.xa 0 9) 18 + place (fld t.xb 0 9) 9 + fld t.xc 0 9), t.ximm, 0]

def HState.code : HState → Nat
  | .idle => 0
  | .pending => 1
  | .done => 2

def Handle.ctx (h : Handle) : List Word :=
  [wordOf (place h.st.code 62 + bitOf h.merged 61 + place h.flags.toNat 56 + place h.status 48 + place h.op 44), h.info]

def Task.ctx (t : Task) : List Word :=
  if !t.live then [0, 0, 0, 0, 0, 0, 0, 0]
  else [t.ub, t.sp, wordOf (place t.size 48 + place t.vb 32 + place t.sd 26 + place t.st.code 24), t.target, wordOf t.age,
    wordOf (Nat.min t.retry 65535), wordOf (place (t.lanes.toNat % 2 ^ 32) 32 + t.glanes.toNat % 2 ^ 32), 0]

/-- One byte for each lane: p0 to p6 and %tmask. -/
def Warp.ctxLane (w : Warp) (l : Nat) : Byte :=
  BitVec.ofNat 8 (((upTo 7).map fun p => bitOf ((w.pred p).getLsbD l) p).sum + bitOf (w.trap.tmask.getLsbD l) 7)

/-- The whole block (R224). -/
def Warp.context (w : Warp) (i : CtxInfo) : List Byte :=
  let shadow (k : Nat) : List Word := ctxSet ((w.shadow[k]?).map (·.set.s) |>.getD []) 0 64
  wordsBytes (w.ctxHeader i ++ (upTo 4).flatMap (fun k => w.ctxPath (w.path? k)) ++
    (upTo 32).flatMap (fun k => ctxEntry (w.stack.getD k none)) ++ ctxSet w.set.s 0 64 ++ shadow 0 ++ shadow 1 ++ shadow 2 ++
    ctxSet w.set.bank 56 8 ++ w.trap.ctx ++ (upTo 16).flatMap (fun f => (w.handle f).ctx) ++ w.task.ctx) ++
  (upTo 128).map w.ctxLane ++
  wordsBytes ((upTo 128).map fun l => KMap.get w.trap.taddr 0 l) ++
  wordsBytes ((upTo (i.nv * w.width)).map fun k => w.vreg (k / w.width) (k % w.width))

/-- Cycles counted since a core's count was `from'`. -/
def cycSince (cyc from' : Nat) : Nat := (cyc + 2 ^ 64 - from') % 2 ^ 64

/-- The stalled cycles counted where paths stall on stale ghosts: the block holds one count, the highest (R167, R225; log entry 98). -/
def Warp.stalled (w : Warp) (count : Nat → Nat) : Option Nat :=
  match w.livePaths.filterMap fun p => p.2.stall with
  | [] => none
  | n :: ns => some (ns.foldl (fun m k => max m (count k)) (count n))

/-! ### Reading a block (R385) -/

/-- Words of a block by byte offset. -/
def blockWord (b : List Byte) (off : Nat) : Word := leWord ((b.drop off).take 8)

def blockWords (b : List Byte) (off n : Nat) : List Word := (upTo n).map fun i => blockWord b (off + 8 * i)

/-- The block does not match the warp. -/
def ctxMismatch (w : Warp) (nv : Nat) (b : List Byte) : Bool :=
  let h0 := blockWord b 0
  let h1 := blockWord b 8
  widthCode w.width ≠ fld h0 20 3 || w.id.first ≠ fld h0 16 2 || nv < fld h0 23 9 || fld h0 8 8 ≠ 0 || fld h0 0 4 ≠ 0 ||
  fld h0 5 1 ≠ 0 || fld (blockWord b 32) 63 1 ≠ 0 || fld (blockWord b 40) 63 1 ≠ 0 || fld h1 43 21 ≠ 0 ||
  (upTo 16).any fun f => fld (blockWord b (0x1140 + 16 * f)) 62 2 = 1

def readPath (ws : List Word) : Option Path :=
  let w0 := recWord ws 0
  let w1 := recWord ws 1
  if fld w0 63 1 = 0 then none
  else some { Path.start (wordOf (codeAddr w0)) (maskAt ws 2) (linkOf (fld w1 49 6)) with q := Nat.min (fld w1 55 9) 256 }

def readEntry (ws : List Word) : Option StackEntry :=
  let w0 := recWord ws 0
  let w1 := recWord ws 1
  let a := wordOf (codeAddr w0)
  let l := linkOf (fld w1 42 6)
  if fld w0 63 1 = 0 then none
  else if fld w0 62 1 = 1 then some ⟨.deferred (Path.start a (maskAt ws 2) l), fld w1 48 16⟩
  else some ⟨.region ⟨a, maskAt ws 2, maskAt ws 4, maskAt ws 6, l⟩, fld w1 48 16⟩

/-- A sparse table of words that are not zero. -/
def sparse (ws : List Word) (first : Nat) : KMap Word :=
  ws.zipIdx.filterMap fun e => if e.1 = 0 then none else some (first + e.2, e.1)

def readHandle (ws : List Word) : Handle :=
  let w0 := recWord ws 0
  ⟨match fld w0 62 2 with | 2 => .done | 1 => .pending | _ => .idle, fld w0 44 4, fld w0 48 8, BitVec.ofNat 5 (fld w0 56 5),
    fld w0 61 1 == 1, recWord ws 1, 0⟩

/-- Lanes that some path or region holds, those parked or arrived at it among them. -/
def heldLanes (ps : List (Option Path)) (st : List (Option StackEntry)) : Mask :=
  let a := ps.foldl (fun m p => match p with | some p => m ||| p.mask | none => m) (0 : Mask)
  st.foldl (fun m e =>
    match e with
    | some ⟨.region r, _⟩ => m ||| r.members ||| r.arrived ||| r.parked
    | some ⟨.deferred p, _⟩ => m ||| p.mask
    | none => m) a

/-- The warp as a block restores it (R226): a lane that no path and no region holds has exited; the lanes that run a
handler are the ones that ran it, or the lowest live path's (log entry 42). -/
def Warp.restore (w : Warp) (b : List Byte) : Warp :=
  let h0 := blockWord b 0
  let nv := fld h0 23 9
  let level := Nat.min (fld h0 6 2) 2
  let ps := (upTo 4).map fun k => readPath (blockWords b (0x40 + 32 * k) 4)
  let st := (upTo 32).map fun k => readEntry (blockWords b (0xC0 + 64 * k) 8)
  let t := blockWords b 0x1100 8
  let w5 := recWord t 5
  let byte (l : Nat) : Nat := ((b.drop (0x1280 + l)).headD 0).toNat
  let mask (bit : Nat) : Mask := maskOf ((upTo 128).filter fun l => byte l / 2 ^ bit % 2 = 1)
  let live := (upTo 4).filter fun k => (ps.getD k none).isSome
  let maskAt (k : Nat) : Mask := ((ps.getD k none).map (·.mask)).getD 0
  let own := if live.any fun k => maskAt k &&& w.trap.handler != 0 then w.trap.handler else ((live.head?).map maskAt).getD 0
  { w with
    exited := fullMask w.width &&& ~~~heldLanes ps st
    paths := ps
    stack := st
    nseq := fld (blockWord b 0x30) 0 16
    set := ⟨sparse (blockWords b 0x8C0 64) 0, sparse (blockWords b 0x10C0 8) 56⟩
    shadow := w.shadow.zipIdx.map fun e => { e.1 with set := { e.1.set with s := sparse (blockWords b (0xAC0 + 512 * e.2) 64) 0 } }
    vr := ⟨sparseRegs b nv w.width, (upTo 7).filterMap fun p => if mask p = 0 then none else some (p, mask p)⟩
    handles := (upTo 16).map fun f => readHandle (blockWords b (0x1140 + 16 * f) 2)
    mode := blockWord b 0x10 &&& 0x1F03
    flags := BitVec.ofNat 5 (fld (blockWord b 0x18) 0 5)
    trap := { w.trap with
      level := level
      own1 := if level = 1 then own else if level = 0 then 0 else w.trap.own1
      own2 := if level = 2 then own else 0
      utvec := entryOf (blockWord b 0x38)
      tcause1 := recWord t 0
      tpc1 := recWord t 1
      tcause2 := recWord t 2
      tpc2 := recWord t 3
      xop := wordOf (fld (recWord t 4) 0 18)
      xtype := wordOf (fld (recWord t 4) 32 7)
      xd := wordOf (fld w5 27 9)
      xa := wordOf (fld w5 18 9)
      xb := wordOf (fld w5 9 9)
      xc := wordOf (fld w5 0 9)
      ximm := recWord t 6
      tmask := mask 7
      taddr := sparse (blockWords b 0x1300 128) 0 } }
where
  /-- Registers below NV from the block; those above read as zero. -/
  sparseRegs (b : List Byte) (nv width : Nat) : KMap Word :=
    (upTo nv).flatMap fun r => (upTo width).filterMap fun l =>
      let x := blockWord b (0x1700 + 8 * (r * width + l))
      if x = 0 then none else some (128 * r + l, x)

end Sys2Proof.Machine
end

