-- ==== Sys2Proof/Machine/Inval.lean ====
section
/-! DEFINITION. Invalidation of cached translations: TINVN, S2INVN and TLBI share one queue for each vchip, and each waits for
the drain of what was translated with a removed entry (R76, R77, R382). -/

namespace Sys2Proof.Machine

/-- A page of translated addresses that an invalidation covers; stage 2 covers them all, since combined translations do not record the
guest physical page (R76, log entry 48). -/
def Inv.coversPage (i : Inv) (page : Nat) : Bool :=
  i.all || i.src == .s2inv || (i.page ≤ page && page < i.page + i.count)

/-- An access to a translated address that an invalidation covers: pod-window addresses are not translated at the source (R70). -/
def Inv.covers (i : Inv) (a : Word) : Bool := !inPodWindow a && i.coversPage (a.toNat / 4096)

/-- A lane's address is translated where it is no vault address: scalar accesses always take device addresses (R134, R285). -/
def MemOp.translated (o : MemOp) (a : Word) (p : Place) : Bool := o.scalar || !(isVaultAddr a && p.isVault)

/-- A lane of a queued operation, the next hop of its `RCHASE` or the node of its `RENQ` was translated with an entry that an invalidation
removes. -/
def Inv.coversLane (i : Inv) (o : MemOp) (l : LaneOp) : Bool :=
  (o.translated (o.target l) l.place && i.covers (o.target l)) ||
    (match l.place2 with
      | some p => let a := l.data.headD 0; o.translated a p && i.covers a
      | none => false)

/-- The translated address behind a request of an engine or a lane, by the request's type: a READ's source, a WRITE's destination, what
a `PSEND` reads late. -/
def State.requestAddr (s : State) (typ : Nat) (o : Origin) (late : Option LateRead) : Option Word :=
  match o with
  | .lane w op l => (s.warp? w).bind fun x => (x.work.ops.find? fun p => p.id == op).bind fun p => (p.lanes[l]?).map p.target
  | .copy id i => (KMap.find? s.work.copies id).map fun c => if typ = 2 then c.srcAddr i else c.dstAddr i
  | .post id off => (KMap.find? s.work.posts id).map fun p => p.addr + wordOf off
  | _ => late.map (·.addr)

/-- A running copy whose current 4 KiB unit an invalidation covers, and where that unit ends (R77). -/
def State.coveredCopy (s : State) (v : Nat) (i : Inv) (c : Copy) : Option Nat :=
  let of (a : Word) : Bool := !isVaultAddr a && i.covers a
  if c.slot != v || !c.started || c.err.isSome || c.len ≤ c.fill || !s.warpResident c.warp then none
  else
    let a := c.dstAddr c.fill
    let run := c.dstRun c.fill
    if of a || (c.units c.fill (c.beatLen c.fill)).any (fun u => of u.addr) then
      some (min c.len (min (c.fill + (4096 - a.toNat % 4096)) (run.first + run.len)))
    else none

/-- A copy whose stream is frozen is waited for no more than its requests are (R77). -/
def State.copyHeld (s : State) (id : Nat) : Bool :=
  let mine (o : Origin) : Bool := match o with | .copy c _ => c == id | _ => false
  s.fabric.src.any fun x => x.frozen.isSome && ((x.queued.any fun r => mine r.origin) || x.sent.any fun p => mine p.origin)

/-- Requests of a stream that were translated with an entry that an invalidation removes. -/
def State.coveredRequests (s : State) (i : Inv) (x : SrcStream) : List DrainItem :=
  let reqs := (x.queued.map fun r => (r.typ, r.origin, r.late)) ++ x.sent.map fun p => (p.pkt.typ, p.origin, none)
  reqs.filterMap fun r =>
    match s.requestAddr r.1 r.2.1 r.2.2 with
    | some a => if i.covers a then some (.request x.id r.2.1) else none
    | none => none

/-- Remote operations at their homes, whose next access stage 2 has resolved (R334, R335). -/
def State.drainJobs (s : State) (v : Nat) : List DrainItem :=
  (s.fabric.dst.filterMap fun d => if d.id.slot = v then d.job.map fun j => .job d.id j.pkt.seq j.step else none) ++
    ((s.slot v).log.job.map fun j => DrainItem.replay v j.pkt.seq j.step).toList

/-- A remote operation has gone on to another access: a `RENQ` keeps its header to its end. -/
def AgentJob.past (j : AgentJob) (seq step : Nat) : Bool := j.pkt.seq != seq || (j.pkt.aop == 12 && j.step != step)

/-- What the drain of an invalidation waits for (R77): lanes that are not performed, requests translated at the source and not
acknowledged, copies up to the end of their current unit, `MVN` operations over pages that were translated at their issue, and of stage 2
the remote operations at work. -/
def State.drainItems (s : State) (v : Nat) (i : Inv) : List DrainItem :=
  let lanes := s.work.warps.flatMap fun e =>
    if s.slotOf e.2 != v then [] else e.2.work.ops.flatMap fun o => o.lanes.zipIdx.filterMap fun l =>
      if !l.1.done && !l.1.place.isPod && i.coversLane o l.1 then some (DrainItem.lane e.1 o.id l.2) else none
  let requests := s.fabric.src.flatMap fun x => if x.id.slot != v || x.frozen.isSome then [] else s.coveredRequests i x
  let mvns := s.work.mvns.filterMap fun e =>
    let here := s.warpResident e.2.op.warp && ((s.warp? e.2.op.warp).map fun w => s.slotOf w == v).getD false
    if here && e.2.pages.any fun q => i.coversPage q.1 then some (DrainItem.mvn e.1) else none
  let copies := s.work.copies.filterMap fun e => (s.coveredCopy v i e.2).map (DrainItem.copy e.1)
  lanes ++ requests ++ copies ++ mvns ++ (if i.src == .s2inv then s.drainJobs v else [])

def State.itemDone (s : State) : DrainItem → Bool
  | .lane w op l =>
    match (s.warp? w).bind fun x => (x.work.ops.find? fun p => p.id == op).bind fun p => p.lanes[l]? with
    | some q => q.done
    | none => true
  | .request id o =>
    match s.srcStream? id with
    | some x => x.frozen.isSome || !((x.queued.any fun r => r.origin == o) || x.sent.any fun p => p.origin == o)
    | none => true
  | .copy id upTo =>
    match KMap.find? s.work.copies id with
    | some c => upTo ≤ c.fill || c.err.isSome || !s.warpResident c.warp || s.isFrozen c.slot || s.copyHeld id
    | none => true
  | .job id seq step => ((s.dstStream id).job.map fun j => j.past seq step).getD true
  | .replay v seq step => ((s.slot v).log.job.map fun j => j.past seq step).getD true
  | .mvn id => ((KMap.find? s.work.mvns id).map fun m => !s.warpResident m.op.warp).getD true

def State.setInvs (s : State) (v : Nat) (is : List Inv) : State :=
  s.modWork fun k => { k with invs := KMap.set k.invs [] v is }

def State.invsOf (s : State) (v : Nat) : List Inv := KMap.get s.work.invs [] v

/-- Engine writes of a slot's warps that were translated when they were counted are performed. -/
def State.landSlot (s : State) (v : Nat) : State :=
  s.work.warps.foldl (fun s (e : Nat × Warp) => if s.slotOf e.2 = v then s.landWhich e.1 fun x => !x.place.isVault else s) s

/-- The invalidation at the head of the queue begins, but not in a thermal halt (R16): engine writes land, entries go, the drain's items are
fixed (R76). -/
def State.beginInv (s : State) (v : Nat) : State :=
  match s.invsOf v with
  | i :: is =>
    if i.begun || s.power.thalt then s
    else
      let s := s.landSlot v
      let items := s.drainItems v i
      let s := s.modSlot v fun x => { x with tlb := x.tlb.filter fun e => !i.coversPage e.page }
      s.setInvs v ({ i with begun := true, items := items } :: is)
  | [] => s

/-- An invalidation arrives. -/
def State.addInv (s : State) (v : Nat) (i : Inv) : State := (s.setInvs v (s.invsOf v ++ [i])).beginInv v

/-- INVALIDATION_DRAIN_DONE: BUSY clears, or the `TLBI` completes; the next one begins. One that a thermal halt has kept from beginning
begins. -/
def execInvalidationDrainDone (slot : Nat) (s : State) : Host.Outcome State Fault Refusal :=
  match s.invsOf slot with
  | [] => .next s
  | i :: is =>
    if !i.begun then .next (s.beginInv slot)
    else if s.power.thalt || i.items.any fun d => !s.itemDone d then .next s
    else
      let s := match i.src with
        | .tinv => s.modSlot slot fun x => { x with win := { x.win with tinvBusy := false } }
        | .s2inv => s.modSlot slot fun x => { x with blk := { x.blk with s2Busy := false } }
        | .tlbi _ _ => s
      .next ((s.setInvs slot is).beginInv slot)

/-- TLBI: waits for the stores and atomics that the warp issued before, then joins the queue (R382); its completion is a release and an
acquire (R196). -/
def execTlbi (g : Guard) (a b : Operand) (s : State) : Host.Outcome State Fault Refusal :=
  s.once g 0 (privOf [a, b]) fun x =>
    let hold (s : State) (n : Nat) (q : Bool) : Res :=
      .moved (s.modWarp x.c.warp fun w => w.modPath x.c.path fun p => { p with hold := some (.tlbi n q) })
    let complete : Res := .done ((x.put { x.w with work := x.w.work.fenced }).landSeen x.c.warp x.act)
    match x.p.hold with
    | some (.tlbi n false) =>
      if !x.w.opsDone n fun o => o.kind.writes then x.wait
      else
        let ext := x.uni .b64 b
        let all := fld ext 63 1 == 1
        let count := fld ext 0 32
        if !all && count = 0 then complete
        else hold ((x.s.landSeen x.c.warp x.act).addInv x.v ⟨.tlbi x.c.warp x.c.path, fld (x.uni .b64 a) 12 52, count, all, false, []⟩) n true
    | some (.tlbi _ true) => if (x.s.invsOf x.v).any fun i => i.src == .tlbi x.c.warp x.c.path then x.wait else complete
    | _ => hold x.s x.w.work.nextOp false

end Sys2Proof.Machine
end

