-- ==== Sys2Proof/Machine/Messages.lean ====
section
/-! DEFINITION. Pod messages and network posts: PSEND and PRECV (R376 to R378), NPOST and the network engine (R41, R42, R379). -/

namespace Sys2Proof.Machine

/-! ### PSEND (R53, R376) -/

/-- Members of a multicast set other than the sender, ascending; none for a set that is not valid. -/
def State.members (s : State) (c : Vchip) (m : Nat) : List Nat :=
  match (s.guest? c.guest).bind fun g => KMap.find? g.msets m with
  | none => []
  | some x => if x.v then x.members.filter fun d => d != c.vch else []

/-- PSEND. -/
def execPsend (g : Guard) (mc : Bool) (d : Nat) (a b c : Operand) (s : State) : Host.Outcome State Fault Refusal :=
  s.once g 0 (privOf [a, b, c]) fun x => x.withHandle d fun x =>
    let dst := (x.uni .b64 a).toNat
    let src := x.uni .b64 b
    let len := (x.uni .b64 c).toNat
    match x.s.vchip? x.v with
    | none => x.wait
    | some v =>
      if 960 < len || (mc && 255 < dst) then x.fault 19 0x50
      else
        let from? := if len = 0 then some (Place.vault x.w.id.core 0) else
          match x.g.vaultPlace src len with
          | .ok t => some t.place
          | .error _ => none
        match from? with
        | none => x.faultAt 16 3 src
        | some p =>
          if !mc && x.s.podSize v.guest ≤ dst then x.fault 16 4
          else
            let dsts := if mc then x.s.members v dst else [dst]
            let w := x.w.setHandle d (Handle.issue 4)
            if dsts.isEmpty then .done (x.put (w.completeHandle d 6 0 0))
            else
              let late : LateRead := ⟨p, src, len, x.before, x.w.work.xfence⟩
              let r : Request := ⟨6, 0, 0, 0, len, if mc then dst else 0, mc, len, 0, [], .psend x.c.warp d, some late⟩
              let stream := x.s.streamOf x.w
              let s := (x.put w).modWork fun k => { k with psends := k.psends ++ [⟨x.c.warp, d, dsts.length, 0⟩] }
              .done (dsts.foldl (fun s m => s.enqueueRequest ⟨x.v, m, stream⟩ r) s)

/-! ### PRECV (R377, R378) -/

/-- sD of a message of `n` bytes. -/
def recvWord (ws : List Word) (n max : Nat) : Word :=
  let w2 := recWord ws 2
  let mc := fld w2 37 1 == 1
  wordOf (bitOf (max < n) 42 + bitOf mc 41 + (if mc then place (fld w2 38 8) 33 else 0) + place (fld (recWord ws 0) 44 10) 23 + n)

/-- PRECV, an acquire: its vault writes follow the warp's earlier accesses of the same bytes and whatever an acquire orders. -/
def execPrecv (g : Guard) (d : Nat) (a b : Operand) (s : State) : Host.Outcome State Fault Refusal :=
  s.once g 0 (privOf [a, b]) fun x =>
    let dst := x.uni .b64 a
    let most := (x.uni .b64 b).toNat
    let room := min most 960
    let to? := if room = 0 then some (Place.vault x.w.id.core 0) else
      match x.g.vaultPlace dst room with
      | .ok t => some t.place
      | .error _ => none
    match to? with
    | none => x.faultAt 16 3 dst
    | some p =>
      match x.s.validLog? x.v with
      | none => x.wait
      | some cb =>
        let r := x.s.msgRing cb
        match x.s.oldest? x.v r with
        | none => x.wait
        | some pos =>
          let ws := x.s.recordAt x.v r pos
          let n := fld (recWord ws 2) 46 10
          let put := min n room
          let l : LaneOp := ⟨0, dst, p, none, put, [], [], false, false⟩
          let o := { MemOp.shape .store .plain false false false none false with id := x.w.work.nextOp, lanes := [l] }
          if (x.s.slot x.v).log.st != .running || !x.s.mayPerform x.w o l || !x.s.placeOpen x.v p then x.wait
          else
            let bs := x.s.hbmRead (x.s.logOwner x.v) (r.base + pos % r.size + 64) put
            let s := x.s.acquired x.c.warp x.act
            let s := if put = 0 then s else s.storeAt p bs
            let s := s.setCounter cb 2 (pos + recordSize ws)
            .done (s.modWarp x.c.warp fun w => w.setS d (recvWord ws n most))

/-! ### NPOST (R379) -/

/-- Post one work request of an operation. -/
def State.npost (s : State) (op : NpostOp) (g : Guard) (d : Nat) (a b c e0 e1 : Operand) : Host.Outcome State Fault Refusal :=
  s.once g 0 (privOf [a, b, c, e0, e1]) fun x => x.withHandle d fun x =>
    let ep := (x.uni .b64 a).toNat
    let addr := x.uni .b64 b
    let len := (x.uni .b64 c).toNat
    if 15 < ep || !(x.s.slot x.v).endpoints.contains ep then x.fault 19 0x51
    else if len = 0 || 2 ^ 32 ≤ len then x.fault 19 0x52
    else if x.badVault addr len then x.faultAt 16 3 addr
    else
      let id := x.s.work.nextPost
      let p : Post := ⟨id, x.c.warp, d, op, ep, addr, len, x.uni .b64 e0, x.uni .b64 e1, 0, false, [], [], none, x.v,
        x.s.streamOf x.w, x.g.words, x.g.wgs, x.before, x.w.work.xfence⟩
      .done ((x.put (x.w.setHandle d (Handle.issue 5))).modWork fun k => { k with
        posts := KMap.put k.posts id p, nextPost := id + 1 })

def execNpostWrite (g : Guard) (d : Nat) (a b c e0 e1 : Operand) (s : State) : Host.Outcome State Fault Refusal :=
  s.npost .write g d a b c e0 e1

def execNpostRead (g : Guard) (d : Nat) (a b c e0 e1 : Operand) (s : State) : Host.Outcome State Fault Refusal :=
  s.npost .read g d a b c e0 e1

def execNpostSend (g : Guard) (d : Nat) (a b c e0 e1 : Operand) (s : State) : Host.Outcome State Fault Refusal :=
  s.npost .send g d a b c e0 e1

/-! ### The network engine (R41, R42, R379) -/

/-- The gang of a post as far as its vault addresses go. -/
def Post.gang (p : Post) : Gang := 
  ⟨0, p.slot, 0, p.words, 0, p.wgs, .resident, none, ⟨⟨[], [], [], [], []⟩, []⟩, 0, [], false⟩

/-- A local access fails (R149, R379): a violation freezes the vchip, and the handle completes at the resume. -/
def State.failPost (s : State) (p : Post) (e : EngRes) : State :=
  match e with
  | .stage2 gpa acc => (s.setPost { p with err := some 8 }).freezeMaster p.slot gpa acc
  | .bad => s.endPost p.id 3
  | _ => s.endPost p.id 2

/-- What a post places: into the record of a gang that is off its cores (R106). -/
def State.postStore (s : State) (p : Post) (q : Place) (bs : List Byte) : State :=
  match s.warp? p.warp with
  | none => s.storeAt q bs
  | some w => if q.isVault && !s.gangOnCore w.id.gang then s.inRecord w.id.gang fun s => s.storeAt q bs else s.engineStore p.warp none p.f 1 q bs

/-- Read what a write or a send carries, 64-byte units of the local address at a time; `n` bytes remain from `a` on. -/
def State.postRead : Nat → State → Post → Word → Nat → State
  | 0, s, p, _, _ => s.setPost p
  | fuel + 1, s, p, a, n =>
    if n = 0 then s.setPost p
    else
      let k := min n (64 - a.toNat % 64)
      match s.engResolve p.slot p.gang a k Acc.read with
      | (.local q, s) =>
        let (p, s) := s.postGot p (p.len - n) (s.warpBytes p.warp q k)
        State.postRead fuel s p (a + wordOf k) (n - k)
      | (.pod d o, s) =>
        State.postRead fuel
          (s.enqueueRequest ⟨p.slot, d, p.stream⟩ ⟨2, o, 0, 0, 0, 0, false, k, 0, [], .post p.id (p.len - n), none⟩) p
          (a + wordOf k) (n - k)
      | (e, s) => s.failPost p e

/-- Place bytes that a read has fetched. -/
def State.postPlace : Nat → State → Post → Word → List Byte → State
  | 0, s, p, _, _ => s.setPost p
  | fuel + 1, s, p, a, bs =>
    if bs.isEmpty then s.setPost p
    else
      let k := min bs.length (64 - a.toNat % 64)
      match s.engResolve p.slot p.gang a k Acc.write with
      | (.local q, s) =>
        State.postPlace fuel (s.postStore p q (bs.take k)) { p with count := p.count + k } (a + wordOf k) (bs.drop k)
      | (.pod d o, s) =>
        State.postPlace fuel (s.enqueueRequest ⟨p.slot, d, p.stream⟩
          ⟨1, o, 0, 0, k, 0, false, 0, 0, bs.take k, .post p.id (a - p.addr).toNat, none⟩) p
          (a + wordOf k) (bs.drop k)
      | (e, s) => s.failPost p e

/-- Device memory of a vchip whose TDI is not in RUN waits (R27); a vault address is at hand, on its core or in its gang's record
(R106). -/
def State.postHere (s : State) (p : Post) : Bool := isVaultAddr p.addr || inPodWindow p.addr || s.hostOpen p.slot

/-- What goes before a post's local accesses has been performed (R190, R191). -/
def State.postMayRead (s : State) (p : Post) : Bool := s.engineMayRead p.warp p.after p.xfence

/-- Bytes that a peer places into a vchip's memory, through its stage 2 (R41). -/
def State.placeIn : Nat → State → Nat → Nat → List Byte → State
  | 0, s, _, _, _ => s
  | fuel + 1, s, v, gpa, bs =>
    if bs.isEmpty then s
    else
      let k := min bs.length (4096 - gpa % 4096)
      match s.stage2 v gpa Acc.write with
      | .ok h => State.placeIn fuel (s.storeAt h.place (bs.take k)) v (gpa + k) (bs.drop k)
      | .error (.violation g acc) => s.freezeMaster v g acc
      | .error (.fault _ _) | .error .held => s

/-- A peer's bytes for host memory are held while the vchip's TDI is not in RUN (R27). -/
def State.placeHeld (s : State) (v gpa n : Nat) : Bool :=
  !s.hostOpen v && (upTo (n / 4096 + 2)).any fun k =>
    let a := if k = 0 then gpa else (gpa / 4096 + k) * 4096
    decide (a < gpa + n) && (match s.stage2 v a Acc.write with | .ok h => attrAper h.attr == 2 | .error _ => false)

/-- The network engine places for an endpoint that the host has configured, of a vchip that is not frozen (R18, R41). -/
def State.endpointOpen (s : State) (v ep : Nat) : Bool := (s.vchip? v).isSome && (s.slot v).endpoints.contains ep && !s.isFrozen v

/-- A peer's bytes go to the vault of the vchip's `core`-th core, while the vchip is on its cores (R41). -/
def State.placeVault (s : State) (v core off : Nat) (bs : List Byte) : State :=
  match s.vchip? v with
  | none => s
  | some c =>
    if core < c.cores && off + bs.length ≤ vaultSize && (s.slot v).sched.switchedIn then s.storeAt (.vault (c.coreAt core) off) bs else s

/-- The host configures an endpoint, or takes its configuration away (R41). -/
def State.configEndpoint (s : State) (v ep : Nat) (cfg : Option NetCfg) : State :=
  if 15 < ep || (s.vchip? v).isNone then s
  else
    match cfg with
    | none => s.modSlot v fun x => { x with endpoints := x.endpoints.filter (· != ep), netcfg := KMap.erase x.netcfg ep }
    | some c => s.modSlot v fun x => { x with
        endpoints := if x.endpoints.contains ep then x.endpoints else x.endpoints ++ [ep], netcfg := KMap.put x.netcfg ep c }

/-- The header words and the bytes that the transport's tag covers: the model's layout (log entry 112). -/
def etherHeader : EtherMsg → List Word
  | .place v ep a _ => [0, wordOf v, wordOf ep, a]
  | .placeVault v ep core off _ => [1, wordOf v, wordOf ep, wordOf core, wordOf off]
  | .readData id off _ => [2, wordOf id, wordOf off]
  | .acked id n => [3, wordOf id, wordOf n]
  | .resend id off => [4, wordOf id, wordOf off]
  | .sent id => [5, wordOf id]

def etherBytes : EtherMsg → List Byte
  | .place _ _ _ bs | .placeVault _ _ _ _ bs | .readData _ _ bs => bs
  | _ => []

/-- The key of the endpoint that a packet comes to (R41). -/
def State.etherKey? (s : State) (m : EtherMsg) : Option (BitVec 256) :=
  let of (v ep : Nat) : Option (BitVec 256) := (KMap.find? (s.slot v).netcfg ep).map (·.key)
  match m with
  | .place v ep _ _ | .placeVault v ep _ _ _ => of v ep
  | .readData id _ _ | .acked id _ | .resend id _ | .sent id => (s.post? id).bind fun p => of p.slot p.endpoint

/-- A packet that arrives carries the tag under the key of its endpoint; one that leaves needs none. -/
def State.etherOpen (s : State) (m : EtherFrame) : Bool :=
  match m.msg with
  | .sent _ => true
  | msg => match s.etherKey? msg with
    | none => false
    | some key => m.mac == Config.gcmTag key m.nonce (etherHeader msg) (etherBytes msg)

/-- The bytes of a post's packet from an offset on: a read's request has none, and has left. -/
def Post.packet (p : Post) (off : Nat) : Option (Nat × List Byte) :=
  if p.op == .read then (if p.sent then some (0, []) else none) else p.data.find? fun e => e.1 == off

/-- ETHERNET_PACKET_RECEIVE (R41, R42, R379): a peer's bytes are placed; a post's first packet leaves, its reads arrive, its bytes are
acknowledged, or one of its packets is asked for again (selective retransmission), which a frozen vchip does not send (R18). A packet whose
tag is not the endpoint's is dropped. -/
def execEthernetPacketReceive (m : EtherFrame) (s : State) : Host.Outcome State Fault Refusal :=
  if !s.fabricRuns || !s.etherOpen m then .next s
  else
    match m.msg with
    | .place v ep a bs =>
      if !s.endpointOpen v ep || s.placeHeld v a.toNat bs.length then .next s
      else .next (s.placeIn (bs.length + 1) v a.toNat bs)
    | .placeVault v ep core off bs => if !s.endpointOpen v ep then .next s else .next (s.placeVault v core off bs)
    | .resend id off =>
      match s.post? id with
      | none => .next s
      | some p =>
        match p.packet off with
        | none => .next s
        | some e => if s.isFrozen p.slot then .next s else .next (s.sendEther p e.1 e.2)
    | .sent id =>
      match s.post? id with
      | none => .next s
      | some p =>
        if p.sent || p.err.isSome || !s.enginesRun p.slot || !s.postHere p || !s.postMayRead p then .next s
        else if p.op == .read then .next ((s.setPost { p with sent := true }).sendEther p 0 [])
        else .next (s.postRead (p.len + 1) { p with sent := true } p.addr p.len)
    | .readData id off bs =>
      match s.post? id with
      | none => .next s
      | some p =>
        if !p.sent || p.op != .read || p.err.isSome || !s.enginesRun p.slot || !s.postHere p || p.len < off + bs.length ||
            p.len < p.count + bs.length then .next s
        else .next (s.postPlace (bs.length + 1) p (p.addr + wordOf off) bs)
    | .acked id n =>
      match s.post? id with
      | none => .next s
      | some p =>
        if !p.sent || p.op == .read || p.err.isSome then .next s else .next (s.setPost { p with count := min p.len (p.count + n) })

/-- NPOST_COMPLETE: the count has reached the length, and the handle is DONE (R379). -/
def execNpostComplete (post : Nat) (s : State) : Host.Outcome State Fault Refusal :=
  match s.post? post with
  | none => .next s
  | some p => if s.power.thalt || p.err.isSome || p.count < p.len then .next s else .next (s.endPost post 0)

/-- NETWORK_TRANSFER_FAILED: the handle completes with an error, and nothing freezes (R42). -/
def execNetworkTransferFailed (post : Nat) (s : State) : Host.Outcome State Fault Refusal :=
  match s.post? post with
  | none => .next s
  | some p => if s.power.thalt || !p.sent || p.err.isSome then .next s else .next (s.endPost post 7)

end Sys2Proof.Machine
end

