-- ==== Sys2Proof/Machine/Sched.lean ====
section
/-! DEFINITION. The launch scheduler: the launch port (R67), launch records (R89 to R92), dependences (R94), priority (R93, R95) and
the placement of gangs (R99, R100, R111). -/

namespace Sys2Proof.Machine

/-- The scheduler of a slot may work: a vchip, not frozen, no reset under way, memory active. -/
def State.schedRuns (s : State) (v : Nat) : Bool :=
  (s.vchip? v).isSome && !s.isFrozen v && !(s.slot v).blk.flr.begun && s.clocksRun

/-! ### The launch port (R67) -/

def State.modWin (s : State) (v : Nat) (f : Window → Window) : State := s.modSlot v fun x => { x with win := f x.win }

/-- A memory request to the VF's BAR is served only in RUN (R27). -/
def State.onVf (s : State) (v : Nat) (body : State) : State :=
  match (s.slot v).tdi with
  | some .run => if s.answers then body else s
  | some _ => if s.answers then s.signal (.unsupported v) else s
  | none => s

/-- LAUNCH_PORT_WRITE (R67). -/
def execLaunchPortWrite (slot : Nat) (v : Word) (s : State) : Host.Outcome State Fault Refusal :=
  let x := s.slot slot
  .next (s.onVf slot
    (if 256 ≤ x.win.port.length || s.power.start != .operational || x.blk.flr.begun || fld v 6 2 ≠ 0 || x.gen == 0 then
      s.modWin slot fun w => { w with refused := true }
    else s.modWin slot fun w => { w with port := w.port ++ [⟨wordOf (place (fld v 8 56) 8), fld v 0 6, none⟩] }))

/-! ### Launch records (R89 to R91) -/

/-- A dependence entry with a nonzero reserved field, or with LID 0 (R90, R91). -/
def badDep (d0 value : Word) : Bool :=
  let dk := fld d0 62 2
  fld d0 57 5 != 0 || fld d0 0 3 != 0 ||
    (dk == 0 && (fld d0 3 54 != 0 || value != 0)) ||
    (dk == 1 && (fld d0 35 22 != 0 || value != 0 || fld d0 3 32 == 0))

def depWords (ws : List Word) : List (Word × Word) := (upTo 8).map fun i => (recWord ws (8 + 2 * i), recWord ws (9 + 2 * i))

/-- Reserved fields of a record. -/
def recReserved (ws : List Word) : Bool :=
  let w (i : Nat) := recWord ws i
  fld (w 0) 57 7 != 0 || fld (w 0) 0 3 != 0 || fld (w 1) 60 4 != 0 || fld (w 2) 0 23 != 0 || fld (w 3) 32 24 != 0 ||
    fld (w 5) 0 3 != 0 || fld (w 6) 52 11 != 0 || (upTo 8).any (fun i => w (24 + i) != 0)

/-- Other members of a pod gang that a record names on the vchip in slot `v`, ascending; none where the set is not valid. -/
def State.podOthers (s : State) (v : Nat) (ws : List Word) : Option (List Nat) :=
  match s.vchip? v with
  | none => none
  | some c =>
    match (s.guest? c.guest).bind fun g => KMap.find? g.msets (fld (recWord ws 3) 56 8) with
    | some m => if m.v then some (m.members.filter fun d => d != c.vch) else none
    | none => none

/-- The record is INVALID (R91). -/
def State.badRecord (s : State) (v : Nat) (ws : List Word) : Bool :=
  let w2 := recWord ws 2
  let rg := fld w2 52 4
  recReserved ws || rg == 0 || 10 < rg || 64 < (fld w2 56 4 + 1) * rg || 384 < fld w2 43 9 || 1024 < fld w2 32 11 ||
    (fld (recWord ws 6) 63 1 == 1 && fld (recWord ws 6) 32 16 == 0) ||
    (fld w2 26 1 == 1 && (match s.podOthers v ws with
      | none => true
      | some ms => ms.any fun d => s.keyIxOf v d == 0)) ||
    (depWords ws).any fun d => badDep d.1 d.2

/-- A dependence as it stands when the record is read (R94): a launch of that LID that has not completed, the oldest. -/
def State.depOf (s : State) (v : Nat) (d : Word × Word) : Dep :=
  match fld d.1 62 2 with
  | 0 => .done
  | 1 => match (s.slot v).sched.queues.find? fun l => l.lid == fld d.1 3 32 with
    | some l => .launch l.id
    | none => .done
  | k => .flag (k == 3) (wordOf (place (fld d.1 3 54) 3)) d.2

/-- A launch joins its queue. -/
def State.addLaunch (s : State) (v : Nat) (l : Launch) : State :=
  s.modSched v fun c => { c with
    queues := c.queues ++ [{ l with id := c.nextLaunch, prev := KMap.find? c.lastOf l.queue }]
    nextLaunch := c.nextLaunch + 1
    lastOf := if l.isReserve then c.lastOf else KMap.put c.lastOf l.queue c.nextLaunch }

/-- A record that is refused is a launch of its queue that has completed (R91, R94). -/
def State.skipLaunch (s : State) (v queue : Nat) : State :=
  s.modSched v fun c => { c with nextLaunch := c.nextLaunch + 1, lastOf := KMap.put c.lastOf queue c.nextLaunch }

/-- The submission's stores before it have been performed: `LAUNCH` is a release (R196, R298). -/
def State.submitted (s : State) (x : Submission) : Bool :=
  match x.fence with
  | none => true
  | some (w, n) => s.idsDone w n fun _ => true

/-- A gang's words, 256 bytes (R89). -/
def recordLen : Nat := 256

/-! ### Eligibility and priority (R93 to R95) -/

/-- The head of a queue: its oldest launch with gangs unplaced. -/
def Slot.head? (x : Slot) (q : Nat) : Option Launch :=
  x.sched.queues.find? fun l => l.queue == q && !l.isReserve && l.placed < l.gangs

/-- QSER: the launch before it in its queue has not completed (R94). -/
def Slot.earlier (x : Slot) (l : Launch) : Bool := x.sched.queues.any fun m => l.prev == some m.id

def Slot.eligible (x : Slot) (l : Launch) : Bool :=
  l.deps.all (fun d => d == .done) && !(fld (l.word 2) 25 1 == 1 && x.earlier l)

/-- Heads, by queue. -/
def Slot.heads (x : Slot) : List Launch := (upTo 64).filterMap x.head?

/-- Heads that have become eligible start to age (R95). -/
def State.noteEligible (s : State) (v : Nat) : State :=
  let x := s.slot v
  if x.heads.any fun l => l.since.isNone && x.eligible l then
    let ids := (x.heads.filter fun l => x.eligible l).map (·.id)
    let mark (l : Launch) : Launch := if ids.contains l.id then { l with since := some (l.since.getD s.now) } else l
    s.modSched v fun c => { c with queues := c.queues.map mark }
  else s

/-- Effective priority (R95). -/
def Launch.effPrio (l : Launch) (now : Nat) : Nat :=
  l.prio.getD (min 7 (fld (l.word 2) 29 3 + (now - l.since.getD now) / 4000))

/-- Whether `a` goes before `b`. -/
def Launch.before (a b : Launch) (now : Nat) : Bool :=
  let pa := a.effPrio now
  let pb := b.effPrio now
  pb < pa || (pa == pb && (a.since.getD now < b.since.getD now || (a.since.getD now == b.since.getD now && a.queue < b.queue)))

/-- The head whose gang is placed next. -/
def Slot.pick (x : Slot) (now : Nat) : Option Launch :=
  (x.heads.filter fun l => x.eligible l && l.since.isSome).foldl (fun b l =>
    match b with
    | none => some l
    | some m => if l.before m now then some l else b) none

/-- LAUNCH_RECORD_READ: the oldest submission's record is read once and checked (R67, R91, R406). -/
def execLaunchRecordRead (slot : Nat) (s : State) : Host.Outcome State Fault Refusal :=
  match (s.slot slot).win.port with
  | [] => .next s
  | x :: rest =>
    if !s.schedRuns slot || !s.submitted x || s.schedHeld slot x.addr Acc.read then .next s
    else
      let s' := s
      let s := s.modWin slot fun w => { w with port := rest }
      let (p, s) := s.schedPlace slot x.addr recordLen Acc.read
      match p with
      | none => .next (s.launchFault slot x.addr 1)
      | some p =>
        if !s.placeOpen slot p then .next s' else
        let ws := bytesWords (s.readPlace p recordLen)
        if s.badRecord slot ws then .next ((s.skipLaunch slot x.queue).writeCompletion slot ws 2)
        else
          let l : Launch := ⟨0, x.queue, ws, (depWords ws).map (s.depOf slot), none, none, 0, 0, false, false, none, [], none, none⟩
          .next ((s.addLaunch slot l).noteEligible slot)

/-- FLAG_DEPENDENCE_POLL: a head's flag word is read; a failure completes the launch with DEPFAULT (R94, R406). -/
def execFlagDependencePoll (slot : Nat) (launch : Nat) (dep : Nat) (s : State) : Host.Outcome State Fault Refusal :=
  match s.launch? slot launch with
  | none => .next s
  | some l =>
    match l.deps[dep]? with
    | some (.flag eq addr value) =>
      if !s.schedRuns slot || l.isReserve || ((s.slot slot).head? l.queue).map (·.id) ≠ some launch || s.schedHeld slot addr Acc.read then
        .next s
      else
        let (p, s) := s.schedPlace slot addr 8 Acc.read
        match p with
        | none => .next ((s.completeLaunch slot launch 5).noteEligible slot)
        | some p =>
          let w := s.readWord p 8
          if !s.placeOpen slot p then .next s
          else if (if eq then w == value else value.toNat ≤ w.toNat) then
            .next ((s.modLaunch slot launch fun l => { l with deps := setAt l.deps dep .done }).noteEligible slot)
          else .next s
    | _ => .next s

/-! ### What a gang needs (R99) -/

/-- A record's placement sizes: workgroups, warps, granules, z tiles, vault units, BOOST. -/
structure Need where
  nwg : Nat
  nwarp : Nat
  gran : Nat
  zt : Nat
  vlt : Nat
  boost : Bool
deriving DecidableEq, Repr

def Need.of (ws : List Word) : Need :=
  let w2 := recWord ws 2
  ⟨fld w2 60 4 + 1, fld w2 56 4 + 1, (fld w2 56 4 + 1) * fld w2 52 4, fld w2 43 9, fld w2 32 11, fld w2 27 1 == 1⟩

/-- What a workgroup holds on its core. -/
abbrev Held' := Need × WgClaim

/-- Everything that the gangs of a slot hold, saved ones too: they return to their cores (R108). -/
def State.claims (s : State) (v : Nat) : List Held' :=
  (s.work.gangs.filter fun (e : Nat × Gang) => e.2.slot == v).flatMap fun (e : Nat × Gang) =>
    e.2.wgs.map fun c => (Need.of e.2.words, c)

/-- Slot bases are multiples of min(4, p), with p the smallest power of two at or above the warps. -/
def slotStep (nwarp : Nat) : Nat := if nwarp = 1 then 1 else if nwarp = 2 then 2 else 4

/-- The lowest base of `n` units among `size` that none of the busy intervals touches, at multiples of `step`. -/
def lowestFit (size n step : Nat) (busy : List (Nat × Nat)) : Option Nat :=
  (upTo (size + 1)).find? fun b => b % step == 0 && b + n ≤ size && busy.all fun r => apart b n r.1 r.2 || n == 0 || r.2 == 0

/-- Where a workgroup fits on a core beside what is held there. -/
def fitCore (held : List Held') (core : Nat) (n : Need) : Option WgClaim :=
  let on := held.filter fun h => h.2.core == core
  let usedZ := on.flatMap fun h => h.2.ztiles
  let boosted := ((on.filter fun h => h.1.boost).map fun h => h.1.nwarp).sum
  if 64 < (on.map fun h => h.1.gran).sum + n.gran || 384 < usedZ.length + n.zt || (n.boost && 16 < boosted + n.nwarp) then none
  else
    match lowestFit 16 n.nwarp (slotStep n.nwarp) (on.map fun h => (h.2.slot, h.1.nwarp)),
      lowestFit 1024 n.vlt 1 (on.map fun h => (h.2.vault / 4096, h.1.vlt)) with
    | some b, some a => some ⟨core, b, a * 4096, ((upTo 384).filter fun t => !usedZ.contains t).take n.zt⟩
    | _, _ => none

/-- A gang on consecutive cores from `c0` on. -/
def fitFrom (held : List Held') (c0 : Nat) (n : Need) : Option (List WgClaim) :=
  let cs := (upTo n.nwg).map fun i => fitCore held (c0 + i) n
  if cs.all Option.isSome then some (cs.filterMap id) else none

/-- The lowest cluster, then the lowest first core, in which a gang fits (R100). -/
def fitGang (held : List Held') (clusters : List Nat) (n : Need) : Option (List WgClaim) :=
  (clusters.flatMap fun c => (upTo (17 - n.nwg)).map fun i => 16 * c + i).findSome? fun c0 => fitFrom held c0 n

/-- `k` gangs in order, each beside the ones before (R100). -/
def fitAll (clusters : List Nat) (n : Need) : Nat → List Held' → Option (List (List WgClaim))
  | 0, _ => some []
  | k + 1, held =>
    match fitGang held clusters n with
    | none => none
    | some cs => (fitAll clusters n k (held ++ cs.map fun c => (n, c))).map (cs :: ·)

/-- Bytes of a gang's full-form record (R107). -/
def Need.fullForm (n : Need) (nv : Nat) : Nat :=
  256 + n.nwg * (64 + n.vlt * 4096 + n.zt * 4096 + n.nwarp * (ctxBytes nv 32 + 64 * (96 + 15)))

def fullFormOf (ws : List Word) : Nat := (Need.of ws).fullForm (32 * fld (recWord ws 2) 52 4)

/-- Save-area bytes of a slot, and those that its gangs claim. -/
def State.saveRoom (s : State) (v : Nat) : Nat := (s.slot v).sch.saveSize * 2 ^ 20

def State.saveClaimed (s : State) (v : Nat) : Nat :=
  ((s.work.gangs.filter fun (e : Nat × Gang) => e.2.slot == v).map fun (e : Nat × Gang) => e.2.claim).sum

/-- What a gang of a slot claims in the save area: a dedicated vchip claims nothing. -/
def State.saveClaim (s : State) (v : Nat) (ws : List Word) : Nat := if (s.slot v).sch.now.dedic then 0 else fullFormOf ws

/-- Every gang at once: CORES or PODG (R89, R91). -/
def Launch.whole (l : Launch) : Bool := fld (l.word 2) 28 1 == 1 || l.podg

/-- Gangs that are placed together: all, or one. -/
def Launch.batch (l : Launch) : Nat := if l.whole then l.gangs else 1

/-- Places for a launch's next gangs beside these claims; a launch space beyond the cores' number never fits. -/
def State.fitLaunch (s : State) (v : Nat) (l : Launch) (held : List Held') (claimed : Nat) : Option (List (List WgClaim)) :=
  match s.vchip? v with
  | none => none
  | some c =>
    let claim := l.batch * s.saveClaim v l.words
    if 16 * c.cores < l.batch || (claim ≠ 0 && s.saveRoom v < claimed + claim) then none
    else fitAll c.clusters (Need.of l.words) l.batch held

/-- The launch can never fit: not even on empty clusters and an empty save area (NOFIT, R96). -/
def State.neverFits (s : State) (v : Nat) (l : Launch) : Bool := (s.fitLaunch v l [] 0).isNone

/-! ### Placing (R92, R100, R111) -/

def TrapState.start : TrapState := ⟨0, 0, 0, 0, 0, 0, 0, 0, 0, [], 0, 0, 0, 0, 0, 0, 0, 0⟩

def Task.start : Task := ⟨.none, 0, 0, 0, 0, 0, 0, 0, 0, 0, 0, 0, 0, none, none, 0, [], [], false, []⟩

/-- A warp at its start (R92); it has waited longest, before every warp that has issued (log entry 104). -/
def Warp.start (id : WarpId) (pc arg lid mode : Word) : Warp where
  id := id
  width := 32
  exited := 0
  paths := [some (Path.start pc (fullMask 32) none), none, none, none]
  stack := List.replicate 32 none
  nseq := 0
  set := ⟨KMap.set (KMap.set [] 0 0 arg) 0 1 lid, []⟩
  shadow := []
  vr := ⟨[], []⟩
  handles := List.replicate 16 Handle.idle
  cnt := ⟨0, 0, 0, 0⟩
  mode := mode &&& modeMask
  flags := 0
  trap := TrapState.start
  task := Task.start
  work := ⟨[], 0, 0, [], [], [], none, none, [], [], [], [], false, 0, [], 0⟩

/-- The warps of a gang. -/
def State.startWarps (s : State) (gid : Nat) (mode : Word) (ws : List Word) (wgs : List WgClaim) : State :=
  let n := Need.of ws
  let pc := wordOf (place (fld (recWord ws 0) 3 54) 3)
  let ids := wgs.zipIdx.flatMap fun e => (upTo n.nwarp).map fun j => (⟨gid, e.2, e.1.core, e.1.slot + j, 0⟩ : WarpId)
  ids.foldl (fun s id => s.modWork fun k => { k with
    warps := KMap.put k.warps k.nextWarp (Warp.start id pc (recWord ws 4) (wordOf (fld (recWord ws 3) 0 32)) mode)
    nextWarp := k.nextWarp + 1 }) s

/-- One gang takes its places; its cluster serves instructions from memory as it stands now (R138). -/
def State.startGang (s : State) (v launch : Nat) (mode : Word) (ws : List Word) (gidx : Nat) (st : GangSt) (wgs : List WgClaim) :
    State :=
  let gid := s.work.nextGang
  let g : Gang := ⟨gid, v, launch, ws, gidx, wgs, st, none, ⟨s.hbm, s.hostMem⟩, s.saveClaim v ws, [], false⟩
  let s := s.modWork fun k => { k with retired := k.retired.filter fun e => !wgs.any fun c =>
    c.core == e.2.id.core && c.slot ≤ e.2.id.slot && e.2.id.slot < c.slot + (Need.of ws).nwarp }
  (s.modWork fun k => { k with gangs := KMap.put k.gangs gid g, nextGang := gid + 1 }).startWarps gid mode ws wgs

/-- The range that a launch initialises as its first gang is placed (R111). -/
def State.startRange (s : State) (v : Nat) (ws : List Word) : State :=
  let w6 := recWord ws 6
  if fld w6 63 1 = 1 then
    s.modSched v fun c => { c with
      ranges := KMap.set c.ranges ⟨0, 0, 0, 0⟩ (fld w6 48 4) ⟨0, (recWord ws 7).toNat, max (fld w6 0 32) 1, fld w6 32 16⟩ }
  else s

/-- Place the next gangs of a launch. -/
def State.placeGangs (s : State) (v : Nat) (l : Launch) (st : GangSt) (places : List (List WgClaim)) : State :=
  let s := if l.placed = 0 then s.startRange v l.words else s
  let mode := l.mode.getD (s.slot v).blk.defmode
  let s := places.zipIdx.foldl (fun s e => s.startGang v l.id mode l.words (l.placed + e.2) st e.1) s
  let s := s.modSlot v fun x => { x with log := { x.log with ran := true } }
  s.modLaunch v l.id fun m => { m with placed := m.placed + places.length, prio := some (l.effPrio s.now), mode := some mode }

/-- Gangs of a slot may be placed: on its cores, no pre-emption under way, the log valid (R60, R105). -/
def State.mayPlace (s : State) (v : Nat) : Bool :=
  let x := s.slot v
  s.schedRuns v && x.sched.switchedIn && !x.sched.preempting && !x.sch.heldOut && s.logValid v

/-- GANG_RETIRE: the gang's last warp has exited and its operations have completed (R100). -/
def execGangRetire (gang : Nat) (s : State) : Host.Outcome State Fault Refusal :=
  match s.gang? gang with
  | none => .next s
  | some g =>
    if g.st == .ending || g.st == .held || !(s.warpsOf gang).isEmpty || !s.clocksRun then .next s
    else .next ((s.retireGang gang false).noteEligible g.slot)

end Sys2Proof.Machine
end

