-- ==== Sys2Proof/Machine/PodGang.lean ====
section
/-! DEFINITION. Placing gangs (R95, R100) and the exchange of pod gangs (R101, R102). -/

namespace Sys2Proof.Machine

/-! ### The coordinator -/

def State.modPod (s : State) (v id : Nat) (f : PodGang → PodGang) : State :=
  s.modLaunch v id fun l => { l with pod := l.pod.map f }

/-- Guest vchip number of the vchip in a slot. -/
def State.vchNum (s : State) (v : Nat) : Nat := ((s.vchip? v).map (·.vch)).getD 0

/-- The gangs of a committed launch start, when the vchip is on its cores (R101). -/
def State.startHeld (s : State) (v id : Nat) : State :=
  if (s.slot v).sched.switchedIn && !(s.slot v).sched.preempting then
    (s.gangsOfLaunch v id).foldl (fun s g => if g.2.st == .held then s.setGang g.1 { g.2 with st := .resident } else s) s
  else s

/-- Send commit to the members that have not acked it. -/
def State.sendCommits (s : State) (v : Nat) (l : Launch) (p : PodGang) : State :=
  (p.members.filter fun m => m != p.coordinator && !p.commitAcked.contains m).foldl
    (fun s m => s.sendGang v m podCommit l.lid 0 false []) s

/-- The first commit: the coordinator's own gangs start with it. -/
def State.commitPod (s : State) (v id : Nat) : State :=
  match s.launch? v id with
  | none => s
  | some l =>
    match l.pod with
    | none => s
    | some p =>
      let s := s.sendCommits v l p
      (s.modPod v id fun p => { p with committed := true, commitAt := s.now, resent := s.now }).startHeld v id

/-- Every member has acked the reserve: commit. -/
def State.podReady (s : State) (v id : Nat) : State :=
  match (s.launch? v id).bind (·.pod) with
  | none => s
  | some p => if !p.committed && p.members.all p.acked.contains then s.commitPod v id else s

/-- The coordinator has claimed its own resources: it reserves at every other member, ascending. -/
def State.startPod (s : State) (v : Nat) (l : Launch) : State :=
  let me := s.vchNum v
  let others := (s.podOthers v l.words).getD []
  let members := sortNat (me :: others)
  let p : PodGang := ⟨me, members, [me], none, false, [me], [], s.now, 0, 0, false⟩
  let s := s.modLaunch v l.id fun m => { m with pod := some p }
  let s := others.foldl (fun s m => s.sendGang v m podReserve l.lid 0 false (wordsBytes l.words)) s
  s.podReady v l.id

/-- A claim that never was committed goes. -/
def State.freeClaim (s : State) (v id : Nat) : State := (s.gangsOfLaunch v id).foldl (fun s g => s.removeGang g.1) s

/-- The coordinator gives up before commit: release to every member, and the launch completes (R101, step 4). -/
def State.abortPod (s : State) (v id status : Nat) : State :=
  match s.launch? v id with
  | none => s
  | some l =>
    match l.pod with
    | none => s
    | some p => (((s.releaseAll v p l.lid none).freeClaim v id).completeLaunch v id status).noteEligible v

/-! ### A member -/

/-- Every reserve that waits claims its whole launch space as soon as it fits, holds it idle, and acks (R101, step 2): one that does not
fit holds no other up. -/
def State.tryReserve (s : State) (v : Nat) : State :=
  let try1 (s : State) (l : Launch) : State :=
    match s.fitLaunch v l (s.claims v) (s.saveClaimed v), l.pod with
    | some places, some p => (s.placeGangs v l .held places).sendGang v p.coordinator podAck l.lid 0 false []
    | _, _ => s
  if !s.schedRuns v || (s.slot v).sched.preempting || !s.logValid v then s
  else ((s.slot v).sched.queues.filter fun l => l.isReserve && l.placed == 0).foldl try1 s

/-! ### GANG_PLACE -/

/-- The next gangs of the picked head: NOFIT where they never can be placed; a pod gang's are held until the commit (R95, R100,
R101). -/
def State.placePicked (s : State) (v : Nat) (l : Launch) : State :=
  if l.placed = 0 && s.neverFits v l then (s.completeLaunch v l.id 3).noteEligible v
  else
    match s.fitLaunch v l (s.claims v) (s.saveClaimed v) with
    | none => s
    | some places =>
      if l.podg then (s.placeGangs v l .held places).startPod v l
      else (s.placeGangs v l .resident places).noteEligible v

/-- GANG_PLACE: a reserve that waits for room goes first, then the picked head (R95, R100). -/
def execGangPlace (slot : Nat) (s : State) : Host.Outcome State Fault Refusal :=
  let s' := s.tryReserve slot
  if s' ≠ s then .next s'
  else if !s.mayPlace slot then .next s
  else
    match (s.slot slot).pick s.now with
    | none => .next s
    | some l => .next (s.placePicked slot l)

/-! ### GANG packets (R101) -/

def gangLid (p : Packet) : Nat := fld p.imm 0 32
def gangStatus (p : Packet) : Nat := fld p.imm 32 8
def isGang (kind : Nat) (p : Packet) : Bool := p.typ == 0x21 && !p.rev && p.oparg % 4 == kind

/-- The member's claim for a coordinator's launch. -/
def Slot.claimOf (x : Slot) (coord lid : Nat) : Option Launch :=
  x.sched.queues.find? fun l => l.isReserve && l.lid == lid && (match l.pod with | some p => p.coordinator == coord | none => false)

/-- The launch that the vchip coordinates. -/
def Slot.coordinated (x : Slot) (lid : Nat) : Option Launch :=
  x.sched.queues.find? fun l => !l.isReserve && l.lid == lid && l.pod.isSome

/-- GANG_RESERVE: a record that is invalid or can never fit is refused in the ack; else the claim waits for room. -/
def execGangReserve (s : State) : Host.Outcome State Fault Refusal :=
  s.onAnswer (isGang podReserve) fun s p =>
    let v := p.dslot
    let key := (p.svch, gangLid p)
    let x := (s.slot v).sched
    if x.droppedReserves.contains key then
      s.modSched v fun c => { c with droppedReserves := c.droppedReserves.erase key }
    else if ((s.slot v).claimOf p.svch (gangLid p)).isSome then s
    else
      let s := s.modSched v fun c => { c with doneReserves := c.doneReserves.filter (· != key) }
      let ws := bytesWords (p.payload.take 256)
      let pod : PodGang := ⟨p.svch, sortNat (p.svch :: ((s.podOthers v ws).getD []).filter (· != p.svch) ++ [p.dvch]), [], none, false, [], [],
        s.now, 0, 0, false⟩
      let l : Launch := ⟨0, 64, ws, [], none, none, 0, 0, false, true, none, [], some pod, none⟩
      let refuse (st : Nat) : State :=
        (s.modSched v fun c => { c with refusedReserves := c.refusedReserves ++ [key] }).sendGang v p.svch podAck (gangLid p) st
          false []
      if p.payload.length < 256 || !l.podg || l.lid ≠ gangLid p || s.badRecord v ws then refuse 2
      else if s.neverFits v l then refuse 3
      else (s.addLaunch v l).tryReserve v

/-- GANG_ACK: to a commit; or to a reserve, within its time (R101, steps 3 and 4). -/
def execGangAck (s : State) : Host.Outcome State Fault Refusal :=
  s.onAnswer (isGang podAck) fun s p =>
    let v := p.dslot
    match (s.slot v).coordinated (gangLid p) with
    | none => s
    | some l =>
      match l.pod with
      | none => s
      | some q =>
        if !q.members.contains p.svch then s
        else if fld p.imm 40 1 = 1 then
          s.modPod v l.id fun q => { q with commitAcked := if q.commitAcked.contains p.svch then q.commitAcked else q.commitAcked ++ [p.svch] }
        else if q.committed || q.lost then s
        else if gangStatus p ≠ 0 then s.abortPod v l.id (gangStatus p)
        else if q.began + 200 ≤ s.now then s
        else
          (s.modPod v l.id fun q => { q with acked := if q.acked.contains p.svch then q.acked else q.acked ++ [p.svch] }).podReady v l.id

/-- GANG_COMMIT: every commit is acked; the first starts the gangs, or they start at the next switch-in. -/
def execGangCommit (s : State) : Host.Outcome State Fault Refusal :=
  s.onAnswer (isGang podCommit) fun s p =>
    let v := p.dslot
    let s := s.sendGang v p.svch podAck (gangLid p) 0 true []
    match (s.slot v).claimOf p.svch (gangLid p) with
    | none => s
    | some l => (s.modPod v l.id fun q => { q with committed := true }).startHeld v l.id

/-- GANG_RELEASE: a member is done or has failed; or the coordinator frees or discards a claim, whose reserve may still be on its
way. -/
def execGangRelease (s : State) : Host.Outcome State Fault Refusal :=
  s.onAnswer (isGang podRelease) fun s p =>
    let v := p.dslot
    let lid := gangLid p
    if gangStatus p ≠ 0 then
      match (s.slot v).coordinated lid with
      | none => s
      | some l =>
        if !((l.pod.map fun q => q.members.contains p.svch).getD false) then s
        else if gangStatus p = 1 then
          ((s.modPod v l.id fun q => { q with doneBy := if q.doneBy.contains p.svch then q.doneBy else q.doneBy ++ [p.svch] }).settleLaunch
            v l.id).noteEligible v
        else (s.podFail v l.id (some p.svch)).noteEligible v
    else
      match (s.slot v).claimOf p.svch lid with
      | some l =>
        if (l.pod.map fun q => q.committed || q.lost).getD false then s.discardLaunch v l.id
        else (s.freeClaim v l.id).dropLaunch v l.id
      | none =>
        let key := (p.svch, lid)
        s.modSched v fun c =>
          if c.refusedReserves.contains key then { c with refusedReserves := c.refusedReserves.erase key }
          else if c.doneReserves.contains key then { c with doneReserves := c.doneReserves.erase key }
          else { c with droppedReserves := c.droppedReserves ++ [key] }

/-! ### Time limits -/

/-- POD_GANG_RESERVE_TIMEOUT: 200 us after the first reserve not every member has acked (R101, step 4). -/
def execPodGangReserveTimeout (slot : Nat) (launch : Nat) (s : State) : Host.Outcome State Fault Refusal :=
  match (s.launch? slot launch).bind (·.pod) with
  | none => .next s
  | some p =>
    if p.committed || p.lost || p.coordinator ≠ s.vchNum slot || s.now < p.began + 200 ||
        ((s.launch? slot launch).map (·.isReserve)) = some true then .next s
    else .next (s.abortPod slot launch (p.failed.getD 6))

/-- POD_GANG_COMMIT_RESEND: every 50 us to the members that have not acked (R101, step 3). -/
def execPodGangCommitResend (slot : Nat) (launch : Nat) (s : State) : Host.Outcome State Fault Refusal :=
  match s.launch? slot launch with
  | none => .next s
  | some l =>
    match l.pod with
    | none => .next s
    | some p =>
      if !p.committed || p.lost || l.isReserve || s.now < p.resent + 50 then .next s
      else .next ((s.sendCommits slot l p).modPod slot launch fun p => { p with resent := s.now })

/-- POD_GANG_COMMIT_TIMEOUT: a member that has not acked within 1 ms has failed (R102). -/
def execPodGangCommitTimeout (slot : Nat) (launch : Nat) (s : State) : Host.Outcome State Fault Refusal :=
  match s.launch? slot launch with
  | none => .next s
  | some l =>
    match l.pod with
    | none => .next s
    | some p =>
      if !p.committed || p.lost || l.isReserve || s.now < p.commitAt + 1000 || p.members.all p.commitAcked.contains then .next s
      else .next ((s.podFail slot launch none).noteEligible slot)

/-- A vchip frozen for a violation fails in every pod gang that it has committed to (R102). -/
def State.settlePods (s : State) : State :=
  s.slots.foldl (fun s (e : Nat × Slot) =>
    if e.2.frozen.isSome then
      e.2.sched.queues.foldl (fun s l =>
        match l.pod with
        | some p => if p.committed && !p.lost then s.podFail e.1 l.id none else s
        | none => s) s
    else s) s

end Sys2Proof.Machine
end

