-- ==== Sys2Proof/Machine/Saving.lean ====
section
/-! DEFINITION. Gang records: what a pre-emption saves, the image in the save area (R107, R109), results that reach a saved gang
(R106), and the restore (R108, R226, R360). -/

namespace Sys2Proof.Machine

/-! ### What completes before a gang leaves its cores (R105, step 3) -/

/-- What an undone lane waits for may take until after the save: the fabric, where its stream or its vchip is frozen or the answer comes
from another vchip's log (R106), or its slot, whose agent holds it (R143). -/
def State.laneWaits (s : State) (wid : Nat) (w : Warp) (op i : Nat) (l : LaneOp) : Bool :=
  match l.place with
  | .pod d _ =>
    s.isFrozen (s.slotOf w) || s.fabric.src.any fun x => x.id == ⟨s.slotOf w, d, s.streamOf w⟩ &&
      (x.frozen.isSome || x.await.any fun e => e.2 == .lane wid op i)
  | _ => l.sent

/-- Undone lanes of a warp that the save does not wait for: those, and the ones that are performed after one of them. -/
def State.lanesLeft (s : State) (wid : Nat) (w : Warp) : List (MemOp × LaneOp) :=
  w.work.ops.foldl (fun left o =>
    left ++ (o.lanes.zipIdx.filter fun e => !e.1.done && (s.laneWaits wid w o.id e.2 e.1 || left.any fun x => s.waitsFor w o e.1 x.1 x.2)).map
      fun e => (o, e.1)) []

/-- A lane of a stopping warp that still completes at its home: local, and behind nothing that may take until after the save (R105). -/
def State.laneToCome (s : State) (wid : Nat) (w : Warp) : Bool :=
  let left := s.lanesLeft wid w
  w.work.ops.any fun o => o.lanes.any fun l => !l.done && !l.sent && !l.place.isPod && !left.contains (o, l)

/-- A warp has an issued local write that has not come to its home: the completion word is a release over it (R96). -/
def Warp.storesToCome (w : Warp) : Bool :=
  w.work.ops.any fun o => o.kind.writes && o.lanes.any fun l => !l.done && !l.sent && !l.place.isPod

/-- Face copies that have started complete, unless their stream is frozen; those that a frozen vchip has not sent wait for its resume
(R18, R105, R106). -/
def State.facesToCome (s : State) (v gid : Nat) : Bool :=
  let of (id : Nat) (o : Origin) : Bool := match o with | .face p _ => p == id | _ => false
  s.work.publishes.any fun (e : Nat × Publish) => e.2.gang == gid && e.2.pending != 0 &&
    (if s.isFrozen v then s.fabric.src.any fun x => x.id.slot == v && x.frozen.isNone && x.sent.any fun p => of e.1 p.origin
    else !(s.fabric.src.any fun x => x.id.slot == v && x.frozen.isSome &&
      ((x.sent.any fun p => of e.1 p.origin) || x.queued.any fun r => of e.1 r.origin)))

/-- Local accesses and face copies of a gang have completed; an `MVN` is performed in one step, so that one under way has not started
(R105, R358). -/
def State.quiet (s : State) (v gid : Nat) : Bool :=
  !((s.warpsOf gid).any fun e => s.laneToCome e.1 e.2) && !s.facesToCome v gid && !(s.fabric.sound.any fun p => p.1.sslot == v)

/-- A gang's launch is a pod gang's that is lost (R102). -/
def State.gangLost (s : State) (g : Gang) : Bool := (((s.launch? g.slot g.launch).bind (·.pod)).map (·.lost)).getD false

/-- Gangs that end go once no task of theirs is in progress, what completes has completed and their stores have come to their homes (R96,
R102, R181, R221); a lost pod gang's that is saved is discarded as it is (R102). -/
def State.settleEndings (s : State) : State :=
  s.work.gangs.foldl (fun s (e : Nat × Gang) =>
    let g := e.2
    let stored := !((s.warpsOf e.1).any fun w => w.2.storesToCome)
    if g.ends && !s.gangTasks e.1 &&
        ((g.st == .saved && (s.gangLost g || stored)) || (g.st == .ending && s.quiet g.slot e.1 && stored)) then
      (s.retireGang e.1 true).noteEligible g.slot
    else s) s

/-- Launches whose word waits for their warps' stores (R96). -/
def State.settleLaunches (s : State) : State :=
  s.slots.foldl (fun s (e : Nat × Slot) =>
    (e.2.sched.queues.filter fun l => !l.dead.isEmpty).foldl (fun s l => (s.settleLaunch e.1 l.id).noteEligible e.1) s) s

/-! ### Resume records (R107, R225) -/

/-- A copy's record; GEOM holds `COPYS`'s extents and the low 32 bits of its strides, or `COPYX`'s metadata address (log
entry 60). -/
def Copy.record (c : Copy) : List Word :=
  let lo (i : Int) : Nat := (i % 2 ^ 32).toNat
  let (kind, w5, w6, w7) : Nat × Nat × Nat × Nat := match c.kind with
    | .linear => (0, 0, 0, 0)
    | .strided _ s1 s2 d1 d2 n1 n2 => (1, n1 + place n2 32, lo s1 + place (lo s2) 32, lo d1 + place (lo d2) 32)
    | .expand wide md => (2, md.toNat, bitOf wide 0, 0)
  [c.src, c.dst, wordOf (place c.len 32 + c.fill), c.barrier.getD 0, wordOf (place c.f 60 + place kind 58), wordOf w5, wordOf w6, wordOf w7]

/-- A face copy of an `HPUB` that has not started. -/
def State.faceRecord (s : State) (p : Publish) (face : Nat) : List Word :=
  let n := match s.bindingOf p with
    | some b => b.d.frame (oppositeFace face)
    | none => 0
  [wordOf (p.gslot + place face 3), wordOf (p.step % 2 ^ 24), wordOf (place n 32), 0, wordOf (place p.f 60 + place 3 58), 0, 0, 0]

/-- A copy as its record has it: what the record does not hold stays. -/
def Copy.ofRecord (c : Copy) (ws : List Word) : Copy :=
  let w (i : Nat) := recWord ws i
  let back (i : Int) (low : Nat) : Int := if (i % 2 ^ 32).toNat = low then i else sext 32 low
  { c with
    src := w 0
    dst := w 1
    len := fld (w 2) 32 32
    fill := fld (w 2) 0 32
    barrier := if w 3 == 0 then none else some (w 3)
    kind := match c.kind with
      | .linear => .linear
      | .strided row s1 s2 d1 d2 _ _ =>
        .strided row (back s1 (fld (w 6) 0 32)) (back s2 (fld (w 6) 32 32)) (back d1 (fld (w 7) 0 32)) (back d2 (fld (w 7) 32 32))
          (fld (w 5) 0 32) (fld (w 5) 32 32)
      | .expand _ _ => .expand (fld (w 6) 0 1 == 1) (w 5) }

/-- OPS of an operation: its addresses and scalar operands as resolved at issue; vault addresses take 26 bits (log entry 60). -/
def MatOp.ops (o : MatOp) : List Word :=
  match o.kind with
  | .mul _ _ _ _ =>
    [wordOf (fld o.a 0 26 + place (fld o.b 0 26) 26), wordOf (fld o.fbk 0 26 + place (fld o.tab 0 26) 26), o.geo, o.bstr]
  | .topk _ _ _ => [o.a, o.c, 0, 0]
  | .mzld _ | .mzst _ => [o.a, o.b, 0, 0]
  | .mzclr n => [wordOf n, 0, 0, 0]
  | .mzmv _ _ _ => [0, 0, 0, 0]

def MatOp.withOps (o : MatOp) (ws : List Word) : MatOp :=
  let w (i : Nat) := recWord ws i
  match o.kind with
  | .mul _ _ _ _ =>
    { o with
      a := wordOf (fld (w 0) 0 26), b := wordOf (fld (w 0) 26 26), fbk := wordOf (fld (w 1) 0 26), tab := wordOf (fld (w 1) 26 26)
      geo := w 2, bstr := w 3 }
  | .topk _ _ _ => { o with a := w 0, c := w 1 }
  | .mzld _ | .mzst _ => { o with a := w 0, b := w 1 }
  | .mzclr _ => { o with kind := .mzclr (w 0).toNat }
  | .mzmv _ _ _ => o

/-- OPS of an `MVN`: W and its pitch are multiples of 256, whose low bytes hold 16 of the 21 bits of the format block's address. -/
def MvnOp.ops (m : MvnOp) : List Word :=
  let q := fld m.op.fbk 5 21
  [m.op.a + wordOf (q % 256), wordOf (fld m.op.b 0 26 + place (fld m.y 0 26) 26 + place (q / 2 ^ 16) 52), m.op.geo,
    wordOf (m.pitch + q / 256 % 256)]

def MvnOp.withOps (m : MvnOp) (ws : List Word) : MvnOp :=
  let w (i : Nat) := recWord ws i
  let q := fld (w 0) 0 8 + place (fld (w 3) 0 8) 8 + place (fld (w 1) 52 5) 16
  let y := wordOf (fld (w 1) 26 26)
  { m with
    op := { m.op with
      a := wordOf (place (fld (w 0) 8 56) 8), b := wordOf (fld (w 1) 0 26), c := y, fbk := wordOf (place q 5), geo := w 2 }
    rows := fld (w 2) 0 20 + 1
    klen := fld (w 2) 32 16
    pitch := place (fld (w 3) 8 56) 8
    y := y }

/-- A matrix-resume record (R225): an `MVN` has not started (R358). -/
def MatOp.record (o : MatOp) (ops : List Word) : List Word :=
  [o.w0, o.w1, wordOf (place (o.f % 16) 60 + place o.kstep 48 + place o.block 32), o.mode] ++ ops

/-- An operation as its record has it. -/
def MatOp.ofRecord (o : MatOp) (ws : List Word) : MatOp :=
  let w2 := recWord ws 2
  { o with w0 := recWord ws 0, w1 := recWord ws 1, f := if o.f < 16 then fld w2 60 4 else o.f
           kstep := fld w2 48 12, block := fld w2 32 16, mode := recWord ws 3 }

def State.copyRecords (s : State) (wid : Nat) : List (List Word) :=
  ((s.work.copies.filter fun (e : Nat × Copy) => e.2.warp == wid).map fun (e : Nat × Copy) => e.2.record) ++
    (s.work.publishes.filter fun (e : Nat × Publish) => e.2.warp == wid).flatMap fun (e : Nat × Publish) =>
      e.2.waiting.map fun f => s.faceRecord e.2 f

/-- A warp's matrix operations, array and near-memory, in the order of their issue: number and record. -/
def State.matOps (s : State) (wid core : Nat) : List (Nat × List Word) :=
  let arr := ((KMap.get s.work.arrays [] core).filter fun o => o.warp == wid).map fun o => (o.id, o.record o.ops)
  let mvn := (s.work.mvns.filter fun (e : Nat × MvnOp) => e.2.op.warp == wid).map fun (e : Nat × MvnOp) => (e.1, e.2.op.record e.2.ops)
  sortBy (fun (a b : Nat × List Word) => decide (a.1 ≤ b.1)) (arr ++ mvn)

/-! ### What is saved (R107, R109) -/

/-- A workgroup's part: extent of its allocation, its z tiles by their own numbers. -/
structure WgForm where
  lo : Nat
  len : Nat
  z : List Nat
deriving DecidableEq, Repr

/-- Warps of a workgroup in slot order. -/
def State.warpsOfWg (s : State) (gid i : Nat) : List (Nat × Warp) :=
  sortBy (fun (a b : Nat × Warp) => decide (a.2.number ≤ b.2.number)) ((s.warpsOf gid).filter fun e => e.2.id.wg == i)

/-- The whole allocation, or in YIELD form the union of the tile ranges and the hull of the extents. -/
def State.wgForm (s : State) (gid : Nat) (g : Gang) (yform : Bool) (i : Nat) : WgForm :=
  if !yform then ⟨0, g.vlt * 4096, upTo g.zt⟩
  else
    let ys := (s.warpsOfWg gid i).filterMap fun e => e.2.work.yielded
    let tiles := (upTo g.zt).filter fun t => ys.any fun y => y.zfirst ≤ t && t < y.zfirst + y.zcount
    let es := ys.filter fun y => y.len != 0
    match es with
    | [] => ⟨0, 0, tiles⟩
    | y :: r =>
      let lo := r.foldl (fun a y => Nat.min a y.start) y.start
      let hi := r.foldl (fun a y => Nat.max a (y.start + y.len)) (y.start + y.len)
      ⟨lo, hi - lo, tiles⟩

/-- A parked warp's block with its resume records. -/
def State.warpBlock (s : State) (nv : Nat) (yform : Bool) (wid : Nat) (w : Warp) : List Byte :=
  let cs := s.copyRecords wid
  let ms := (s.matOps wid w.id.core).map (·.2)
  let n := if yform then (w.work.yielded.map (·.n)).getD nv else nv
  w.context ⟨n, cs.length, ms.length, yform && w.work.yielded.isSome, w.stalled id⟩ ++ wordsBytes (cs.flatten ++ ms.flatten)

/-- The bytes of z tile `t` of a claim, element (m, n) at 4(32m + n). -/
def tileBytes (z : KMap (BitVec 32)) (core tile : Nat) : List Byte :=
  (upTo 1024).flatMap fun i => leBytes 4 (KMap.get z 0 ((core * 384 + tile) * 1024 + i)).toNat

/-- A workgroup's part: its form, vault image, z tiles, and the blocks of its warps in slot order. -/
structure WgPart where
  form : WgForm
  vault : List Byte
  tiles : List Byte
  blocks : List (Nat × List Byte)
deriving DecidableEq, Repr

def WgPart.header (p : WgPart) : List Byte :=
  let zmap := (upTo 6).map fun k => wordOf ((p.form.z.filter fun t => t / 64 == k).map fun t => 2 ^ (t % 64)).sum
  wordsBytes ([wordOf (place p.form.len 22 + p.form.lo), wordOf p.form.z.length] ++ zmap)

def layBlocks : Nat → List (Nat × List Byte) → List SavedWarp
  | _, [] => []
  | off, (w, b) :: r => ⟨w, off, b.length⟩ :: layBlocks (off + b.length) r

/-- Parts one after another from an offset on: where each lies, and their bytes. -/
def layParts : Nat → List WgPart → List SavedWg × List Byte
  | _, [] => ([], [])
  | off, p :: r =>
    let bs := p.header ++ p.vault ++ p.tiles ++ p.blocks.flatMap (·.2)
    let zoff := off + 64 + p.vault.length
    let (ws, rest) := layParts (off + bs.length) r
    (⟨p.form.lo, p.form.len, off + 64, p.form.z, zoff, layBlocks (zoff + p.tiles.length) p.blocks⟩ :: ws, bs ++ rest)

/-- The record of a gang (R107), and where its parts lie. -/
def Gang.imageOf (g : Gang) (yform : Bool) (ps : List WgPart) : List SavedWg × List Byte :=
  let (ws, body) := layParts 256 ps
  let c := g.wgs.headD ⟨0, 0, 0, []⟩
  let head := [wordOf (place g.lid 32 + place (g.nwg - 1) 28 + place (g.nwarp - 1) 24 + bitOf yform 1 + 1), g.gidxWord,
    wordOf (place c.core 40 + place c.slot 32), wordOf (256 + body.length)]
  (ws, wordsBytes (head ++ List.replicate 28 0) ++ body)

/-- The parts of a gang on its cores. -/
def State.partsNow (s : State) (gid : Nat) (g : Gang) (yform : Bool) : List WgPart :=
  g.wgs.zipIdx.map fun e =>
    let c := e.1
    let f := s.wgForm gid g yform e.2
    ⟨f, Memory.bytes s.dies.vault (vaultKey c.core (c.vault + f.lo)) f.len, f.z.flatMap (fun t => tileBytes s.dies.z c.core (c.ztiles.getD t 0)),
      (s.warpsOfWg gid e.2).map fun w => (w.1, s.warpBlock g.nv yform w.1 w.2)⟩

/-! ### Saving -/

/-- The part of a sparse table that lies in some range. -/
def keepRanges {β : Type} (m : KMap β) (rs : List (Nat × Nat)) : KMap β :=
  m.filter fun (e : Nat × β) => rs.any fun r => r.1 ≤ e.1 && e.1 < r.1 + r.2

/-- A warp off its core: stalls hold the cycles counted; in YIELD form only the declared registers remain; no copy finds older values of
its vaults (log entry 103). -/
def Warp.park (w : Warp) (cyc : Nat) (yform : Bool) : Warp :=
  let count (p : Path) : Path := { p with stall := p.stall.map (cycSince cyc) }
  let w := { w with paths := w.paths.map (Option.map count), work := { w.work with past := [] } }
  match yform, w.work.yielded with
  | true, some y => { w with vr := { w.vr with v := KMap.keepRange w.vr.v 0 (128 * y.n) } }
  | _, _ => w

def State.modWarpsOf (s : State) (gid : Nat) (f : Warp → Warp) : State :=
  let g (e : Nat × Warp) : Nat × Warp := if e.2.id.gang == gid then (e.1, f e.2) else e
  s.modWork fun k => { k with warps := k.warps.map g }

/-- Bytes that a copy has read ahead are read again from its fill pointer (R105, R108). -/
def State.stopCopies (s : State) (gid : Nat) : State :=
  let ws := (s.warpsOf gid).map (·.1)
  let stop (e : Nat × Copy) : Nat × Copy := if ws.contains e.2.warp then (e.1, { e.2 with ahead := [], past := [] }) else e
  s.modWork fun k => { k with copies := k.copies.map stop }

/-- What a gang's engines have written lands. -/
def State.landGang (s : State) (gid : Nat) : State := (s.warpsOf gid).foldl (fun s e => s.landWhich e.1 fun _ => true) s

/-- Save a gang's record at an address of the save area (R105, step 4). -/
def State.saveGang (s : State) (gid base : Nat) : State :=
  match s.gang? gid with
  | none => s
  | some g =>
    let yform := g.yg && (s.warpsOf gid).all fun e => e.2.work.yielded.isSome
    let s := ((s.landGang gid).stopCopies gid).modWarpsOf gid fun w => w.park (s.cyc w.id.core) yform
    let (parts, img) := g.imageOf yform (s.partsNow gid g yform)
    let vs := (g.wgs.zip parts).map fun e => (vaultKey e.1.core (e.1.vault + e.2.lo) / 16, e.2.len / 16)
    let g := (s.gang? gid).getD g
    (s.hbmWrite (s.saveOwner g) base img).setGang gid
      { g with st := .saved, saved := some ⟨keepRanges s.dies.barriers vs, yform, base, img.length, parts⟩ }

/-- Full-form records of gangs with lower numbers lie before a gang's; one that has not started has none. -/
def State.saveBaseOf (s : State) (v gid : Nat) : Nat :=
  let below := s.work.gangs.filter fun (e : Nat × Gang) => e.2.slot == v && e.2.st != .held && e.1 < gid
  (s.slot v).sch.saveBase * 2 ^ 16 + (below.map fun (e : Nat × Gang) => fullFormOf e.2.words).sum

/-- The cores of a vchip keep none of its data, the registers of warps that have exited among it (R81, R92). -/
def State.clearCores (s : State) (v : Nat) : State :=
  match s.vchip? v with
  | none => s
  | some c =>
    let s := s.modWork fun k => { k with retired := k.retired.filter fun (e : Nat × Warp) => !c.clusters.contains (e.2.id.core / 16) }
    c.clusters.foldl (fun s k => s.modDies fun d => { d with
      vault := KMap.dropRange d.vault (16 * k * vaultSize) (16 * vaultSize)
      z := KMap.dropRange d.z (16 * k * 384 * 1024) (16 * 384 * 1024)
      barriers := KMap.dropRange d.barriers (k * vaultSize) vaultSize }) s

/-- A saved warp's block: what stands in the record, or a new one where a result has reached the warp (R106). -/
def State.blockAfter (before after : State) (g : Gang) (r : Saved) (w : SavedWarp) : Option (Nat × List Byte) :=
  let old := after.hbmRead (after.saveOwner g) (r.base + w.off) w.len
  match before.warp? w.warp, after.warp? w.warp with
  | _, none => none
  | none, some _ => some (w.warp, old)
  | some x, some y =>
    let b := after.warpBlock g.nv r.yform w.warp y
    some (w.warp, if before.warpBlock g.nv r.yform w.warp x == b then old else b)

/-- Results that reach a saved gang go into its record (R106): the blocks of its warps. -/
def State.settleRecords (before after : State) : State :=
  after.work.gangs.foldl (fun s (e : Nat × Gang) =>
    match e.2.st, e.2.saved with
    | .saved, some r =>
      let was := ((before.gang? e.1).map (·.saved.isSome)).getD false
      if !was || (before.warpsOf e.1 == after.warpsOf e.1 && before.work.copies == after.work.copies) then s
      else
        let g := e.2
        let bytes (off n : Nat) : List Byte := after.hbmRead (after.saveOwner g) (r.base + off) n
        let ps := r.parts.map fun p => (⟨⟨p.lo, p.len, p.z⟩, bytes p.voff p.len, bytes p.zoff (4096 * p.z.length),
          p.warps.filterMap fun w => before.blockAfter after g r w⟩ : WgPart)
        let (parts, img) := g.imageOf r.yform ps
        (s.hbmWrite (s.saveOwner g) r.base img).setGang e.1 { g with saved := some { r with bytes := img.length, parts := parts } }
    | _, _ => s) after

/-- A record marked invalid (R81). -/
def State.voidRecord (s : State) (g : Gang) : State :=
  match g.st, g.saved with
  | .saved, some r => s.hbmWrite (s.saveOwner g) r.base (wordBytes (leWord (s.hbmRead (s.saveOwner g) r.base 8) &&& ~~~(1 : Word)) 8)
  | _, _ => s

/-! ### Restoring (R108, R226) -/

/-- A path as a block has it: what a block does not hold stays. -/
def keepPath (old new : Option Path) : Option Path :=
  match old, new with
  | some o, some n => some { n with sec := o.sec, barw := o.barw, rz := o.rz, hold := o.hold, bop := o.bop, stall := o.stall }
  | _, n => n

/-- Boosted state as a block has it (R225); BST 2 stands for both drains. -/
def Task.ofCtx (t : Task) (live : Bool) (ws : List Word) : Task :=
  let w (i : Nat) := recWord ws i
  let st : TaskSt := match fld (w 2) 24 2 with | 0 => .none | 1 => .active | 2 => .drainC | _ => .replay
  if !live then t
  else { t with
    ub := w 0, sp := w 1, size := fld (w 2) 48 16, vb := fld (w 2) 32 9, sd := fld (w 2) 26 6
    st := if t.st.code = fld (w 2) 24 2 then t.st else st
    target := w 3, age := (w 4).toNat, retry := fld (w 5) 0 16
    lanes := BitVec.ofNat 128 (fld (w 6) 32 32), glanes := BitVec.ofNat 128 (fld (w 6) 0 32) }

/-- A warp back on its core as its block has it (R226): a rendezvous waits again with its limit in full, each of two with its own; a stall
goes on from SCNT. -/
def Warp.fromBlock (w : Warp) (b : List Byte) (cyc : Nat) : Warp :=
  let word (off : Nat) := blockWord b off
  let h4 := word 0x20
  let h5 := word 0x28
  let x := w.restore b
  let single := decide ((w.livePaths.filter fun p => p.2.rz.isSome).length = 1)
  let rz (r : Rendezvous) : Rendezvous :=
    if single then
      { r with factor := if fld h4 62 1 = 1 then 4 else 2, tag := fld h4 58 4, limit := fld h4 0 32, deadline := cyc + fld h4 0 32 }
    else { r with deadline := cyc + r.limit }
  let back (p : Path) : Path := { p with
    rz := if fld h4 63 1 = 1 then p.rz.map rz else none
    stall := if fld h5 63 1 = 1 then p.stall.map fun _ => cycSince cyc (fld h5 0 32) else none }
  { x with
    id := { w.id with first := fld (word 0) 16 2 }
    width := widthOf (fld (word 0) 20 3)
    paths := (w.paths.zip x.paths).map fun e => (keepPath e.1 e.2).map back
    handles := (w.handles.zip x.handles).map fun e => { e.2 with fill := e.1.fill }
    cnt := ⟨fld (word 8) 58 6, fld (word 8) 52 6, fld (word 8) 47 5, fld (word 8) 43 4⟩
    task := w.task.ofCtx (fld (word 0) 5 1 == 1) (blockWords b 0x1240 8)
    work := { w.work with yielded := none } }

/-- Words of the resume records of a block: `n` of them after `k` others. -/
def resumeRecords (b : List Byte) (k n : Nat) : List (List Word) :=
  let at' := fld (blockWord b 0) 32 32 - 64 * (fld (blockWord b 0) 8 8 + fld (blockWord b 0) 0 4)
  (upTo n).map fun i => blockWords b (at' + 64 * (k + i)) 8

/-- Copies and face copies of a warp as its records have them (R107). -/
def State.restoreCopies (s : State) (wid : Nat) (rs : List (List Word)) : State :=
  let kind (ws : List Word) : Nat := fld (recWord ws 4) 58 2
  let of (f : Nat) (face : Bool) : List (List Word) := rs.filter fun ws => fld (recWord ws 4) 60 4 == f && (kind ws == 3) == face
  let copy (e : Nat × Copy) : Nat × Copy :=
    if e.2.warp = wid then
      match of e.2.f false with
      | ws :: _ => (e.1, e.2.ofRecord ws)
      | [] => e
    else e
  let publish (e : Nat × Publish) : Nat × Publish :=
    if e.2.warp = wid && !e.2.waiting.isEmpty then (e.1, { e.2 with waiting := (of e.2.f true).map fun ws => fld (recWord ws 0) 3 3 }) else e
  let s := s.modWork fun k => { k with copies := k.copies.map copy, publishes := k.publishes.map publish }
  let mine := s.work.copies.filter fun (e : Nat × Copy) => e.2.warp == wid
  s.modWarp wid fun w => mine.foldl (fun (w : Warp) (e : Nat × Copy) => w.setHandle e.2.f { w.handle e.2.f with fill := e.2.fill }) w

/-- Entries of a block table as a resume finds them (R360): `last` is the last block processed. -/
def rereadList (nblk : Nat) : Option Nat → List (Nat × Nat) → List Nat
  | _, [] => []
  | last, (e, new) :: r =>
    let ok := (match last with | none => true | some b => b < new) && new < nblk
    if new = e % passedOver && !isPassed e then e :: rereadList nblk (some new) r
    else if ok then (2 * passedOver + new) :: rereadList nblk (some new) r
    else passedOver :: rereadList nblk last r

/-- A block-table operation goes on with the entries from BLOCK on that stand in its table now (R351, R360). -/
def State.resumeOp (s : State) (g : Gang) (o : MatOp) : MatOp :=
  match o.kind with
  | .mul _ _ true _ =>
    let i := o.block
    let done := (o.list.take i).filter fun e => !isPassed e
    let rest := (o.list.drop i).zipIdx.map fun e => (e.1, s.vaultNat g (o.tab + wordOf (8 + 2 * (i + e.2))) 2)
    let list := o.list.take i ++ rereadList o.nblk (done.getLast?.map (· % passedOver)) rest
    { o with list := list, reread := if list[i]? = o.list[i]? then o.reread else [] }
  | _ => o

/-- Matrix operations of a warp are reissued from their records (R108, R358). -/
def State.restoreOps (s : State) (g : Gang) (wid core : Nat) (rs : List (List Word)) : State :=
  ((s.matOps wid core).zip rs).foldl (fun s e =>
    let id := e.1.1
    let ws := e.2
    let again (o : MatOp) : MatOp := if o.id = id then s.resumeOp g ((o.ofRecord ws).withOps (ws.drop 4)) else o
    let s := s.modWork fun k => { k with arrays := k.arrays.map fun (a : Nat × List MatOp) => (a.1, a.2.map again) }
    match KMap.find? s.work.mvns id with
    | none => s
    | some m => s.resumeMvn g.slot (({ m with op := m.op.ofRecord ws }).withOps (ws.drop 4))) s

/-- A workgroup's vault bytes and z tiles come back from the record. -/
def State.restoreWg (s : State) (g : Gang) (r : Saved) (c : WgClaim) (p : SavedWg) : State :=
  let bytes (off n : Nat) : List Byte := s.hbmRead (s.saveOwner g) (r.base + off) n
  let tile (z : KMap (BitVec 32)) (e : Nat × Nat) : KMap (BitVec 32) :=
    (chunks 4 1024 (bytes (p.zoff + 4096 * e.2) 4096)).zipIdx.foldl (fun z x =>
      KMap.set z 0 ((c.core * 384 + c.ztiles.getD e.1 0) * 1024 + x.2) (BitVec.ofNat 32 (leNat x.1))) z
  s.modDies fun d => { d with
    vault := Memory.setBytes d.vault (vaultKey c.core (c.vault + p.lo)) (bytes p.voff p.len)
    z := p.z.zipIdx.foldl tile d.z }

/-- A warp, its copies and its matrix operations come back from its block. -/
def State.restoreWarp (s : State) (g : Gang) (r : Saved) (x : SavedWarp) : State :=
  match s.warp? x.warp with
  | none => s
  | some w =>
    let b := s.hbmRead (s.saveOwner g) (r.base + x.off) x.len
    let s := s.setWarp x.warp (w.fromBlock b (s.cyc w.id.core))
    let ncp := fld (blockWord b 0) 8 8
    (s.restoreCopies x.warp (resumeRecords b 0 ncp)).restoreOps g x.warp w.id.core (resumeRecords b ncp (fld (blockWord b 0) 0 4))

/-- A saved gang returns to its cores from its record (R108); one that has ended meanwhile goes on with its tasks' replay alone (R181). -/
def State.restoreGang (s : State) (gid : Nat) : State :=
  match s.gang? gid with
  | none => s
  | some g =>
    match g.st, g.saved with
    | .saved, some r =>
      let s := (g.wgs.zip r.parts).foldl (fun s e => s.restoreWg g r e.1 e.2) s
      let s := s.modDies fun d => { d with barriers := r.barriers.foldl (fun m (e : Nat × Bool) => KMap.put m e.1 e.2) d.barriers }
      let s := s.setGang gid { g with st := if g.ends then .ending else .resident, saved := none }
      let s := (r.parts.flatMap (·.warps)).foldl (fun s x => s.restoreWarp g r x) s
      if g.ends then (s.warpsOf gid).foldl (fun s e => s.setWarp e.1 e.2.toEnd) s else s
    | _, _ => s

end Sys2Proof.Machine
end

