-- ==== Sys2Proof/Machine/Preempt.lean ====
section
/-! DEFINITION. Sharing clusters in time and pre-emption: slices, SCHED, PREEMPT, the grace window, switching out and in (R58, R59,
R97, R98, R104, R105, R109). -/

namespace Sys2Proof.Machine

/-! ### Hints (R58, R59) -/

/-- Cycles of the arithmetic clock in a microsecond. -/
def State.mhz (s : State) : Nat := if s.power.cur == 1 then 1200 else 1600

/-- Tell every vchip whose map entry asks for hints. -/
def State.sendHints (s : State) (v kind delay len : Nat) : State :=
  match s.vchip? v with
  | none => s
  | some c =>
    match s.guest? c.guest with
    | none => s
    | some g =>
      (g.vmap.filter fun (e : Nat × Word) => mapHint e.2).foldl (fun s (e : Nat × Word) =>
        s.sendControl v e.1 0x20 (kind + bitOf (s.power.cur == 1) 8) (wordOf (place delay 32 + len)) 0 0 []) s

def isHint (kind : Nat) (p : Packet) : Bool := p.typ == 0x20 && !p.rev && p.oparg % 256 == kind

/-- A sender's announced window goes. -/
def State.forgetHint (s : State) (v svch : Nat) : State :=
  s.modSched v fun c => { c with hints := c.hints.filter fun h => h.1 != svch }

/-- HINT_NEXT_WINDOW: kept for a time-sliced vchip; a dedicated one ignores it. -/
def execHintNextWindow (s : State) : Host.Outcome State Fault Refusal :=
  s.onAnswer (isHint 0) fun s p =>
    let v := p.dslot
    if (s.slot v).sch.now.dedic then s
    else
      let us (n : Nat) : Nat := n / (if p.oparg / 256 % 2 = 1 then 1200 else 1600)
      (s.forgetHint v p.svch).modSched v fun c =>
        { c with hints := c.hints ++ [(p.svch, s.now + us (fld p.imm 32 32), us (fld p.imm 0 32))] }

/-- HINT_DESCHEDULED: the sender has no window planned. -/
def execHintDescheduled (s : State) : Host.Outcome State Fault Refusal :=
  s.onAnswer (isHint 1) fun s p => s.forgetHint p.dslot p.svch

/-- HINT_CANCEL. -/
def execHintCancel (s : State) : Host.Outcome State Fault Refusal :=
  s.onAnswer (isHint 2) fun s p => s.forgetHint p.dslot p.svch

/-- An announced start lies at most 100 us back. -/
def Sched.hintOpen (c : Sched) (now : Nat) : Bool := c.hints.any fun h => h.2.1 ≤ now && now ≤ h.2.1 + 100

/-! ### Who runs next (R98) -/

/-- The window over which core time is counted, in us. -/
def shareWindow : Nat := 100000

/-- Core time of a slot over the trailing window. -/
def State.coreTime (s : State) (v : Nat) : Nat :=
  let c := (s.slot v).sched
  let lo := s.now - shareWindow
  let part (r : Nat × Nat) : Nat := r.2 - Nat.max r.1 lo
  (c.runs.map part).sum + (if c.switchedIn then part (c.inAt, s.now) else 0)

/-- Placed gangs, or a head that may be placed. -/
def State.hasWork (s : State) (v : Nat) : Bool :=
  let x := s.slot v
  (s.work.gangs.any fun (e : Nat × Gang) => e.2.slot == v) || x.heads.any x.eligible

/-- A slot may be switched in. -/
def State.maySwitchIn (s : State) (v : Nat) : Bool :=
  let x := s.slot v
  s.schedRuns v && !x.sch.heldOut && s.logValid v && s.power.target != some 2

/-- The time-sliced vchips of a group. -/
def State.sliceMembers (s : State) (group : Nat) : List Nat :=
  (s.vchips.filter fun e => !(s.slot e.1).sch.now.dedic && (s.slot e.1).sch.now.group == group).map (·.1)

/-- Slot `a` has the lower ratio of core time to SHARE; a SHARE of 0 comes last, ties go to the lower slot. -/
def State.goesBefore (s : State) (a b : Nat) : Bool :=
  let sa := (s.slot a).sch.now.share
  let sb := (s.slot b).sch.now.share
  if sa = 0 || sb = 0 then (sb = 0 && sa ≠ 0) || (sa = 0 && sb = 0 && a < b)
  else
    let x := s.coreTime a * sb
    let y := s.coreTime b * sa
    x < y || (x = y && a < b)

/-- Every other candidate has its share of the window. -/
def State.sharesMet (s : State) (others : List Nat) : Bool :=
  others.all fun v => (s.slot v).sch.now.share * shareWindow ≤ 256 * s.coreTime v

/-- Members of a group that may go in and have work. -/
def State.waiting (s : State) (group : Nat) : List Nat := (s.sliceMembers group).filter fun v => s.maySwitchIn v && s.hasWork v

/-- The one of these members that goes next: one whose announced start has come, where every share is met, the earliest start first; else
the lowest ratio. -/
def State.nextAmong (s : State) (cs : List Nat) : Option Nat :=
  let start (v : Nat) : Nat := (((s.slot v).sched.hints.filter fun h => h.2.1 ≤ s.now && s.now ≤ h.2.1 + 100).map (·.2.1)).foldl Nat.min s.now
  let hinted := cs.filter fun v => (s.slot v).sched.hintOpen s.now && s.sharesMet (cs.filter fun u => u != v)
  let best (l : List Nat) (lt : Nat → Nat → Bool) : Option Nat :=
    l.foldl (fun b v => match b with
      | none => some v
      | some u => if lt v u then some v else b) none
  match best hinted fun a b => start a < start b with
  | some v => some v
  | none => best cs s.goesBefore

/-- The member of a group that goes next. -/
def State.nextOf (s : State) (group : Nat) : Option Nat := s.nextAmong (s.waiting group)

/-! ### Announcing windows (R58; log entry 92) -/

/-- Announced windows of the members of a group, but one, are cancelled. -/
def State.cancelPlans (s : State) (group : Nat) (but : Option Nat) : State :=
  (s.sliceMembers group).foldl (fun s v =>
    if (s.slot v).sched.planned && some v != but then (s.sendHints v 2 0 0).modSched v fun c => { c with planned := false } else s) s

/-- A slice of the vchip begins: its window is announced as open now, and the window of the member that goes next as opening at its
end. -/
def State.announce (s : State) (v : Nat) : State :=
  let r := (s.slot v).sch.now
  let s := (s.sendHints v 0 0 (r.slice * s.mhz)).modSched v fun c => { c with planned := false }
  let next := s.nextAmong ((s.waiting r.group).filter (· != v))
  let s := s.cancelPlans r.group next
  match next with
  | none => s
  | some n =>
    (s.sendHints n 0 (r.slice * s.mhz) ((s.slot n).sch.now.slice * s.mhz)).modSched n fun c => { c with planned := true }

/-! ### Switching in (R60, R63, R98, R108) -/

/-- Save-area claims follow DEDIC (R99). -/
def State.reclaim (s : State) (v : Nat) : State :=
  let f (e : Nat × Gang) : Nat × Gang := if e.2.slot == v then (e.1, { e.2 with claim := s.saveClaim v e.2.words }) else e
  s.modWork fun k => { k with gangs := k.gangs.map f }

def State.modSch (s : State) (v : Nat) (f : SchedRegs → SchedRegs) : State := s.modSlot v fun x => { x with sch := f x.sch }

/-- A write of SCHED that waited for this switch-in takes effect. -/
def State.applySched (s : State) (v : Nat) : State :=
  match (s.slot v).sch.next with
  | none => s
  | some n => s.modSch v fun r => { r with now := { n with dedic := r.now.dedic, group := r.now.group }, next := none }

def State.switchIn (s : State) (v : Nat) : State :=
  let s := (s.applySched v).modSched v fun c => { c with switchedIn := true, inAt := s.now }
  let s := s.modSlot v fun x => { x with log := { x.log with ran := true } }
  let s := if (s.slot v).log.st == .logging then s.setLogSt v .replaying else s
  let mine := (s.work.gangs.filter fun (e : Nat × Gang) => e.2.slot == v).map fun (e : Nat × Gang) => e.1
  let s := mine.foldl State.restoreGang s
  let s := (s.slot v).sched.queues.foldl (fun s l =>
    if (l.pod.map (·.committed)).getD false then s.startHeld v l.id else s) s
  if (s.slot v).sch.now.dedic then s else s.announce v

/-- A group with nobody on its cores, or on the way from them, switches its next member in. -/
def State.groupNext (s : State) (group : Nat) : State :=
  if (s.sliceMembers group).any fun v => (s.slot v).sched.switchedIn then s
  else
    match s.nextOf group with
    | none => s.cancelPlans group none
    | some v => s.switchIn v

/-- A vchip that is out may go in: a dedicated one at once, another in its group's turn. -/
def State.offerCores (s : State) (v : Nat) : State :=
  let x := s.slot v
  if x.vchip.isNone || x.sched.switchedIn then s
  else if x.sch.now.dedic then (if s.maySwitchIn v then s.switchIn v else s)
  else s.groupNext x.sch.now.group

/-! ### Stopping (R105, R109) -/

def State.gangsIn (s : State) (v : Nat) (p : GangSt → Bool) : List (Nat × Gang) :=
  s.work.gangs.filter fun (e : Nat × Gang) => e.2.slot == v && p e.2.st

/-- Gangs for which a grace window opens. -/
def State.graceGangs (s : State) (v : Nat) : List (Nat × Gang) :=
  (s.gangsIn v fun t => t == .resident).filter fun (e : Nat × Gang) => e.2.yg

/-- Resident gangs among these stop; the log leaves RUNNING once no gang of the vchip goes on (R63). -/
def State.stopGangs (s : State) (v : Nat) (gs : List (Nat × Gang)) : State :=
  let s := gs.foldl (fun s e => s.modGang e.1 fun g => { g with st := .stopping }) s
  if (s.slot v).sched.grace then s else s.setLogSt v .logging

/-- Copies and posts of warps that have gone stop with the vchip. -/
def State.dropOrphans (s : State) (v : Nat) : State :=
  let live (w : Nat) : Bool := (s.warp? w).isSome
  s.modWork fun k => { k with
    copies := k.copies.filter fun e => e.2.slot != v || live e.2.warp
    posts := k.posts.filter fun e => e.2.slot != v || live e.2.warp }

/-- SCHED as it stands once the vchip is out: DEDIC and GROUP of a waiting write, and all of one that cleared DEDIC (R97). -/
def State.applyOut (s : State) (v : Nat) : State :=
  match (s.slot v).sch.next with
  | none => s
  | some n =>
    (s.modSch v fun r =>
      if r.now.dedic then { r with now := n, next := none } else { r with now := { r.now with dedic := n.dedic, group := n.group } }).reclaim v

/-- Step 5: the cores return to the group, a commanded pre-emption is done, and another vchip may go in. -/
def State.switchOut (s : State) (v : Nat) : State :=
  let sliced := !(s.slot v).sch.now.dedic
  let s := (s.dropOrphans v).clearCores v
  let s := s.modSched v fun c => { c with
    switchedIn := false, preempting := false, grace := false
    runs := (c.runs ++ [(c.inAt, s.now)]).filter fun r => s.now < r.2 + shareWindow }
  let s := s.modSch v fun r => if r.preBusy then { r with preBusy := false, preDone := true } else r
  let group := (s.slot v).sch.now.group
  let s := s.applyOut v
  let s := if sliced then (s.sendHints v 1 0 0).groupNext group else s
  s.offerCores v

/-- Step 1: nothing more is placed; a grace window opens unless NOYIELD; gangs without one stop. A trigger during a pre-emption
merges with it (R110). With no gang on the cores the pre-emption is complete at once (R104). -/
def State.beginPreempt (s : State) (v : Nat) (noYield : Bool) : State :=
  let c := (s.slot v).sched
  if c.preempting || !c.switchedIn || (s.slot v).blk.flr.begun then s
  else
    let open' := !noYield && !(s.graceGangs v).isEmpty
    let s := s.modSched v fun c => { c with preempting := true, grace := open', graceAt := s.runUs }
    let stop := (s.gangsIn v fun t => t == .resident).filter fun (e : Nat × Gang) => !open' || !e.2.yg
    let s := s.stopGangs v stop
    if (s.gangsIn v GangSt.onCore).isEmpty then s.switchOut v else s

def State.allYielded (s : State) (gid : Nat) : Bool := (s.warpsOf gid).all fun e => e.2.work.yielded.isSome

/-- The window closes: gangs not wholly at their `YIELD`s are saved in full form. -/
def State.endGrace (s : State) (v : Nat) : State :=
  let gs := s.gangsIn v fun t => t == .resident
  let s := gs.foldl (fun s e =>
    if s.allYielded e.1 then s else s.modWarpsOf e.1 fun w => { w with work := { w.work with yielded := none } }) s
  (s.modSched v fun c => { c with grace := false }).stopGangs v gs

/-- GRACE_WINDOW_END: 200 us have passed, or every warp of the window's gangs has stopped at a `YIELD` or exited (R109). -/
def execGraceWindowEnd (slot : Nat) (s : State) : Host.Outcome State Fault Refusal :=
  let c := (s.slot slot).sched
  if !c.grace || !s.clocksRun then .next s
  else if c.graceAt + 200 ≤ s.runUs || (s.graceGangs slot).all fun e => s.allYielded e.1 then .next (s.endGrace slot)
  else .next s

/-! ### Saving (R105) -/

/-- A path does not hold up the save of its warp: a `TLBI` that has issued completes first (R382), and so does a `CTXS` or `CTXL` in its
drain (R386), but in a frozen vchip, whose pre-emption completes as it stands (R19; log entry 98). -/
def State.pathSaves (s : State) (v : Nat) (p : Path) : Bool :=
  match p.hold with
  | some (.tlbi _ _) | some .drain => s.isFrozen v
  | _ => true

/-- A stopping gang may be saved: what completes has completed (R105), and so have the instructions under way that complete first. -/
def State.canSave (s : State) (v gid : Nat) : Bool :=
  ((s.warpsOf gid).all fun e => e.2.livePaths.all fun p => s.pathSaves v p.2) && s.quiet v gid

/-- PREEMPTION_COMPLETE: every warp has stopped and what completes has completed; the records are written and the cores return
(R105). A gang whose tasks replay before it ends holds the pre-emption up, unless its vchip is frozen: then it is saved with the others
(R19). -/
def execPreemptionComplete (slot : Nat) (s : State) : Host.Outcome State Fault Refusal :=
  let c := (s.slot slot).sched
  let gs := s.gangsIn slot fun t => t == .stopping || (s.isFrozen slot && t == .ending)
  if !c.preempting || c.grace || !s.clocksRun || (!s.isFrozen slot && !(s.gangsIn slot fun t => t == .ending).isEmpty) ||
      !(gs.all fun e => s.canSave slot e.1) then .next s
  else
    let s := gs.foldl (fun s e => if (s.warpsOf e.1).isEmpty then s.retireGang e.1 false else s) s
    let s := gs.foldl (fun s e => s.saveGang e.1 (s.saveBaseOf slot e.1)) s
    .next (s.switchOut slot)

/-! ### Slices (R98) -/

/-- A slice follows a vchip's own: SCHED as it was written takes effect, but where DEDIC or GROUP changes the vchip leaves its cores first
(R97). -/
def State.nextSlice (s : State) (v : Nat) : State :=
  let r := (s.slot v).sch
  if (r.next.map fun n => n.dedic != r.now.dedic || n.group != r.now.group).getD false then s.beginPreempt v false
  else ((s.applySched v).modSched v fun c => { c with
    inAt := s.now
    runs := (c.runs ++ [(c.inAt, s.now)]).filter fun r => s.now < r.2 + shareWindow }).announce v

/-- SLICE_END, which waits for the end of a rewrite pause of the guest (R55). Where the slice is over, the vchip has no work, or another
member's announced window opens, the next member pre-empts it; with no other member to go next, a slice that is over, or that of a vchip
without work for which SCHED has been written, is followed by a new one. A group with nobody on its cores switches one in. -/
def execSliceEnd (slot : Nat) (s : State) : Host.Outcome State Fault Refusal :=
  let x := s.slot slot
  let r := x.sch.now
  if x.vchip.isNone || !s.clocksRun || ((x.vchip.map fun c => s.paused c.guest).getD false) then .next s
  else if !x.sched.switchedIn then .next (s.offerCores slot)
  else if x.sched.preempting || r.dedic then .next s
  else
    let next := s.nextOf r.group
    let hinted := match next with
      | some n => n != slot && (s.slot n).sched.hintOpen s.now && s.sharesMet ((s.sliceMembers r.group).filter fun u => u != n && s.hasWork u)
      | none => false
    let ended := decide (x.sched.inAt + r.slice ≤ s.now)
    if next = none || next = some slot then
      if ended || ((!s.hasWork slot || s.isFrozen slot) && x.sch.next.isSome) then .next (s.nextSlice slot) else .next s
    else if ended || !s.hasWork slot || s.isFrozen slot || hinted then .next (s.beginPreempt slot false)
    else .next s

/-! ### Registers (R97, R104) -/

def SchedReg.ofWord (w : Word) : SchedReg := ⟨fld w 32 16, fld w 16 8, fld w 8 6, fld w 0 1 == 1⟩

/-- SCHED's settings as the hypervisor last wrote them. -/
def SchedRegs.written (r : SchedRegs) : SchedReg := r.next.getD r.now

/-- The cluster rules of R88 for a vchip in slot `v` with these clusters. -/
def State.clusterConflict (s : State) (v : Nat) (clusters : List Nat) (dedic : Bool) (group : Nat) : Bool :=
  s.vchips.any fun e =>
    let r := (s.slot e.1).sch.written
    let shares := e.2.clusters.any clusters.contains
    e.1 != v && (if dedic then shares else if r.dedic then shares else r.group == group && e.2.clusters != clusters)

/-- The group's SHAREs with this one. -/
def State.shareSum (s : State) (v : Nat) (n : SchedReg) : Nat :=
  ((s.vchips.filter fun e => e.1 != v && !(s.slot e.1).sch.written.dedic && (s.slot e.1).sch.written.group == n.group).map fun e =>
    (s.slot e.1).sch.written.share).sum + n.share

/-- The save area cannot hold the full-form records of the gangs on the cores (R104). -/
def State.saveShort (s : State) (v : Nat) : Bool :=
  s.saveRoom v < ((s.gangsIn v GangSt.onCore).map fun (e : Nat × Gang) => fullFormOf e.2.words).sum

def State.schedRefused (s : State) (v : Nat) (n : SchedReg) : Bool :=
  let r := (s.slot v).sch
  n.slice < 100 || 10000 < n.slice || (!n.dedic && 256 < s.shareSum v n) ||
    (match s.vchip? v with
      | none => false
      | some c => n.dedic != r.written.dedic && (s.clusterConflict v c.clusters n.dedic n.group || (!n.dedic && s.saveShort v)))

/-- The write takes effect according to the vchip's state (R97). -/
def State.setSched (s : State) (v : Nat) (n : SchedReg) : State :=
  let r := (s.slot v).sch
  let inside := (s.slot v).sched.switchedIn
  let all (s : State) : State := (s.modSch v fun r => { r with now := n, next := none }).reclaim v
  if (s.vchip? v).isNone then all s
  else if r.now.dedic then
    if n.dedic then all s
    else if inside then (s.modSch v fun r => { r with next := some n }).beginPreempt v false
    else (all s).offerCores v
  else
    let s := s.modSch v fun r => { r with next := some n }
    if inside then s else (s.applyOut v).offerCores v

/-- SCHED_WRITE. -/
def execSchedWrite (slot : Nat) (v : Word) (s : State) : Host.Outcome State Fault Refusal :=
  if !s.answers || 64 ≤ slot then .next s
  else
    let s := if fld v 1 1 = 1 then s.modSch slot fun r => { r with refused := false } else s
    let n := SchedReg.ofWord v
    if s.schedRefused slot n then .next (s.modSch slot fun r => { r with refused := true }) else .next (s.setSched slot n)

/-- PREEMPT_GO: with the W1C bits of the value (R97, R104). -/
def execPreemptGo (slot : Nat) (v : Word) (s : State) : Host.Outcome State Fault Refusal :=
  if !s.answers || (s.vchip? slot).isNone then .next s
  else
    let s := s.modSch slot fun r => { r with
      preDone := r.preDone && fld v 2 1 == 0
      preRefused := r.preRefused && fld v 5 1 == 0 }
    let x := s.slot slot
    if fld v 0 1 = 0 then .next s
    else if x.sch.now.dedic && x.sched.switchedIn && s.saveShort slot then .next (s.modSch slot fun r => { r with preRefused := true })
    else if !x.sched.switchedIn then .next (s.modSch slot fun r => { r with heldOut := true, preDone := true })
    else .next ((s.modSch slot fun r => { r with heldOut := true, preBusy := true }).beginPreempt slot (fld v 3 1 == 1))

/-- PREEMPT_RESUME: the vchip may run again. -/
def execPreemptResume (slot : Nat) (s : State) : Host.Outcome State Fault Refusal :=
  if !s.answers || (s.vchip? slot).isNone then .next s
  else .next ((s.modSch slot fun r => { r with heldOut := false }).offerCores slot)

end Sys2Proof.Machine
end

