-- ==== Sys2Proof/Machine/HostIf.lean ====
section
/-! DEFINITION. The host's registers and services: invalidation triggers (R76), the event ring (R86), TDISP (R27), SPDM (R85), the
registers without a row of their own (R5), and the generation pool (R80). -/

namespace Sys2Proof.Machine

/-! ### Invalidation triggers (R76) -/

/-- An invalidation that a length register asks for. -/
def invOf (src : InvFrom) (addr v : Word) : Inv := ⟨src, fld addr 12 52, fld v 0 32, fld v 63 1 == 1, false, []⟩

def Inv.empty (i : Inv) : Bool := !i.all && i.count == 0

/-- TINVN_WRITE: stage 1, from the command window; refused while BUSY. -/
def execTinvnWrite (slot : Nat) (v : Word) (s : State) : Host.Outcome State Fault Refusal :=
  let w := (s.slot slot).win
  let i := invOf .tinv w.tinva v
  .next (s.onVf slot
    (if w.tinvBusy then s.modWin slot fun w => { w with tinvRefused := true }
    else if i.empty then s
    else (s.modWin slot fun w => { w with tinvBusy := true }).addInv slot i))

def State.modBlk (s : State) (v : Nat) (f : Block → Block) : State := s.modSlot v fun x => { x with blk := f x.blk }

/-- S2INVN_WRITE: stage 2, from the per-slot block. -/
def execS2invnWrite (slot : Nat) (v : Word) (s : State) : Host.Outcome State Fault Refusal :=
  let b := (s.slot slot).blk
  let i := invOf .s2inv b.s2inva v
  if !s.answers || 64 ≤ slot then .next s
  else if b.s2Busy then .next (s.modBlk slot fun b => { b with s2Refused := true })
  else if i.empty then .next s
  else .next ((s.modBlk slot fun b => { b with s2Busy := true }).addInv slot i)

/-! ### The event ring (R86) -/

/-- A record as it stands in the ring. -/
def State.ringRecord (s : State) (i : Nat) : EvRec :=
  let q := s.evq
  let ws := bytesWords (s.hostRead (q.base + 64 * (i % 2 ^ q.log2n)) 64)
  ⟨recWord ws 0, recWord ws 1, recWord ws 2, recWord ws 3⟩

/-- Records written and not read. -/
def State.unread (s : State) : List EvRec :=
  let q := s.evq
  if !q.enabled then []
  else (upTo (Nat.min (q.tail - q.head).toNat (2 ^ q.log2n))).map fun i => s.ringRecord (q.head.toNat + i)

/-- EVQBASE_WRITE: HEAD and TAIL become 0; unread records of kinds 1 and 2 go to the new ring first, others are lost. -/
def execEvqbaseWrite (v : Word) (s : State) : Host.Outcome State Fault Refusal :=
  if !s.answers then .next s
  else
    let old := s.unread
    let keep := old.filter fun r => r.kind ≤ 2
    let lost := old.length - keep.length
    let q := s.evq
    let q := { q with
      base := place (fld v 12 52) 12, log2n := fld v 0 5, head := 0, tail := 0, held := keep ++ q.held
      lost := BitVec.ofNat 32 (Nat.min (2 ^ 32 - 1) (q.lost.toNat + lost)), ovf := q.ovf || lost != 0 }
    .next { s with evq := q }.evSettle

/-- EVQHEAD_WRITE: room appears, and held records go out. -/
def execEvqheadWrite (v : Word) (s : State) : Host.Outcome State Fault Refusal :=
  if !s.answers then .next s else .next { s with evq := { s.evq with head := v.setWidth 16 } }.evSettle

/-! ### The host through a TDI (R18, R19, R26, R27) -/

/-- The runs of a host access, page by page through stage 2; or the first address that no range covers. -/
def State.hostRuns (s : State) (v : Nat) (acc : Acc) : Nat → Nat → Nat → Except Nat (List (Place × Nat))
  | 0, _, _ => .ok []
  | fuel + 1, a, n =>
    if n = 0 then .ok []
    else
      let k := min n (4096 - a % 4096)
      match s.stage2 v a acc with
      | .error _ => .error a
      | .ok h =>
        match s.hostRuns v acc fuel (a + k) (n - k) with
        | .error e => .error e
        | .ok rs => .ok ((h.place, k) :: rs)

/-- The host, through a TDI, is a master whose access violated: a record with a token and its address, Completer Abort, and the TDI in
ERROR (R18, R19). -/
def State.freezeTdi (s : State) (v addr : Nat) (acc : Acc) : State :=
  let (t, s) := s.newToken (.tdi v)
  let s := (s.modSlot v fun x => { x with tdi := some .error }).signal (.completerAbort v)
  s.post { kind := 1, slot := v, token := t, guest := ((s.vchip? v).map (·.guest)).getD 0, addr := addr, acc := acc.bits } none

/-- The host reads `len` bytes, or writes, device memory through the TDI of a slot, at a guest physical address (log entry 85). -/
def State.hostAccess (s : State) (v addr len : Nat) (write : Option (List Byte)) : State :=
  match (s.slot v).tdi with
  | none => s
  | some .run =>
    let acc := if write.isSome then Acc.write else Acc.read
    let n := (write.map List.length).getD len
    match s.hostRuns v acc (n + 1) addr n with
    | .error a => s.freezeTdi v a acc
    | .ok runs =>
      match write with
      | some bs => (runs.foldl (fun (r : State × List Byte) e => (r.1.storeAt e.1 (r.2.take e.2), r.2.drop e.2)) (s, bs)).1
      | none => s.signal (.completion v (runs.flatMap fun e => s.readPlace e.1 e.2))
  | some _ => s.signal (.unsupported v)

/-! ### TDISP (R27) -/

/-- Completion words held for a TDI go out. -/
def State.releaseHeld (s : State) (v : Nat) : State :=
  let ws := (s.slot v).sched.heldWrites
  let s := s.modSched v fun c => { c with heldWrites := [] }
  ws.foldl (fun s e =>
    match e with
    | .host a w irq =>
      let s := s.hostWrite a (wordBytes w 8)
      if irq then s.signal (.vf v 0) else s
    | .walk ws status => s.writeCompletion v ws status) s

/-- TDISP_STATE_CHANGE: a TDI exists while its slot holds a vchip; back in RUN it lets held requests go. -/
def execTdispStateChange (slot : Nat) (st : Tdi) (s : State) : Host.Outcome State Fault Refusal :=
  if !s.answers || (s.slot slot).tdi.isNone then .next s
  else
    let s := s.modSlot slot fun x => { x with tdi := some st }
    .next (if st == .run then s.releaseHeld slot else s)

/-! ### The status page (R24, R25) -/

/-- SSTATE (R24). -/
def Start.code : Start → Nat
  | .off => 0
  | .bist => 1
  | .operational => 2
  | .safe => 3
  | .minimal => 4

/-- The header word of the status page. -/
def State.statusHeader (s : State) : Word := wordOf (place s.power.fails 8 + s.power.start.code)

/-! ### SPDM (R84, R85) -/

def State.modSpdm (s : State) (f : Spdm → Spdm) : State := { s with spdm := f s.spdm }

/-- The chain of a certificate slot: slot 0 holds Folier's. -/
def Spdm.chain (p : Spdm) (cslot : Nat) : List Byte := if cslot = 0 then Config.deviceChain else KMap.get p.certs [] cslot

/-- The self-test record that measurement 3 covers: the status page's header and the records (R24, R25). -/
def State.selfTestRecord (s : State) : List Byte := wordsBytes (s.statusHeader :: s.power.records.flatten)

/-- What measurement 5 covers for the vchip of a VF: header, vchip map and stage-2 range table as installed (R45, R47, R71, R84). -/
def State.tdiRecord (s : State) (v : Nat) (c : Vchip) : List Byte :=
  let b := (s.slot v).blk
  let g := (s.guest? c.guest).getD ⟨0, 0, [], [], []⟩
  wordsBytes (wordOf (2 ^ 63 + place g.nvch 16 + g.ident) :: g.vmap.map (·.2)) ++
    s.hbmRead Owner.hv (tableBase b.s2range) (32 * rangeCount b.s2range)

/-- The measurements of a mailbox, from index 1 on: 64 is the PF's, a lower number the VF's of that slot (R84; log entry 90). -/
def State.measured (s : State) (mailbox : Nat) : List (List Byte) :=
  let l := s.links
  let common := [Config.bootRom, Config.firmware, s.selfTestRecord,
    [l.coord, l.sp30, l.sp31]]
  (match s.vchip? mailbox with
    | some c => common ++ [s.tdiRecord mailbox c]
    | none => common).map Config.shake256

/-- A challenge is answered: chain and measurements, signed under the device key (R84). -/
def Spdm.respond (measured : Nat → List (List Byte)) (p : Spdm) (c : Challenge) : Spdm :=
  let ms := measured c.mailbox
  let ch := p.chain c.cslot
  { p with answers := p.answers ++ [.response c.mailbox c.cslot ch ms ((upTo 1280).map (Config.signature (ch ++ ms.flatten)))] }

/-- Rewrites of a slot that no challenge holds up take place; challenges that waited for them are answered. -/
def Spdm.settle (measured : Nat → List (List Byte)) (p : Spdm) (cslot : Nat) : Spdm :=
  if p.challenges.any fun c => c.cslot == cslot then p
  else
    let rs := p.rewrites.filter fun r => r.cslot == cslot
    let p := rs.foldl (fun p r => { p with
      certs := KMap.set p.certs [] r.cslot r.chain, answers := p.answers ++ [.certSet r.mailbox r.cslot] }) p
    let ds := p.deferred.filter fun c => c.cslot == cslot
    let p := { p with
      rewrites := p.rewrites.filter fun r => r.cslot != cslot
      deferred := p.deferred.filter fun c => c.cslot != cslot }
    ds.foldl (Spdm.respond measured) p

/-- SPDM_CHALLENGE: a challenge arrives and is pending, or waits behind a rewrite of its slot; a pending one is answered
(log entry 61). The spec does not say what a slot number above 7 brings: ERROR(InvalidRequest) (log entry 84). -/
def execSpdmChallenge (mailbox cslot : Nat) (s : State) : Host.Outcome State Fault Refusal :=
  let c : Challenge := ⟨mailbox, cslot⟩
  if !s.answers then .next s
  else if 7 < cslot then .next (s.modSpdm fun p => { p with answers := p.answers ++ [.invalid mailbox] })
  else if s.spdm.challenges.contains c then
    .next (s.modSpdm fun (p : Spdm) => Spdm.settle s.measured (Spdm.respond s.measured { p with challenges := p.challenges.erase c } c) cslot)
  else if s.spdm.rewrites.any fun r => r.cslot == cslot then .next (s.modSpdm fun p => { p with deferred := p.deferred ++ [c] })
  else .next (s.modSpdm fun p => { p with challenges := p.challenges ++ [c] })

/-- SET_CERTIFICATE: slot 0 is read-only; a rewrite waits for a pending challenge of its slot. -/
def execSetCertificate (mailbox cslot : Nat) (chain : List Byte) (s : State) : Host.Outcome State Fault Refusal :=
  if !s.answers then .next s
  else if cslot = 0 || 7 < cslot then .next (s.modSpdm fun p => { p with answers := p.answers ++ [.invalid mailbox] })
  else
    let r : CertRewrite := ⟨mailbox, cslot, s.now, chain⟩
    .next (s.modSpdm fun (p : Spdm) => Spdm.settle s.measured { p with rewrites := p.rewrites ++ [r] } cslot)

/-- CHALLENGE_BUSY_TIMEOUT: 2 ms after the rewrite request its slot's challenges end with ERROR(Busy). -/
def execChallengeBusyTimeout (cslot : Nat) (s : State) : Host.Outcome State Fault Refusal :=
  let due := s.spdm.rewrites.any fun r => r.cslot == cslot && r.since + 2000 ≤ s.now
  if !s.answers || !due then .next s
  else
    let busy := (s.spdm.challenges.filter fun c => c.cslot == cslot).map fun c => SpdmAnswer.busy c.mailbox
    let rest := s.spdm.challenges.filter fun c => c.cslot != cslot
    .next (s.modSpdm fun (p : Spdm) => Spdm.settle s.measured { p with challenges := rest, answers := p.answers ++ busy } cslot)

/-! ### MCMD (R23) -/

/-- A command written to MCMD: refused while BUSY, in another start-up state, or for a value other than 1 and 2. -/
def State.mcmd (s : State) (cmd : Nat) : State :=
  let p := s.power
  if !p.mcmdBusy && cmd = 1 && p.start == .safe then s.modPower fun p => { p with start := .bist, mcmdBusy := true }
  else if !p.mcmdBusy && cmd = 2 && p.start == .minimal then s.modPower fun p => { p with fails := 0 }
  else s.modPower fun p => { p with mcmdRefused := true }

/-! ### Registers without a row of their own (R5) -/

/-- A field kept in its place. -/
def keep (v : Word) (lo n : Nat) : Nat := place (fld v lo n) lo

def writePf (offset : Nat) (v : Word) (s : State) : State :=
  match offset with
  | 0x48 =>
    (s.modPower fun p => { p with mcmdRefused := p.mcmdRefused && fld v 1 1 == 0 }).mcmd (fld v 8 8)
  | 0x3218 => if fld v 0 1 = 1 then { s with evq := { s.evq with ovf := false } } else s
  | 0x3220 => if s.host.hvBusy then s.hvResult 4 else if 1 ≤ fld v 56 8 && fld v 56 8 ≤ 3 && fld v 16 40 = 0 then s else s.hvResult 5
  | _ => s

def writeBlock (slot offset : Nat) (v : Word) (s : State) : State :=
  match offset with
  | 0x00 => s.modBlk slot fun b => { b with s2root := wordOf (keep v 13 39 + keep v 0 1) }
  | 0x08 => s.modBlk slot fun b => { b with s2range := wordOf (keep v 13 39 + keep v 0 9) }
  | 0x10 => s.modBlk slot fun b => { b with s2inva := wordOf (keep v 12 52) }
  | 0x20 => if fld v 1 1 = 1 then s.modBlk slot fun b => { b with s2Refused := false } else s
  | 0x48 => s.modSch slot fun r => { r with saveBase := fld v 16 36, saveSize := fld v 0 16 }
  | 0x58 => s.modBlk slot fun b => { b with phvec := wordOf (keep v 3 54 + keep v 0 1) }
  | 0x60 => s.modBlk slot fun b => { b with defmode := v &&& modeMask }
  | _ => s

def writeVf (slot offset : Nat) (v : Word) (s : State) : State :=
  match offset with
  | 0x10 => s.modWin slot fun w => { w with refused := w.refused && fld v 1 1 == 0, lfovf := w.lfovf && fld v 2 1 == 0 }
  | 0x18 => s.modWin slot fun w => { w with s1root := wordOf (keep v 13 39 + keep v 0 1) }
  | 0x20 => s.modWin slot fun w => { w with s1range := wordOf (keep v 13 39 + keep v 0 9) }
  | 0x28 => s.modWin slot fun w => { w with tinva := wordOf (keep v 12 52) }
  | 0x38 => if fld v 1 1 = 1 then s.modWin slot fun w => { w with tinvRefused := false } else s
  | 0x40 => if fld v 0 1 = 1 then s.modWin slot fun w => { w with lfault := 0 } else s
  | _ => s

/-- REGISTER_WRITE: RW fields take the value, W1C bits clear where it holds 1, RO fields, WO fields and offsets without a
register ignore it. -/
def execRegisterWrite (reg : RegAddr) (v : Word) (s : State) : Host.Outcome State Fault Refusal :=
  match reg with
  | .pf o => if s.answers then .next (writePf o v s) else .next s
  | .perSlot n o => if s.answers && n < 64 then .next (writeBlock n o v s) else .next s
  | .vf n o => .next (s.onVf n (writeVf n o v s))

/-! ### The generation pool (R80) -/

/-- Values of the pool 0x01 to 0xFF that can be assigned: the hypervisor and the controller hold 0xFE and 0xFF as their current values
(R80; log entry 6). -/
def GenPool.available (g : GenPool) : List Nat :=
  ((upTo 254).drop 1).filter fun n => (KMap.find? g.current n).isNone && !g.draining.any fun e => e.1 == n

/-- Take a value for a slot; none when the pool is empty. -/
def State.takeGen (s : State) (v : Nat) : Option Nat × State :=
  match s.gens.available with
  | [] => (none, s)
  | g :: gs =>
    let (k, s) := s.choose (gs.length + 1)
    let n := (g :: gs).getD k g
    (some n, { s with gens := { s.gens with current := KMap.put s.gens.current n v } })

/-- A slot's value retires: the scrubber returns it after a full pass. -/
def State.retireGen (s : State) (v : Nat) : State :=
  let n := (s.slot v).gen.toNat
  if n = 0 then s else { s with gens := ⟨KMap.erase s.gens.current n, s.gens.draining ++ [(n, false)]⟩ }

def State.setGen (s : State) (v n : Nat) : State := s.modSlot v fun x => { x with gen := BitVec.ofNat 8 n }

/-- A vchip whose slot holds 0x00 takes a value that has returned to the pool, with a record (R80), in a reset too, whose step 5 then bumps it. -/
def State.assignGen (s : State) (v : Nat) : State :=
  let x := s.slot v
  match x.vchip with
  | none => s
  | some c =>
    if x.gen != 0 then s
    else
      match s.takeGen v with
      | (none, _) => s
      | (some n, s) => (s.setGen v n).post { kind := 5, slot := v, guest := c.guest, addr := n } none

/-- A tag that some owner holds. -/
def GenPool.held (g : GenPool) (t : BitVec 8) : Bool := t.toNat = 0xFE || t.toNat = 0xFF || (KMap.find? g.current t.toNat).isSome

/-- SCRUBBER_PASS_END: stale lines are zero with tag 0; values that were no longer current when the pass began return to the
pool, slots that wait for one are assigned one at once, and the next pass begins. -/
def execScrubberPassEnd (s : State) : Host.Outcome State Fault Refusal :=
  if s.power.start != .operational || 2 ≤ s.power.cur.toNat || s.power.thalt then .next s
  else
    let live (line : Nat) : Bool := s.gens.held (s.hbm.tagOf line)
    let hbm := { s.hbm with
      bytes := s.hbm.bytes.filter fun e => live (lineOf e.1)
      tags := s.hbm.tags.filter fun e => live e.1
      keys := s.hbm.keys.filter fun e => live e.1 }
    let draining := (s.gens.draining.filter fun e => !e.2).map fun e => (e.1, true)
    let s := { s with hbm := hbm, gens := { s.gens with draining := draining } }
    .next (s.slots.foldl (fun s e => s.assignGen e.1) s)

/-- GENERATION_ASSIGNED. -/
def execGenerationAssigned (slot : Nat) (s : State) : Host.Outcome State Fault Refusal :=
  .next (if s.answers then s.assignGen slot else s)

end Sys2Proof.Machine
end

