-- ==== Sys2Proof/Machine/FlrCreate.lean ====
section
/-! DEFINITION. Function-level reset (R81 to R83) and the creation and destruction of vchips (R88). -/

namespace Sys2Proof.Machine

/-! ### Starting a reset (R81, steps 1 and 2) -/

/-- Requests of a vchip that have not completed, the host writes that wait for its TDI among them (R27). -/
def State.outstanding (s : State) (v : Nat) : Nat :=
  let streams := (s.fabric.src.filter fun x => x.id.slot == v).map fun x => x.sent.length + x.await.length + x.queued.length
  let lanes := (s.work.warps.filter fun (e : Nat × Warp) => s.slotOf e.2 == v).map fun (e : Nat × Warp) =>
    (e.2.work.ops.map fun o => (o.lanes.filter fun l => !l.done && !l.sent && !l.place.isPod).length).sum
  streams.sum + lanes.sum + (s.slot v).sched.heldWrites.length

/-- A pre-emption stops: its gangs stay where they are until the reset kills them (R83). -/
def State.stopPreempt (s : State) (v : Nat) : State :=
  if !(s.slot v).sched.preempting then s
  else
    let back (e : Nat × Gang) : Nat × Gang := if e.2.slot == v && e.2.st == .stopping then (e.1, { e.2 with st := .resident }) else e
    let s := s.modWork fun k => { k with gangs := k.gangs.map back }
    (s.modSched v fun c => { c with preempting := false, grace := false }).modSch v fun r => { r with preBusy := false }

/-- The reset begins, or waits for the end of its guest's rewrite pause (R55, R83). -/
def State.startReset (s : State) (v : Nat) (destroy : Bool) : State :=
  match s.vchip? v with
  | none => s
  | some c =>
    if s.paused c.guest then s.modBlk v fun b => { b with flr := .waitPause destroy }
    else (s.stopPreempt v).modBlk v fun b => { b with flr := .draining destroy s.runUs, flrTmo := false, flrRcpt := false }

/-- Resets that waited for a pause begin once it has ended. -/
def State.settleResets (s : State) : State :=
  s.slots.foldl (fun s (e : Nat × Slot) =>
    match e.2.blk.flr, e.2.vchip with
    | .waitPause d, some c => if s.paused c.guest then s else s.startReset e.1 d
    | _, _ => s) s

/-- VF_FLR. -/
def execVfFlr (slot : Nat) (s : State) : Host.Outcome State Fault Refusal :=
  if !s.answers || (s.slot slot).blk.flr != .idle then .next s else .next (s.startReset slot false)

/-- FLRCMD_GO: a write of FLRCMD names the receipt buffer; GO starts the reset, and is ignored while one runs. -/
def execFlrcmdGo (slot : Nat) (v : Word) (s : State) : Host.Outcome State Fault Refusal :=
  if !s.answers || 64 ≤ slot || ((s.slot slot).blk.flr != .idle && fld v 0 1 = 1) then .next s
  else
    let s := s.modBlk slot fun b => { b with rbuf := some (wordOf (keep v 13 51)) }
    .next (if fld v 0 1 = 1 then s.startReset slot false else s)

/-! ### Kill (step 3) -/

/-- Pod gangs of a coordinator are released; a member that had committed has failed (R102). -/
def State.leavePods (s : State) (v : Nat) : State :=
  (s.slot v).sched.queues.foldl (fun s l =>
    match l.pod with
    | none => s
    | some p =>
      if p.lost then s
      else if l.isReserve then (if p.committed then s.sendGang v p.coordinator podRelease l.lid 7 false [] else s)
      else s.releaseAll v p l.lid none) s

def State.killGangs (s : State) (v : Nat) : State :=
  (s.work.gangs.filter fun (e : Nat × Gang) => e.2.slot == v).foldl (fun s (e : Nat × Gang) => s.removeGang e.1) s

def State.dropEngines (s : State) (v : Nat) : State :=
  s.modWork fun k => { k with
    copies := k.copies.filter fun e => e.2.slot != v
    posts := k.posts.filter fun e => e.2.slot != v
    publishes := k.publishes.filter fun e => e.2.slot != v
    psends := k.psends.filter fun p => (s.warp? p.warp).isSome
    invs := KMap.set k.invs [] v [] }

/-- A stream from the vchip loses what it holds; where something was sent, its destination hears of the abandon (R40). -/
def State.cutSource (s : State) (x : SrcStream) : State :=
  let s := s.setSrc { x with queued := [], resend := [], sent := [], await := [], frozen := none }
  let tell := !x.sent.isEmpty || (match x.frozen with | some z => !(z.isLocal && z.code == 1) | none => false)
  if tell then s.sendControl x.id.slot x.id.dvch 0x11 1 0 x.id.stream x.nextSeq [] else s

/-- A stream to the vchip freezes with code 7 and is abandoned (R40, R63). -/
def State.cutDestination (s : State) (d : DstStream) : State :=
  match d.last with
  | none => s
  | some p =>
    let s := s.setDst { d with held := [], job := none, frozen := some ⟨7, d.expected, true, false⟩ }
    (s.sendFreeze p 7 d.expected).sendResume p true d.expected

def State.cutStreams (s : State) (v : Nat) : State :=
  let s := (s.fabric.src.filter fun x => x.id.slot == v).foldl State.cutSource s
  let s := (s.fabric.dst.filter fun d => d.id.slot == v).foldl State.cutDestination s
  let s := s.modFabric fun f => { f with sound := f.sound.filter fun e => e.1.sslot != v }
  let other (t : TokenOf) : Bool :=
    match t with
    | .master w | .tdi w => w != v
    | .dst id => id.slot != v
    | .src id => id.slot != v
  { s with evq := { s.evq with tokens := s.evq.tokens.filter fun e => other e.2 } }

/-! ### Steps 4 to 6 -/

/-- The vchip keeps its cores through the reset: dedicated, with no command, SCHED write or entry to M2 that takes it off them. -/
def State.staysIn (s : State) (v : Nat) : Bool :=
  let x := s.slot v
  x.sch.now.dedic && x.sched.switchedIn && !x.sch.heldOut && x.sch.next.isNone && s.power.target != some 2

/-- The receive log begins anew in a state (R63). -/
def State.clearLog (s : State) (v : Nat) (st : LogSt) : State :=
  let s := match s.logBase? v with
    | none => s
    | some cb => s.hbmWrite Owner.hv (cb + 16) (List.replicate 32 0)
  (s.modSlot v fun x => { x with log := { x.log with arrival := 0, job := none } }).setLogSt v st

/-- The receive log is discarded (R63). -/
def State.discardLog (s : State) (v : Nat) : State := s.clearLog v (if s.staysIn v then .running else .logging)

/-- What the slot holds for its vchip beside the registers that the hypervisor owns. -/
def Slot.wiped (x : Slot) : Slot :=
  { x with
    frozen := none
    win := Window.reset
    sched := { x.sched with
      queues := [], ranges := [], hints := [], planned := false, lastOf := [], droppedReserves := [], doneReserves := [], heldWrites := []
      refusedReserves := x.sched.refusedReserves ++ x.sched.queues.filterMap fun l =>
        match l.pod with
        | some p => if l.isReserve && !p.committed then some (p.coordinator, l.lid) else none
        | none => none }
    tlb := []
    ctab := ctabReset
    ctabLoads := []
    bindings := []
    keyDraws := x.keyDraws + 1 }

/-- The cores lose the vchip's data; unless it stays in, it leaves them. -/
def State.leaveCores (s : State) (v : Nat) : State :=
  if !(s.slot v).sched.switchedIn then s else if s.staysIn v then s.clearCores v else s.switchOut v

/-- Lines of the vchip with an uncorrectable error that are not retired yet (R82). -/
def State.badLines (s : State) (gen : BitVec 8) : List Nat :=
  sortNat (s.hbm.bad.dedup.filter fun l => s.hbm.tagOf l == gen && !s.hbm.retired.contains l)

/-- An entry of a receipt: a retired page, or a line (R82). -/
inductive RcptEntry where
  | page (page : Nat)
  | line (line : Nat)
deriving DecidableEq, Repr

/-- Entries for lines that have failed: whether their whole page is retired is the controller's choice (log entry 89). -/
def rcptEntries (lines : List Nat) : List RcptEntry :=
  (lines.map (· / 64)).dedup.flatMap fun p =>
    let ls := lines.filter fun l => l / 64 == p
    if Config.retiresPage p ls then [.page p] else ls.map .line

def RcptEntry.word : RcptEntry → Word
  | .page p => wordOf (place p 12)
  | .line l => wordOf (2 ^ 63 + place l 6)

/-- The lines that an entry retires. -/
def RcptEntry.retires : RcptEntry → List Nat
  | .page p => (upTo 64).map (64 * p + ·)
  | .line l => [l]

/-- The receipt (R82). -/
def receipt (c : Vchip) (slot old new time drain killed : Nat) (found : List RcptEntry) : List Byte :=
  let n := Nat.min found.length 856
  let head := [wordOf (place c.guest 48 + place c.vch 38 + place slot 32 + place old 24 + place new 16 + bitOf (decide (856 < found.length)) 15 + n),
    wordOf time, wordOf (place (drain % 2 ^ 32) 32 + killed % 2 ^ 32), 0, 0, 0, 0, 0]
  let entries := (found.take 856).map RcptEntry.word
  let body := wordsBytes (head ++ entries ++ List.replicate (856 - n) 0)
  body ++ (upTo 1280).map (Config.signature body)

/-- The slot of a destroyed vchip is free; registers that the hypervisor programs in its per-slot block stay, and so does the slot's key
table, which only a rewrite changes (R44, R54). -/
def State.freeSlot (s : State) (v : Nat) : State :=
  let group := (s.slot v).sch.now.group
  let s := s.retireGen v
  let s := s.modSlot v fun x => { Slot.reset with
    blk := x.blk, keyDraws := x.keyDraws, ktable := x.ktable, sch := { SchedRegs.reset with saveBase := x.sch.saveBase, saveSize := x.sch.saveSize } }
  let s := s.modFabric fun f => { f with
    src := f.src.filter fun x => x.id.slot != v
    dst := f.dst.filter fun d => d.id.slot != v }
  { s with host := { s.host with vchBusy := false, vchResult := 0 } }.groupNext group

/-- Steps 3 to 6, and the receipt. The records in the save area are marked invalid under the new key (R81, R107). -/
def State.finishReset (s : State) (v : Nat) (c : Vchip) (destroy : Bool) (since : Nat) (tmo : Bool) : State :=
  let killed := s.outstanding v
  let old := (s.slot v).gen
  let drain := s.runUs - since
  let found := rcptEntries (s.badLines old)
  let saved := s.work.gangs.filter fun (e : Nat × Gang) => e.2.slot == v
  let s := if (s.slot v).sched.planned then s.sendHints v 2 0 0 else s
  let s := (((s.leavePods v).killGangs v).dropEngines v).cutStreams v
  let s := (s.discardLog v).modSlot v Slot.wiped
  let s := s.retireGen v
  let (g, s) := s.takeGen v
  let s := saved.foldl (fun s e => s.voidRecord e.2) (s.setGen v (g.getD 0))
  let s := s.leaveCores v
  let s := { s with hbm := { s.hbm with retired := s.hbm.retired ++ found.flatMap RcptEntry.retires } }
  let bytes := receipt c v old.toNat (g.getD 0) s.now drain killed found
  let s := match (s.slot v).blk.rbuf with
    | some a => s.hostWrite a.toNat bytes
    | none => { s with host := { s.host with receipt := bytes } }
  let s := s.modBlk v fun b => { b with flr := .idle, flrTmo := tmo, flrRcpt := true, s2Busy := false }
  if destroy then s.freeSlot v else s.offerCores v

/-- FLR_DRAIN_DONE: nothing of the vchip is outstanding. -/
def execFlrDrainDone (slot : Nat) (s : State) : Host.Outcome State Fault Refusal :=
  match (s.slot slot).blk.flr, s.vchip? slot with
  | .draining d since, some c =>
    if s.power.thalt || s.outstanding slot ≠ 0 then .next s else .next (s.finishReset slot c d since false)
  | _, _ => .next s

/-- FLR_DRAIN_TIMEOUT: 2 ms without the end of the drain. -/
def execFlrDrainTimeout (slot : Nat) (s : State) : Host.Outcome State Fault Refusal :=
  match (s.slot slot).blk.flr, s.vchip? slot with
  | .draining d since, some c =>
    if s.power.thalt || s.outstanding slot = 0 || s.runUs < since + 2000 then .next s else .next (s.finishReset slot c d since true)
  | _, _ => .next s

/-! ### VCHCMD (R88) -/

/-- A descriptor. -/
structure VchDesc where
  guest : Nat
  vch : Nat
  slot : Nat
  dedic : Bool
  group : Nat
  op : Nat
  clusters : List Nat
  reserved : Bool
deriving DecidableEq, Repr

def VchDesc.ofWords (ws : List Word) : VchDesc :=
  let w0 := recWord ws 0
  ⟨fld w0 48 16, fld w0 38 10, fld w0 32 6, fld w0 9 1 == 1, fld w0 3 6, fld w0 0 2,
    (upTo 256).filter fun c => (recWord ws (1 + c / 64)).getLsbD (c % 64),
    fld w0 10 22 != 0 || fld w0 2 1 != 0 || (upTo 3).any fun i => recWord ws (5 + i) != 0⟩

def State.readDesc (s : State) (v : Word) : VchDesc := VchDesc.ofWords (bytesWords (s.hostRead (place (fld v 6 58) 6) 64))

/-- The guest already has a vchip of this number on the module. -/
def State.vchTaken (s : State) (guest vch : Nat) : Bool := s.vchips.any fun e => e.2.guest == guest && e.2.vch == vch

/-- The first check of a create that fails (log entry 62 gives their order); 0 when none does. -/
def State.createCheck (s : State) (d : VchDesc) : Nat :=
  if s.power.start != .operational || s.power.cur == 3 || s.power.target == some 3 then 5
  else if d.op ≠ 1 || d.reserved then 1
  else if (s.vchip? d.slot).isSome then 2
  else if (s.guest? d.guest).isNone then 6
  else if s.podSize d.guest ≤ d.vch || d.clusters.isEmpty || s.vchTaken d.guest d.vch then 1
  else if s.clusterConflict d.slot d.clusters d.dedic d.group then 3
  else if s.gens.available.isEmpty then 4
  else 0

/-- A new vchip in its slot, its log not yet valid as a rule. Its key index is slot + 1: the spec says that the controller assigns one, not
which (log entry 83). -/
def State.create (s : State) (d : VchDesc) : State :=
  let (g, s) := s.takeGen d.slot
  let s := s.modSlot d.slot fun x => { x with
    vchip := some ⟨d.guest, d.vch, d.clusters, d.slot + 1⟩
    tdi := some .unlocked
    gen := BitVec.ofNat 8 (g.getD 0)
    keyDraws := x.keyDraws + 1
    win := Window.reset
    sch := { SchedRegs.reset with now := ⟨2000, 0, d.group, d.dedic⟩, saveBase := x.sch.saveBase, saveSize := x.sch.saveSize }
    sched := { Sched.reset with switchedIn := d.dedic, inAt := s.now }
    log := ⟨if d.dedic then .running else .logging, 0, 0, false, false, none⟩ }
  let s := if d.dedic then s.clearCores d.slot else s
  (s.clearLog d.slot (if d.dedic then .running else .logging)).reportInvalidLog d.slot

def State.vchResult (s : State) (r : Nat) : State := { s with host := { s.host with vchResult := r } }

/-- VCHIP_CREATE: a VCHCMD write whose descriptor does not ask for a destroy. -/
def execVchipCreate (v : Word) (s : State) : Host.Outcome State Fault Refusal :=
  let d := s.readDesc v
  if !s.answers || d.op = 2 then .next s
  else if s.host.vchBusy then .next (s.vchResult 7)
  else
    let r := s.createCheck d
    if r ≠ 0 then .next (s.vchResult r) else .next ((s.create d).vchResult 0)

/-- VCHIP_DESTROY: a function-level reset comes first; a reset that runs already goes on as the destroy's. -/
def execVchipDestroy (v : Word) (s : State) : Host.Outcome State Fault Refusal :=
  let d := s.readDesc v
  if !s.answers || d.op ≠ 2 then .next s
  else if s.host.vchBusy then .next (s.vchResult 7)
  else if s.power.start != .operational || s.power.cur == 3 then .next (s.vchResult 5)
  else if d.reserved then .next (s.vchResult 1)
  else if (s.vchip? d.slot).isNone then .next (s.vchResult 2)
  else
    let s := { s with host := { s.host with vchBusy := true } }
    match (s.slot d.slot).blk.flr with
    | .idle => .next (s.startReset d.slot true)
    | .draining _ t => .next (s.modBlk d.slot fun b => { b with flr := .draining true t })
    | .waitPause _ => .next (s.modBlk d.slot fun b => { b with flr := .waitPause true })

end Sys2Proof.Machine
end

