-- ==== Sys2Proof/Machine/Power.lean ====
section
/-! DEFINITION. Start-up, power states and thermal events (R12 to R25). -/

namespace Sys2Proof.Machine

/-! ### Start-up (R21) -/

/-- POWER_UP: self-test, or MINIMAL after three failed starts. -/
def execPowerUp (s : State) : Host.Outcome State Fault Refusal :=
  if s.power.start != .off then .next s
  else
    .next (s.modPower fun p => { p with
      start := if p.fails < 3 then .bist else .minimal
      cur := 3, busy := false, target := none, mcmdBusy := false })

/-- Every core's cycle count is 0 (R15, R133). -/
def State.zeroCycles (s : State) : State := s.modDies fun d => { d with cyc := [], ticks := 0 }

/-- BIST_PASS: OPERATIONAL in M2, or in the state that was requested from M3; after a restart from SAFE in M2, which the spec leaves open
(R21; log entry 73). Clocks that a thermal halt has stopped run no test (R16). -/
def execBistPass (s : State) : Host.Outcome State Fault Refusal :=
  if s.power.start != .bist || s.power.thalt then .next s
  else
    .next (s.modPower fun p => { p with
      start := .operational, fails := 0, cur := p.target.getD 2, busy := false, target := none, mcmdBusy := false }).zeroCycles

/-- A failed start: the count rises, its record comes first (R21, R25). -/
def State.failStart (s : State) (record : List Word) : State :=
  s.modPower fun p => { p with
    start := if p.fails + 1 < 3 then .safe else .minimal
    fails := Nat.min (p.fails + 1) 3
    records := (record :: p.records).take 3
    cur := 3, busy := false, target := none, mcmdBusy := false }

/-- A record of 64 bytes (R25). -/
def failRecord (detail : BitVec 32) (temp unit stage code : BitVec 8) (dump : List Word) : List Word :=
  wordOf (place detail.toNat 32 + place temp.toNat 24 + place unit.toNat 16 + place stage.toNat 8 + code.toNat) ::
    (upTo 7).map fun i => dump.getD i 0

/-- BIST_FAIL. -/
def execBistFail (r : BistRecord) (s : State) : Host.Outcome State Fault Refusal :=
  if s.power.start != .bist then .next s
  else .next (s.failStart (failRecord r.detail r.temp r.unit r.stage r.code r.dump))

/-- BIST_TIMEOUT: a stage-9 record; its other fields are the implementation's. -/
def execBistTimeout (temp : BitVec 8) (dump : List Word) (s : State) : Host.Outcome State Fault Refusal :=
  if s.power.start != .bist then .next s
  else
    let (w, s) := s.fresh
    .next (s.failStart (failRecord (w.extractLsb' 32 32) temp (w.extractLsb' 8 8) 9 (w.extractLsb' 0 8 ||| 1) dump))

/-- LOSS_OF_POWER: everything but the nonvolatile count and the records is lost; the host's memory is not the module's (R12,
R21). -/
def execLossOfPower (s : State) : Host.Outcome State Fault Refusal :=
  .next { State.reset with
    power := { Power.reset with fails := s.power.fails, records := s.power.records }
    spdm := { State.reset.spdm with certs := s.spdm.certs, answers := s.spdm.answers }
    hostMem := s.hostMem, signals := s.signals, agenda := s.agenda, free := s.free }

/-! ### MCMD (R23) -/

/-- MCMD_RESTART. -/
def execMcmdRestart (s : State) : Host.Outcome State Fault Refusal := .next (if s.answers then s.mcmd 1 else s)

/-- MCMD_CLEAR_STARTS. -/
def execMcmdClearStarts (s : State) : Host.Outcome State Fault Refusal := .next (if s.answers then s.mcmd 2 else s)

/-! ### The power register (R14, R15, R17) -/

def State.powerRefuse (s : State) : State := s.modPower fun p => { p with refused := true }

/-- Leaving M3: the dies are powered up and pass through self-test. -/
def State.leaveM3 (s : State) (r : BitVec 2) : State := s.modPower fun p => { p with start := .bist, busy := true, target := some r }

/-- M2: every gang on a core is pre-empted as at a slice end, unless a dedicated vchip's save area is too small. -/
def State.enterM2 (s : State) : State :=
  if s.vchips.any fun e => (s.slot e.1).sch.now.dedic && s.saveShort e.1 then s.powerRefuse
  else
    let s := s.modPower fun p => { p with busy := true, target := some 2 }
    s.vchips.foldl (fun s e => s.beginPreempt e.1 false) s

/-- The requested state, when it is not the present one and no transition is under way. -/
def State.request (s : State) (r : BitVec 2) : State :=
  if r = s.power.cur then s
  else if s.power.cur = 3 then s.leaveM3 r
  else if r = 3 then
    if s.anyVchip then s.powerRefuse else s.modPower fun p => { p with busy := true, target := some 3 }
  else if r = 2 then s.enterM2
  else s.modPower fun p => { p with busy := true, target := some r }

/-- A write of REQ: a refusal outside OPERATIONAL and while BUSY; in a thermal halt it asks to resume, which a sensor at 90 °C
or above refuses. A halt outside OPERATIONAL ends at that write, which requests nothing there (log entry 87); one that interrupted a
transition lets it end first (log entry 88). -/
def State.writePower (s : State) (r : BitVec 2) (w : PowerReq) : State :=
  if !s.answers then s
  else
    let s := s.modPower fun p => { p with
      twarn := p.twarn && !w.clearTwarn, refused := p.refused && !w.clearRefused }
    if s.power.thalt then
      if 90 ≤ w.hottest then s.powerRefuse
      else
        let s := s.modPower fun p => { p with thalt := false }
        if s.power.start != .operational then s.powerRefuse
        else
          let s := s.modPower fun p => { p with req := r }
          if s.power.busy then s else s.request r
    else if s.power.start != .operational then s.powerRefuse
    else if s.power.busy then s.powerRefuse
    else (s.modPower fun p => { p with req := r }).request r

/-- POWER_REQ_M0. -/
def execPowerReqM0 (w : PowerReq) (s : State) : Host.Outcome State Fault Refusal := .next (s.writePower 0 w)

/-- POWER_REQ_M1. -/
def execPowerReqM1 (w : PowerReq) (s : State) : Host.Outcome State Fault Refusal := .next (s.writePower 1 w)

/-- POWER_REQ_M2. -/
def execPowerReqM2 (w : PowerReq) (s : State) : Host.Outcome State Fault Refusal := .next (s.writePower 2 w)

/-- POWER_REQ_M3. -/
def execPowerReqM3 (w : PowerReq) (s : State) : Host.Outcome State Fault Refusal := .next (s.writePower 3 w)

/-- Nothing of a vchip is on its cores, or on the way from them. -/
def State.coresEmpty (s : State) : Bool :=
  s.vchips.all fun e => !(s.slot e.1).sched.switchedIn && (s.slot e.1).blk.flr == .idle

/-- M3 loses every die's contents; the HBM is scrubbed as it comes up (R13). -/
def State.loseContents (s : State) : State :=
  { s with
    dies := State.reset.dies
    hbm := { s.hbm with bytes := [], tags := [], keys := [] } }

/-- After M0 or M1 is entered the vchips return to their cores (R104). -/
def State.returnToCores (s : State) : State := s.vchips.foldl (fun s e => s.offerCores e.1) s

/-- POWER_TRANSITION_COMPLETE: CUR takes the target and BUSY clears; a state that a resume requested meanwhile is entered next (R17). -/
def execPowerTransitionComplete (s : State) : Host.Outcome State Fault Refusal :=
  match s.power.target with
  | none => .next s
  | some r =>
    if s.power.start != .operational || s.power.thalt || (r = 2 && !s.coresEmpty) ||
        s.vchips.any fun e => (s.slot e.1).blk.flr != .idle then .next s
    else
      let s := s.modPower fun p => { p with cur := r, busy := false, target := none }
      let s := if r = 3 then s.loseContents else if r = 2 then s else s.returnToCores
      .next (if s.power.req = r then s else s.request s.power.req)

/-! ### Heat (R16) -/

/-- THERMAL_WARNING. -/
def execThermalWarning (s : State) : Host.Outcome State Fault Refusal :=
  if !s.answers then .next s else .next ((s.modPower fun p => { p with twarn := true }).signal .alert)

/-- THERMAL_HALT: clocks stop and contents are kept, in every state in which the controller runs. -/
def execThermalHalt (s : State) : Host.Outcome State Fault Refusal :=
  if !s.answers || s.power.thalt then .next s
  else .next ((s.modPower fun p => { p with thalt := true }).signal .alert)

end Sys2Proof.Machine
end

