-- ==== Sys2Proof/Machine/Rewrite.lean ====
section
/-! DEFINITION. Rewriting a guest's tables: the shadow load and its checks, the pause, the drain and the swap (R44 to R50, R54,
R55). -/

namespace Sys2Proof.Machine

def State.modRewrite (s : State) (f : Rewrite → Rewrite) : State := { s with tables := { s.tables with rewrite := f s.tables.rewrite } }

/-- TABLE_REWRITE: a write to PODRW starts the shadow load, or is refused while a rewrite runs (R54, R55). -/
def execTableRewrite (v : Word) (s : State) : Host.Outcome State Fault Refusal :=
  if !s.answers then .next s
  else if s.tables.rewrite.phase != .idle then .next (s.modRewrite fun r => { r with result := 3 })
  else .next (s.modRewrite fun r => { r with phase := .loading, daddr := place (fld v 6 58) 6, ndesc := fld v 0 4 + 1 })

/-! ### Descriptors (R54) -/

/-- A descriptor. An IMAGE that is not 64-byte aligned counts among its reserved fields: R54 asks for the alignment, and the spec does not
say what a breach does (log entry 76). -/
def RwDesc.ofWords (ws : List Word) : RwDesc :=
  let w0 := recWord ws 0
  ⟨fld w0 48 16, fld w0 44 4, fld w0 38 6, fld w0 22 16, fld w0 6 16,
    fld w0 0 6 != 0 || recWord ws 2 != 0 || recWord ws 3 != 0 || fld (recWord ws 1) 0 6 != 0, (recWord ws 1).toNat⟩

/-- Bytes of an entry (R54). -/
def entrySize (kind : Nat) : Nat := [8, 4, 136, 2, 80, 8].getD kind 8

/-- The descriptors with their images. -/
def State.readDescs (s : State) (daddr n : Nat) : List (RwDesc × List Byte) :=
  (upTo n).map fun i =>
    let d := RwDesc.ofWords (bytesWords (s.hostRead (daddr + 32 * i) 32))
    (d, s.hostRead d.image (d.count * entrySize d.kind))

/-- Entries of an image. -/
def entriesOf (d : RwDesc) (img : List Byte) : List (List Byte) := chunks (entrySize d.kind) d.count img

/-- Guest header fields (R45). -/
def hdrV (w : Word) : Bool := fld w 63 1 == 1
def hdrN (w : Word) : Nat := fld w 16 11

/-- The header that the list writes for a guest, the last one. -/
def listHeader (ds : List (RwDesc × List Byte)) (g : Nat) : Option Word :=
  ((ds.filter fun e => e.1.kind == 5 && e.1.guest == g).getLast?).map fun e => leWord (e.2.take 8)

/-- Pod size of a guest under the list. -/
def State.listSize (s : State) (ds : List (RwDesc × List Byte)) (g : Nat) : Nat :=
  match listHeader ds g with
  | some w => hdrN w
  | none => s.podSize g

/-- A vchip-map entry breaks R55: a reserved field, or LOOP against DMOD, in entries with V = 0 too. -/
def badMap (coord : Nat) (w : Word) : Bool :=
  fld w 56 5 != 0 || fld w 40 2 != 0 || fld w 0 28 != 0 || mapLoop w != (mapDmod w == coord)

/-- A route label breaks R55. -/
def badLabel (coord : Nat) (l : BitVec 32) : Bool :=
  l.toNat % 2 ^ 20 != 0 || labMode l == 3 || (labMode l == 2 && !viaOk coord (labVia l))

/-- A key-store entry with a nonzero reserved field. -/
def badKey (ws : List Word) : Bool := fld (recWord ws 0) 58 4 != 0 || fld (recWord ws 0) 16 10 != 0 || fld (recWord ws 1) 0 32 != 0

/-- Table sizes (R46 to R50). -/
def State.tableEnd (s : State) (ds : List (RwDesc × List Byte)) (d : RwDesc) : Nat :=
  match d.kind with
  | 0 => s.listSize ds d.guest
  | 1 => 4096
  | 2 => 256
  | 3 => 1024
  | 4 => 65536
  | _ => 1

/-- A descriptor or its image is invalid (R55). A key table goes to its slot whatever vchip the slot holds: the spec asks for a hosted slot
and names no check of it (log entry 77). -/
def State.badDesc (s : State) (ds : List (RwDesc × List Byte)) (e : RwDesc × List Byte) : Bool :=
  let d := e.1
  let es := entriesOf d e.2
  d.reserved || 5 < d.kind || d.count == 0 ||
    (match d.kind with
      | 0 => es.any fun b => badMap s.coordN (leWord b)
      | 1 => es.any fun b => badLabel s.coordN (BitVec.ofNat 32 (leNat b))
      | 2 => es.any fun b => fld (leWord (b.take 8)) 11 52 != 0
      | 4 => es.any fun b => badKey (bytesWords b)
      | 5 => es.any fun b =>
        let w := leWord b
        fld w 27 36 != 0 || hdrN w == 0 || 1024 < hdrN w
      | _ => false) ||
    s.tableEnd ds d < d.first + d.count

/-- The guest of a descriptor is known, or its header is in the list. -/
def State.knownGuest (s : State) (ds : List (RwDesc × List Byte)) (d : RwDesc) : Bool :=
  d.kind == 5 || (s.guest? d.guest).isSome || (listHeader ds d.guest).isSome

/-- The first failure in list order, and within a descriptor 2, an unknown guest, before 1, an invalid descriptor: the spec gives no order
(log entry 78). -/
def State.loadResult (s : State) (ds : List (RwDesc × List Byte)) : Nat :=
  match ds.find? fun e => !s.knownGuest ds e.1 || s.badDesc ds e with
  | none => 0
  | some e => if !s.knownGuest ds e.1 then 2 else 1

/-- REWRITE_SHADOW_LOAD_DONE: the images are read and checked; the rewrite fails, or the pause begins (R55). The spec speaks of one guest;
of a list that names several, PODRWS.GUEST shows the first descriptor's, and every one is paused and drained (log entry 75). -/
def execRewriteShadowLoadDone (s : State) : Host.Outcome State Fault Refusal :=
  let r := s.tables.rewrite
  if r.phase != .loading then .next s
  else
    let ds := s.readDescs r.daddr r.ndesc
    let g := ((ds.head?).map fun e => e.1.guest).getD 0
    let res := s.loadResult ds
    if res ≠ 0 then
      .next (s.modRewrite fun r => { r with phase := .idle, result := res, guest := g, drained := false, pause := 0 })
    else .next (s.modRewrite fun r => { r with phase := .paused, guest := g, shadow := ds, since := s.runUs })

/-! ### The swap -/

def setEntries {β : Type} [DecidableEq β] (m : KMap β) (dflt : β) (first : Nat) : List β → KMap β
  | [] => m
  | x :: xs => setEntries (KMap.set m dflt first x) dflt (first + 1) xs

def Key.zero : Key := ⟨0, 0, 0, 0, none, 0, 0, false⟩

def bits256 (ws : List Word) : BitVec 256 := BitVec.ofNat 256 (leNat (wordsBytes ws))

/-- A key-store entry as rewritten: EPOCH is not written, and an entry that was not valid starts afresh (log entry 53). -/
def Key.rewritten (old : Key) (ws : List Word) : Key :=
  let old := if old.v then old else Key.zero
  { old with w0 := recWord ws 0, key := bits256 ((ws.drop 2).take 4), nkey := bits256 ((ws.drop 6).take 4) }

/-- A multicast set of an image (R48). -/
def msetOf (b : List Byte) : MSet :=
  let map := b.drop 8
  ⟨fld (leWord (b.take 8)) 63 1 == 1, (upTo 1024).filter fun j => (map.getD (j / 8) 0).getLsbD (j % 8)⟩

def State.modGuest (s : State) (g : Nat) (f : Guest → Guest) : State :=
  match s.guest? g with
  | none => s
  | some x => { s with tables := { s.tables with guests := KMap.put s.tables.guests g (f x) } }

/-- One descriptor's entries replace the live ones. -/
def State.applyDesc (s : State) (e : RwDesc × List Byte) : State :=
  let d := e.1
  let es := entriesOf d e.2
  match d.kind with
  | 0 => s.modGuest d.guest fun g => { g with vmap := setEntries g.vmap 0 d.first (es.map leWord) }
  | 1 => s.modGuest d.guest fun g => { g with labels := setEntries g.labels 0 d.first (es.map fun b => BitVec.ofNat 32 (leNat b)) }
  | 2 => s.modGuest d.guest fun g => { g with msets := setEntries g.msets ⟨false, []⟩ d.first (es.map msetOf) }
  | 3 => s.modSlot d.slot fun x => { x with ktable := setEntries x.ktable 0 d.first (es.map leNat) }
  | 4 =>
    let new := es.zipIdx.map fun b => ((s.key? (d.first + b.2)).getD Key.zero).rewritten (bytesWords b.1)
    { s with tables := { s.tables with keys := setEntries s.tables.keys Key.zero d.first new } }
  | _ =>
    let w := leWord e.2
    if !hdrV w then { s with tables := { s.tables with guests := KMap.erase s.tables.guests d.guest } }
    else
      let g := (s.guest? d.guest).getD ⟨0, 0, [], [], []⟩
      let g : Guest := { g with ident := fld w 0 16, nvch := hdrN w, vmap := KMap.keepRange g.vmap 0 (hdrN w) }
      { s with tables := { s.tables with guests := KMap.put s.tables.guests d.guest g } }

/-- Headers first, so that a new guest's tables have a place; then the other entries in list order (R44, R55). -/
def State.swapTables (s : State) (ds : List (RwDesc × List Byte)) : State :=
  let s := (ds.filter fun e => e.1.kind == 5).foldl State.applyDesc s
  (ds.filter fun e => e.1.kind != 5).foldl State.applyDesc s

/-- Step c and d of the pause: the swap, and injection restarts. -/
def State.endPause (s : State) (drained : Bool) (us : Nat) : State :=
  let s := s.swapTables s.tables.rewrite.shadow
  s.modRewrite fun r => { r with phase := .idle, shadow := [], drained := drained, pause := us % 2 ^ 16, result := 0 }

/-- Every request that the guests' vchips have sent is acknowledged or frozen, and no reorder buffer holds a packet of theirs. -/
def State.guestsDrained (s : State) (gs : List Nat) : Bool :=
  s.fabric.src.all (fun x => !gs.contains x.guest || x.sent.isEmpty || x.frozen.isSome) &&
    s.fabric.dst.all fun d => !gs.contains d.guest || d.held.isEmpty

def Rewrite.guests (r : Rewrite) : List Nat := r.guest :: r.shadow.map fun e => e.1.guest

/-- REWRITE_DRAIN_DONE, after a pause of `us` microseconds, at most 50 (R55). -/
def execRewriteDrainDone (us : Nat) (s : State) : Host.Outcome State Fault Refusal :=
  let r := s.tables.rewrite
  if r.phase != .paused || !s.guestsDrained r.guests || 50 < us then .next s else .next (s.endPause true us)

/-- REWRITE_DRAIN_LIMIT: 45 us have passed without the drain; the swap and the resume follow (R55). -/
def execRewriteDrainLimit (s : State) : Host.Outcome State Fault Refusal :=
  let r := s.tables.rewrite
  if r.phase != .paused || s.runUs < r.since + 45 || s.guestsDrained r.guests then .next s
  else .next (s.endPause false (s.runUs - r.since))

end Sys2Proof.Machine
end

