-- ==== Sys2Proof/Machine/System.lean ====
section
/-! DEFINITION. System instructions and the traps that no instruction raises itself (R218, R279, R380 to R386). -/

namespace Sys2Proof.Machine

/-- TRAP: class 6 with its number (R380). -/
def execTrap (g : Guard) (n : Nat) (s : State) : Host.Outcome State Fault Refusal := s.once g 0 false fun x => x.fault 6 n

/-- BKPT: class 24 (R380). -/
def execBkpt (g : Guard) (s : State) : Host.Outcome State Fault Refusal := s.once g 0 false fun x => x.fault 24 0

/-- ILLEGAL_INSTRUCTION: class 1; a privileged word below level 2 is SUB 6 ahead of SUBs 4, 3, 2 and 7 (R216, R279). -/
def execIllegalInstruction (sub : Nat) (priv : Bool) (s : State) : Host.Outcome State Fault Refusal :=
  s.run fun x => x.fault 1 (if priv && x.w.trap.level < 2 && sub ≠ 5 && sub ≠ 1 then 6 else sub)

/-- RFT (R381). -/
def execRft (g : Guard) (skip : Bool) (s : State) : Host.Outcome State Fault Refusal :=
  s.once g 0 false fun x =>
    if x.w.trap.level = 0 then x.fault 2 5
    else if skip && x.s.codeHeld x.g x.w.returnPc then x.wait
    else .moved ((x.put (x.w.leaveMiss skip)).returnFromTrap x.c.warp x.c.path skip)

/-- HALT (R221, R383). -/
def execHalt (g : Guard) (s : State) : Host.Outcome State Fault Refusal :=
  s.once g 0 true fun x => .moved (x.s.handlerEndsGang x.w.id.gang x.c.warp)

/-! ### Context blocks -/

/-- Places of the 64-byte pieces of a context block in vault or device space, or the worst failure of any (R217). -/
def Ictx.blockPlaces (x : Ictx) (a : Word) (acc : Acc) : Nat → Word → State → LaneCheck × State
  | 0, _, s => (.ok [], s)
  | n + 1, at', s =>
    andThen (x.one s (if isVaultAddr a then .vault else .device) at' 64 acc) fun s => x.blockPlaces a acc n (at' + 64) s

/-- Some 64-byte piece of a block lies in pod space (R363). -/
def Ictx.blockInPod (x : Ictx) (a : Word) (n : Nat) : Bool :=
  (upTo n).any fun i =>
    let b := a + wordOf (64 * i)
    inPodWindow b || (!isVaultAddr a && x.s.stage1Aper x.v b == some 1)

/-- The checks of CTXS and CTXL on `bytes` bytes at `a`, then the body with the block's places (R363, R384, R385). -/
def Ictx.blockAt (x : Ictx) (a : Word) (bytes : Nat) (acc : Acc) (body : State → List Place → Res) : Res :=
  let n := (bytes + 63) / 64
  if fld a 0 6 ≠ 0 || x.blockInPod a n then x.fault 19 0x60
  else
    match x.blockPlaces a acc n a x.s with
    | (.error (at', .fault cls sub), s) => .trap s (Trap.all cls sub x.act at')
    | (.error (_, .violation gpa bits), s) => x.freeze s gpa bits
    | (.error (_, .held), _) => x.wait
    | (.ok ts, s) => if !ts.all (fun t => s.placeOpen x.v t.place) then x.wait else body s (ts.map (·.place))

/-- CTXS and CTXL wait until no handle of the warp is PENDING and every class counter is 0; what its engines have written lands, and then
the block is looked at (R384, R385). The wait goes on while its gang stops (R386). -/
def Ictx.afterDrain (x : Ictx) (body : Ictx → Res) : Res :=
  if x.w.boosted then x.fault 2 3
  else if x.w.pending || !x.w.work.ops.isEmpty then
    .moved (x.put (x.w.modPath x.c.path fun p => { p with hold := some .drain }))
  else
    let s := x.s.landWhich x.c.warp fun _ => true
    body { x with s := s, w := (s.warp? x.c.warp).getD x.w }

/-- The flags of the warp's DONE handles merge, as a read of each would merge them (R132, R384). -/
def Warp.mergeDone (w : Warp) : Warp := (upTo 16).foldl (fun w f => w.merge f (BitVec.allOnes 128)) w

/-- CTXS (R384). -/
def execCtxs (g : Guard) (d : Nat) (a : Operand) (s : State) : Host.Outcome State Fault Refusal :=
  s.once g 0 true fun x => x.afterDrain fun x =>
    let n := ctxBytes x.g.nv x.w.width
    x.blockAt (x.uni .b64 a) n Acc.write fun s ps =>
      let w := x.w.mergeDone
      let img := (x.advance (w.setS d 0)).context ⟨x.g.nv, 0, 0, false, x.w.stalled (cycSince (s.cyc x.w.id.core))⟩
      let s := (ps.zip (chunks 64 ps.length img)).foldl (fun s e => s.storeAt e.1 e.2) s
      .done (s.modWarp x.c.warp fun w => w.mergeDone.setS d (wordOf n))

/-- CTXL (R385): the fixed part says how long the block is. Nothing changes where it does not match the warp. -/
def execCtxl (g : Guard) (a : Operand) (s : State) : Host.Outcome State Fault Refusal :=
  s.once g 0 true fun x => x.afterDrain fun x =>
    let addr := x.uni .b64 a
    x.blockAt addr 0x1700 Acc.read fun s ps =>
      let fixed := ps.flatMap fun p => s.readPlace p 64
      if ctxMismatch x.w x.g.nv fixed then x.fault 19 0x61
      else
        x.blockAt addr (ctxBytes (fld (blockWord fixed 0) 23 9) x.w.width) Acc.read fun s ps =>
          let w := x.w.mergeDone.restore (ps.flatMap fun p => s.readPlace p 64)
          .moved ((s.setWarp x.c.warp { w with work := { w.work with mzTiles := [], mzPending := [] } }).settleWarp x.c.warp)

/-! ### Remote abandon (R218) -/

/-- The path that takes it: the warp's next path to issue, which the issuing core names (R127). -/
def State.pathToTrap (s : State) (wid : Nat) (w : Warp) : Option (Nat × Path) :=
  match s.cur with
  | none => none
  | some c => if c.warp = wid then (w.path? c.path).map fun p => (c.path, p) else none

/-- The abandon that a boundary takes: none at level 2. -/
def Warp.abandonDue (w : Warp) : Option Nat := if w.trap.level < 2 then w.work.abandon else none

/-- Take it on that path. -/
def State.takeAbandon (s : State) (wid : Nat) (w : Warp) (code : Nat) : State :=
  match s.pathToTrap wid w with
  | none => s
  | some (i, p) =>
    let s := s.setWarp wid { w with work := { w.work with abandon := none } }
    s.takeTrap wid i 0 0 p.pc p.sec (Trap.all 22 code (w.active i) 0)

/-- REMOTE_ABANDON_TRAP. -/
def execRemoteAbandonTrap (warp : Nat) (s : State) : Host.Outcome State Fault Refusal :=
  match s.warp? warp with
  | none => .next s
  | some w =>
    match w.abandonDue with
    | none => .next s
    | some code =>
      if s.warpResident warp && s.enginesRun (s.slotOf w) then .next (s.takeAbandon warp w code) else .next s

end Sys2Proof.Machine
end

