-- ==== Sys2Proof/Machine/Dispatch.lean ====
section
/-! DEFINITION. The meaning of every instruction: one arm per constructor. -/

namespace Sys2Proof.Machine

def exec (i : Instr) (s : State) : Host.Outcome State Fault Refusal :=
  match i with
  | .bistFail r => Sys2Proof.Machine.execBistFail r s
  | .bistTimeout temp dump => Sys2Proof.Machine.execBistTimeout temp dump s
  | .powerReqM0 w => Sys2Proof.Machine.execPowerReqM0 w s
  | .powerReqM1 w => Sys2Proof.Machine.execPowerReqM1 w s
  | .powerReqM2 w => Sys2Proof.Machine.execPowerReqM2 w s
  | .powerReqM3 w => Sys2Proof.Machine.execPowerReqM3 w s
  | .hvcmdResumeMaster token => Sys2Proof.Machine.execHvcmdResumeMaster token s
  | .hvcmdResumeStream token => Sys2Proof.Machine.execHvcmdResumeStream token s
  | .hvcmdAbandonStream token => Sys2Proof.Machine.execHvcmdAbandonStream token s
  | .modcfgWrite v => Sys2Proof.Machine.execModcfgWrite v s
  | .frameCrcError port seq => Sys2Proof.Machine.execFrameCrcError port seq s
  | .linkReplay port seq => Sys2Proof.Machine.execLinkReplay port seq s
  | .portDown port => Sys2Proof.Machine.execPortDown port s
  | .noCreditTimeout port => Sys2Proof.Machine.execNoCreditTimeout port s
  | .fabricSend sel => Sys2Proof.Machine.execFabricSend sel s
  | .sourceTimeout id => Sys2Proof.Machine.execSourceTimeout id s
  | .keyMove keyix => Sys2Proof.Machine.execKeyMove keyix s
  | .tdispStateChange slot st => Sys2Proof.Machine.execTdispStateChange slot st s
  | .networkTransferFailed post => Sys2Proof.Machine.execNetworkTransferFailed post s
  | .tableRewrite v => Sys2Proof.Machine.execTableRewrite v s
  | .rewriteDrainDone us => Sys2Proof.Machine.execRewriteDrainDone us s
  | .logReplayRecord slot => Sys2Proof.Machine.execLogReplayRecord slot s
  | .logReplayDone slot => Sys2Proof.Machine.execLogReplayDone slot s
  | .logReplayLimit slot => Sys2Proof.Machine.execLogReplayLimit slot s
  | .logSpaceResume slot => Sys2Proof.Machine.execLogSpaceResume slot s
  | .rlogbaseWrite slot v => Sys2Proof.Machine.execRlogbaseWrite slot v s
  | .launchPortWrite slot v => Sys2Proof.Machine.execLaunchPortWrite slot v s
  | .launchRecordRead slot => Sys2Proof.Machine.execLaunchRecordRead slot s
  | .flagDependencePoll slot launch dep => Sys2Proof.Machine.execFlagDependencePoll slot launch dep s
  | .gangPlace slot => Sys2Proof.Machine.execGangPlace slot s
  | .gangRetire gang => Sys2Proof.Machine.execGangRetire gang s
  | .podGangReserveTimeout slot launch => Sys2Proof.Machine.execPodGangReserveTimeout slot launch s
  | .podGangCommitResend slot launch => Sys2Proof.Machine.execPodGangCommitResend slot launch s
  | .podGangCommitTimeout slot launch => Sys2Proof.Machine.execPodGangCommitTimeout slot launch s
  | .sliceEnd slot => Sys2Proof.Machine.execSliceEnd slot s
  | .schedWrite slot v => Sys2Proof.Machine.execSchedWrite slot v s
  | .preemptGo slot v => Sys2Proof.Machine.execPreemptGo slot v s
  | .preemptResume slot => Sys2Proof.Machine.execPreemptResume slot s
  | .graceWindowEnd slot => Sys2Proof.Machine.execGraceWindowEnd slot s
  | .preemptionComplete slot => Sys2Proof.Machine.execPreemptionComplete slot s
  | .tinvnWrite slot v => Sys2Proof.Machine.execTinvnWrite slot v s
  | .s2invnWrite slot v => Sys2Proof.Machine.execS2invnWrite slot v s
  | .invalidationDrainDone slot => Sys2Proof.Machine.execInvalidationDrainDone slot s
  | .vfFlr slot => Sys2Proof.Machine.execVfFlr slot s
  | .flrcmdGo slot v => Sys2Proof.Machine.execFlrcmdGo slot v s
  | .flrDrainDone slot => Sys2Proof.Machine.execFlrDrainDone slot s
  | .flrDrainTimeout slot => Sys2Proof.Machine.execFlrDrainTimeout slot s
  | .generationAssigned slot => Sys2Proof.Machine.execGenerationAssigned slot s
  | .evqbaseWrite v => Sys2Proof.Machine.execEvqbaseWrite v s
  | .evqheadWrite v => Sys2Proof.Machine.execEvqheadWrite v s
  | .vchipCreate v => Sys2Proof.Machine.execVchipCreate v s
  | .vchipDestroy v => Sys2Proof.Machine.execVchipDestroy v s
  | .spdmChallenge mailbox cslot => Sys2Proof.Machine.execSpdmChallenge mailbox cslot s
  | .setCertificate mailbox cslot chain => Sys2Proof.Machine.execSetCertificate mailbox cslot chain s
  | .challengeBusyTimeout cslot => Sys2Proof.Machine.execChallengeBusyTimeout cslot s
  | .registerWrite reg v => Sys2Proof.Machine.execRegisterWrite reg v s
  | .loadComplete warp op lane => Sys2Proof.Machine.execLoadComplete warp op lane s
  | .storePerformed warp op lane => Sys2Proof.Machine.execStorePerformed warp op lane s
  | .atomicPerformed warp op lane => Sys2Proof.Machine.execAtomicPerformed warp op lane s
  | .fadddArrive warp op lane => Sys2Proof.Machine.execFadddArrive warp op lane s
  | .barrierArrivalApply warp op lane => Sys2Proof.Machine.execBarrierArrivalApply warp op lane s
  | .copyStart copy => Sys2Proof.Machine.execCopyStart copy s
  | .copyBeat copy ahead => Sys2Proof.Machine.execCopyBeat copy ahead s
  | .copyFault copy err => Sys2Proof.Machine.execCopyFault copy err s
  | .faceCopyStart publish face => Sys2Proof.Machine.execFaceCopyStart publish face s
  | .staleHaloTimeout warp => Sys2Proof.Machine.execStaleHaloTimeout warp s
  | .matrixOpComplete core => Sys2Proof.Machine.execMatrixOpComplete core s
  | .mvnComplete op => Sys2Proof.Machine.execMvnComplete op s
  | .npostComplete post => Sys2Proof.Machine.execNpostComplete post s
  | .fuseTimeout warp => Sys2Proof.Machine.execFuseTimeout warp s
  | .remoteAbandonTrap warp => Sys2Proof.Machine.execRemoteAbandonTrap warp s
  | .boostAbortTaken warp => Sys2Proof.Machine.execBoostAbortTaken warp s
  | .boostDrainADone warp => Sys2Proof.Machine.execBoostDrainADone warp s
  | .boostCommitDone warp => Sys2Proof.Machine.execBoostCommitDone warp s
  | .bctlTableReplaced slot => Sys2Proof.Machine.execBctlTableReplaced slot s
  | .illegalInstruction sub priv => Sys2Proof.Machine.execIllegalInstruction sub priv s
  | .nop g => Sys2Proof.Machine.execNop g s
  | .sadd g t d a b => Sys2Proof.Machine.execSadd g t d a b s
  | .ssub g t d a b => Sys2Proof.Machine.execSsub g t d a b s
  | .smul g t d a b => Sys2Proof.Machine.execSmul g t d a b s
  | .smulh g t d a b => Sys2Proof.Machine.execSmulh g t d a b s
  | .sdiv g t d a b => Sys2Proof.Machine.execSdiv g t d a b s
  | .srem g t d a b => Sys2Proof.Machine.execSrem g t d a b s
  | .sand g t d a b => Sys2Proof.Machine.execSand g t d a b s
  | .sor g t d a b => Sys2Proof.Machine.execSor g t d a b s
  | .sxor g t d a b => Sys2Proof.Machine.execSxor g t d a b s
  | .sshl g t d a b => Sys2Proof.Machine.execSshl g t d a b s
  | .sshr g t d a b => Sys2Proof.Machine.execSshr g t d a b s
  | .ssra g t d a b => Sys2Proof.Machine.execSsra g t d a b s
  | .smin g t d a b => Sys2Proof.Machine.execSmin g t d a b s
  | .smax g t d a b => Sys2Proof.Machine.execSmax g t d a b s
  | .scmp g t c d a b => Sys2Proof.Machine.execScmp g t c d a b s
  | .ssel g t d a b c => Sys2Proof.Machine.execSsel g t d a b c s
  | .sbfx g t d a b => Sys2Proof.Machine.execSbfx g t d a b s
  | .sbfi g t d a b => Sys2Proof.Machine.execSbfi g t d a b s
  | .spopc g t d a => Sys2Proof.Machine.execSpopc g t d a s
  | .sclz g t d a => Sys2Proof.Machine.execSclz g t d a s
  | .smov g t d a => Sys2Proof.Machine.execSmov g t d a s
  | .sli g d value => Sys2Proof.Machine.execSli g d value s
  | .sld g m d a b => Sys2Proof.Machine.execSld g m d a b s
  | .sst g m d a b => Sys2Proof.Machine.execSst g m d a b s
  | .pand g d a b => Sys2Proof.Machine.execPand g d a b s
  | .por g d a b => Sys2Proof.Machine.execPor g d a b s
  | .pxor g d a b => Sys2Proof.Machine.execPxor g d a b s
  | .pnot g d a => Sys2Proof.Machine.execPnot g d a s
  | .pany g d a => Sys2Proof.Machine.execPany g d a s
  | .pall g d a => Sys2Proof.Machine.execPall g d a s
  | .pcnt g d a => Sys2Proof.Machine.execPcnt g d a s
  | .srd g d r => Sys2Proof.Machine.execSrd g d r s
  | .swr g r a => Sys2Proof.Machine.execSwr g r a s
  | .bra g td => Sys2Proof.Machine.execBra g td s
  | .bru g bp bs td => Sys2Proof.Machine.execBru g bp bs td s
  | .brc g bp bs td jd => Sys2Proof.Machine.execBrc g bp bs td jd s
  | .brx g k td => Sys2Proof.Machine.execBrx g k td s
  | .join g => Sys2Proof.Machine.execJoin g s
  | .call g d td => Sys2Proof.Machine.execCall g d td s
  | .calli g d a => Sys2Proof.Machine.execCalli g d a s
  | .ret g a => Sys2Proof.Machine.execRet g a s
  | .exit g => Sys2Proof.Machine.execExit g s
  | .wait g ld st cp tl => Sys2Proof.Machine.execWait g ld st cp tl s
  | .tstf g d f => Sys2Proof.Machine.execTstf g d f s
  | .canf g d f => Sys2Proof.Machine.execCanf g d f s
  | .yield g n zfirst zcount start len => Sys2Proof.Machine.execYield g n zfirst zcount start len s
  | .rget g d b => Sys2Proof.Machine.execRget g d b s
  | .launch g d a b => Sys2Proof.Machine.execLaunch g d a b s
  | .vadd g t sat d a b => Sys2Proof.Machine.execVadd g t sat d a b s
  | .vsub g t sat d a b => Sys2Proof.Machine.execVsub g t sat d a b s
  | .vmul g t sat d a b => Sys2Proof.Machine.execVmul g t sat d a b s
  | .vfma g t d a b c => Sys2Proof.Machine.execVfma g t d a b c s
  | .vmin g t d a b => Sys2Proof.Machine.execVmin g t d a b s
  | .vmax g t d a b => Sys2Proof.Machine.execVmax g t d a b s
  | .vabs g t sat d a => Sys2Proof.Machine.execVabs g t sat d a s
  | .vneg g t sat d a => Sys2Proof.Machine.execVneg g t sat d a s
  | .vcmp g t c any p a b => Sys2Proof.Machine.execVcmp g t c any p a b s
  | .vsel g t d a b p => Sys2Proof.Machine.execVsel g t d a b p s
  | .vand g t d a b => Sys2Proof.Machine.execVand g t d a b s
  | .vor g t d a b => Sys2Proof.Machine.execVor g t d a b s
  | .vxor g t d a b => Sys2Proof.Machine.execVxor g t d a b s
  | .vnot g t d a => Sys2Proof.Machine.execVnot g t d a s
  | .vshl g t d a b => Sys2Proof.Machine.execVshl g t d a b s
  | .vshr g t d a b => Sys2Proof.Machine.execVshr g t d a b s
  | .vsra g t d a b => Sys2Proof.Machine.execVsra g t d a b s
  | .vcvt g t st sat rm d a => Sys2Proof.Machine.execVcvt g t st sat rm d a s
  | .vrnd g t rm d a => Sys2Proof.Machine.execVrnd g t rm d a s
  | .vrcp g t d a => Sys2Proof.Machine.execVrcp g t d a s
  | .vrsq g t d a => Sys2Proof.Machine.execVrsq g t d a s
  | .vsqrt g t d a => Sys2Proof.Machine.execVsqrt g t d a s
  | .vdiv g t d a b => Sys2Proof.Machine.execVdiv g t d a b s
  | .vexp2 g t d a => Sys2Proof.Machine.execVexp2 g t d a s
  | .vlog2 g t d a => Sys2Proof.Machine.execVlog2 g t d a s
  | .vsin g t d a => Sys2Proof.Machine.execVsin g t d a s
  | .vcos g t d a => Sys2Proof.Machine.execVcos g t d a s
  | .vtanh g t d a => Sys2Proof.Machine.execVtanh g t d a s
  | .vpack g t st sat d a b => Sys2Proof.Machine.execVpack g t st sat d a b s
  | .vunpk g t st d a b => Sys2Proof.Machine.execVunpk g t st d a b s
  | .vperms g t d a b => Sys2Proof.Machine.execVperms g t d a b s
  | .vmov g t d a => Sys2Proof.Machine.execVmov g t d a s
  | .vmulh g t d a b => Sys2Proof.Machine.execVmulh g t d a b s
  | .vpopc g t d a => Sys2Proof.Machine.execVpopc g t d a s
  | .vclz g t d a => Sys2Proof.Machine.execVclz g t d a s
  | .vbfx g t d a b => Sys2Proof.Machine.execVbfx g t d a b s
  | .vbfi g t d a b => Sys2Proof.Machine.execVbfi g t d a b s
  | .shfl g t grp d a b => Sys2Proof.Machine.execShfl g t grp d a b s
  | .shflx g t grp d a b => Sys2Proof.Machine.execShflx g t grp d a b s
  | .shflup g t grp d a b => Sys2Proof.Machine.execShflup g t grp d a b s
  | .shfldn g t grp d a b => Sys2Proof.Machine.execShfldn g t grp d a b s
  | .vred g t rop grp d a => Sys2Proof.Machine.execVred g t rop grp d a s
  | .vscan g t rop grp exc d a => Sys2Proof.Machine.execVscan g t rop grp exc d a s
  | .bcst g t grp d a b => Sys2Proof.Machine.execBcst g t grp d a b s
  | .vballot g grp d p => Sys2Proof.Machine.execVballot g grp d p s
  | .split g d factor => Sys2Proof.Machine.execSplit g d factor s
  | .fuse g d factor tag lim => Sys2Proof.Machine.execFuse g d factor tag lim s
  | .ld g m d a b => Sys2Proof.Machine.execLd g m d a b s
  | .st g m d a b => Sys2Proof.Machine.execSt g m d a b s
  | .ldv g m d a b => Sys2Proof.Machine.execLdv g m d a b s
  | .stv g m d a b => Sys2Proof.Machine.execStv g m d a b s
  | .lda g m d a b => Sys2Proof.Machine.execLda g m d a b s
  | .stl g m d a b => Sys2Proof.Machine.execStl g m d a b s
  | .atom g t aop ord scope d a b c => Sys2Proof.Machine.execAtom g t aop ord scope d a b c s
  | .faddd g t scope d a b c => Sys2Proof.Machine.execFaddd g t scope d a b c s
  | .fdset g t scope d a b c => Sys2Proof.Machine.execFdset g t scope d a b c s
  | .fence g scope => Sys2Proof.Machine.execFence g scope s
  | .fenceX g => Sys2Proof.Machine.execFenceX g s
  | .bari g a b => Sys2Proof.Machine.execBari g a b s
  | .bara g a b => Sys2Proof.Machine.execBara g a b s
  | .barw g esc d a b => Sys2Proof.Machine.execBarw g esc d a b s
  | .rcas4 g scope words d a b c => Sys2Proof.Machine.execRcas4 g scope words d a b c s
  | .renq g scope d a b => Sys2Proof.Machine.execRenq g scope d a b s
  | .rchase g scope hops d a b => Sys2Proof.Machine.execRchase g scope hops d a b s
  | .copy g ext d a b c bar => Sys2Proof.Machine.execCopy g ext d a b c bar s
  | .copys g d a b c bar e1 e2 e3 => Sys2Proof.Machine.execCopys g d a b c bar e1 e2 e3 s
  | .copyx g wide d a b c bar e1 => Sys2Proof.Machine.execCopyx g wide d a b c bar e1 s
  | .psend g mc d a b c => Sys2Proof.Machine.execPsend g mc d a b c s
  | .precv g d a b => Sys2Proof.Machine.execPrecv g d a b s
  | .npostWrite g d a b c e0 e1 => Sys2Proof.Machine.execNpostWrite g d a b c e0 e1 s
  | .npostRead g d a b c e0 e1 => Sys2Proof.Machine.execNpostRead g d a b c e0 e1 s
  | .npostSend g d a b c e0 e1 => Sys2Proof.Machine.execNpostSend g d a b c e0 e1 s
  | .mopf g => Sys2Proof.Machine.execMopf g s
  | .mma g av bt d zt b c fb geo => Sys2Proof.Machine.execMma g av bt d zt b c fb geo s
  | .mmaz g av bt d zt b c fb geo => Sys2Proof.Machine.execMmaz g av bt d zt b c fb geo s
  | .mmab g av bt z walk d zt b c fb geo bstr tab => Sys2Proof.Machine.execMmab g av bt z walk d zt b c fb geo bstr tab s
  | .mdsq g av bt z d zt b c fb geo => Sys2Proof.Machine.execMdsq g av bt z d zt b c fb geo s
  | .mtopk g t max k d zt b c => Sys2Proof.Machine.execMtopk g t max k d zt b c s
  | .mzmv g t into d zt => Sys2Proof.Machine.execMzmv g t into d zt s
  | .mzld g t d zt b c => Sys2Proof.Machine.execMzld g t d zt b c s
  | .mzst g t d zt b c => Sys2Proof.Machine.execMzst g t d zt b c s
  | .mzclr g d zt b => Sys2Proof.Machine.execMzclr g d zt b s
  | .mvn g acc d a b c fb geo pitch => Sys2Proof.Machine.execMvn g acc d a b c fb geo pitch s
  | .gbind g slot a => Sys2Proof.Machine.execGbind g slot a s
  | .ldg g t d slot b c => Sys2Proof.Machine.execLdg g t d slot b c s
  | .stg g t d slot b => Sys2Proof.Machine.execStg g t d slot b s
  | .hpub g d slot b => Sys2Proof.Machine.execHpub g d slot b s
  | .hwait g slot b => Sys2Proof.Machine.execHwait g slot b s
  | .bbegin g d a b vb disp => Sys2Proof.Machine.execBbegin g d a b vb disp s
  | .bop g kind a b c disp => Sys2Proof.Machine.execBop g kind a b c disp s
  | .bret g => Sys2Proof.Machine.execBret g s
  | .bcommit g => Sys2Proof.Machine.execBcommit g s
  | .babort g u => Sys2Proof.Machine.execBabort g u s
  | .bstat g d a => Sys2Proof.Machine.execBstat g d a s
  | .bctlLoad g a => Sys2Proof.Machine.execBctlLoad g a s
  | .bctlVerdict g a => Sys2Proof.Machine.execBctlVerdict g a s
  | .trap g n => Sys2Proof.Machine.execTrap g n s
  | .rft g skip => Sys2Proof.Machine.execRft g skip s
  | .tlbi g a b => Sys2Proof.Machine.execTlbi g a b s
  | .halt g => Sys2Proof.Machine.execHalt g s
  | .bkpt g => Sys2Proof.Machine.execBkpt g s
  | .ctxs g d a => Sys2Proof.Machine.execCtxs g d a s
  | .ctxl g a => Sys2Proof.Machine.execCtxl g a s
  | .packetHop port p => Sys2Proof.Machine.execPacketHop port p s
  | .ethernetPacketReceive m => Sys2Proof.Machine.execEthernetPacketReceive m s
  | .controlBlockWrite slot w0 w1 => Sys2Proof.Machine.execControlBlockWrite slot w0 w1 s
  | .powerUp => Sys2Proof.Machine.execPowerUp s
  | .bistPass => Sys2Proof.Machine.execBistPass s
  | .lossOfPower => Sys2Proof.Machine.execLossOfPower s
  | .mcmdRestart => Sys2Proof.Machine.execMcmdRestart s
  | .mcmdClearStarts => Sys2Proof.Machine.execMcmdClearStarts s
  | .powerTransitionComplete => Sys2Proof.Machine.execPowerTransitionComplete s
  | .thermalWarning => Sys2Proof.Machine.execThermalWarning s
  | .thermalHalt => Sys2Proof.Machine.execThermalHalt s
  | .write => Sys2Proof.Machine.execWrite s
  | .read => Sys2Proof.Machine.execRead s
  | .readrsp => Sys2Proof.Machine.execReadrsp s
  | .agentAdd => Sys2Proof.Machine.execAgentAdd s
  | .agentLogic => Sys2Proof.Machine.execAgentLogic s
  | .agentExchange => Sys2Proof.Machine.execAgentExchange s
  | .agentCompareAndSwap => Sys2Proof.Machine.execAgentCompareAndSwap s
  | .agentDeterministicAdd => Sys2Proof.Machine.execAgentDeterministicAdd s
  | .agentSlotSetup => Sys2Proof.Machine.execAgentSlotSetup s
  | .agentMultiwordCas => Sys2Proof.Machine.execAgentMultiwordCas s
  | .agentListEnqueue => Sys2Proof.Machine.execAgentListEnqueue s
  | .agentPointerChase => Sys2Proof.Machine.execAgentPointerChase s
  | .agentrsp => Sys2Proof.Machine.execAgentrsp s
  | .send => Sys2Proof.Machine.execSend s
  | .haloData => Sys2Proof.Machine.execHaloData s
  | .haloAnnounce => Sys2Proof.Machine.execHaloAnnounce s
  | .haloCredit => Sys2Proof.Machine.execHaloCredit s
  | .ack => Sys2Proof.Machine.execAck s
  | .freeze => Sys2Proof.Machine.execFreeze s
  | .resume => Sys2Proof.Machine.execResume s
  | .resumeAbandon => Sys2Proof.Machine.execResumeAbandon s
  | .abandonConfirm => Sys2Proof.Machine.execAbandonConfirm s
  | .hintNextWindow => Sys2Proof.Machine.execHintNextWindow s
  | .hintDescheduled => Sys2Proof.Machine.execHintDescheduled s
  | .hintCancel => Sys2Proof.Machine.execHintCancel s
  | .gangReserve => Sys2Proof.Machine.execGangReserve s
  | .gangAck => Sys2Proof.Machine.execGangAck s
  | .gangCommit => Sys2Proof.Machine.execGangCommit s
  | .gangRelease => Sys2Proof.Machine.execGangRelease s
  | .rewriteShadowLoadDone => Sys2Proof.Machine.execRewriteShadowLoadDone s
  | .rewriteDrainLimit => Sys2Proof.Machine.execRewriteDrainLimit s
  | .scrubberPassEnd => Sys2Proof.Machine.execScrubberPassEnd s
  | .headerError => Sys2Proof.Machine.execHeaderError s

end Sys2Proof.Machine
end

