-- ==== Sys2Proof/Machine/Pair.lean ====
section
/-! DEFINITION. Pairing (R130, R277): which two words issue as one unit. -/

namespace Sys2Proof.Machine

/-- Instruction classes (R275). -/
inductive PairClass where
  | s | v | x | m | a | c
deriving DecidableEq, Repr

/-- The class of a word (R275). -/
def pairClass (r : Raw) : PairClass :=
  let m := r.major.toNat
  if m = 0x05 then (if r.fn 3 6 ≤ 3 then .v else .s)
  else if m ≤ 0x02 || m = 0x17 || m = 0x18 || m = 0xCD then .s
  else if 0x20 ≤ m && m < 0x60 then .v
  else if 0x60 ≤ m && m < 0x68 then .x
  else if m = 0x03 || m = 0x04 || (0x70 ≤ m && m < 0x80 && m ≠ 0x79 && m ≠ 0x7C) || m = 0xC1 || m = 0xC2 then .m
  else if m = 0x15 || m = 0x16 || (0xA0 ≤ m && m ≤ 0xBA && m ≠ 0xA5 && m ≠ 0xB0) || m = 0xC3 then .a
  else .c

/-- Classes that pair, in either order (R277 rule 2). -/
def PairClass.pairs (k l : PairClass) : Bool :=
  match k, l with
  | .s, .v | .v, .s | .s, .m | .m, .s | .s, .a | .a, .s | .v, .v | .v, .m | .m, .v | .v, .a | .a, .v | .m, .a | .a, .m => true
  | _, _ => false

/-- Registers by number: operand codes, and 512 + p for predicates; p7 and constants are none. -/
def predReg (p : Nat) : List Nat := if p = 7 then [] else [512 + p]

def isReg (c : Nat) : Bool := c < 384 || 448 ≤ c

def Kind.run : Kind → Nat
  | .v n | .s n | .vs n => n
  | _ => 1

/-- The registers that a field names. -/
def fieldRegs (pred : Bool) (k : Kind) (c : BitVec 9) : List Nat :=
  if k.isCode then (if isReg c.toNat then (upTo (Kind.run k)).map fun i => c.toNat + i else [])
  else match k with
    | .lit _ => if pred then predReg c.toNat else []
    | _ => []

/-- D is a source and no destination: stores, and `MZMV` into a tile. -/
def dIsSource (r : Raw) : Bool :=
  let m := r.major.toNat
  m = 0x04 || m = 0x71 || m = 0x73 || m = 0x75 || m = 0xC2 || (m = 0xB6 && r.fn 0 1 = 1)

/-- D is a source and a destination: `SBFI` and `VBFI`. -/
def dIsBoth (r : Raw) : Bool := (r.major.toNat = 0x01 && r.fn 3 6 = 17) || r.major.toNat = 0x44

/-- D, A or B, or C, holds a predicate (R274, R275). -/
def dIsPred (r : Raw) : Bool := r.major.toNat = 0x05 || r.major.toNat = 0x28
def abIsPred (r : Raw) : Bool := r.major.toNat = 0x05
def cIsPred (r : Raw) : Bool := r.major.toNat = 0x29

/-- Registers that a single word reads: its guard and every field it reads (R277 rule 6). -/
def pairReads (r : Raw) (row : Row) : List Nat :=
  predReg r.gp.toNat ++
  (if dIsSource r || dIsBoth r then fieldRegs (dIsPred r) row.d r.d else []) ++
  fieldRegs (abIsPred r) row.a r.a ++ fieldRegs (abIsPred r) row.b r.b ++ fieldRegs (cIsPred r) row.c r.c

/-- Registers that a single word writes. -/
def pairWrites (r : Raw) (row : Row) : List Nat := if dIsSource r then [] else fieldRegs (dIsPred r) row.d r.d

/-- Rule 3: distinct vector sources lie in distinct banks. -/
def banksOk (reads : List Nat) : Bool :=
  let vs := (reads.filter fun n => n < 320).eraseDups
  vs.all fun a => vs.all fun b => a == b || a % 4 != b % 4

/-- Rule 4: at most two scalar registers and one special register. -/
def portsOk (reads : List Nat) : Bool :=
  (reads.filter fun n => 320 ≤ n && n < 384).eraseDups.length ≤ 2 &&
  (reads.filter fun n => 448 ≤ n && n < 480).eraseDups.length ≤ 1

/-- The two words at a pair-marked instruction start issue as one unit (R277). -/
def legalPair (w0 w1 : Word) : Bool :=
  let r := Raw.ofWords w0 0
  let q := Raw.ofWords w1 0
  match Sys2Proof.rowOf r, Sys2Proof.rowOf q with
  | some x, some y =>
    let reads := pairReads r x ++ pairReads q y
    let writes := pairWrites r x
    needsSecond w0 == false && q.lp.toNat < 2 && (pairClass r).pairs (pairClass q) && banksOk reads && portsOk reads &&
    (pairWrites q y).all (fun n => !writes.contains n) && (pairReads q y).all (fun n => !writes.contains n)
  | _, _ => false

end Sys2Proof.Machine
end

