-- ==== Sys2Proof/Machine/Issue.lean ====
section
/-! DEFINITION. A core issues: which warp (R103), which path (R127), the fetch of its words (R138, R263), and pairs (R130). -/

namespace Sys2Proof.Machine

/-- Go on from a next state. -/
def onward (o : Host.Outcome State Fault Refusal) (f : State → Host.Outcome State Fault Refusal) :
    Host.Outcome State Fault Refusal :=
  match o with
  | .next s => f s
  | .fault r => .fault r
  | .refused r => .refused r

/-! ### Fetch -/

/-- What stands at an instruction start: its words, or the address and the reason of a fetch that does not resolve. -/
inductive Fetched where
  | words (w0 w1 : Word)
  | err (addr : Word) (e : XErr)
deriving DecidableEq, Repr

/-- The first word, and the second where LP asks for one (R263). -/
def State.fetch (s : State) (g : Gang) (pc : Word) : Fetched × State :=
  match s.codeWord g pc with
  | (.error e, s) => (.err pc e, s)
  | (.ok w0, s) =>
    if needsSecond w0 then
      match s.codeWord g (pc + 8) with
      | (.error e, s) => (.err (pc + 8) e, s)
      | (.ok w1, s) => (.words w0 w1, s)
    else (.words w0 0, s)

/-- LP = 0b01: the word is pair-marked (R263). -/
def pairMarked (w0 : Word) : Bool := fld w0 62 2 == 1

/-- The fetch waits for the vchip's TDI (R27): that of the word at a path's PC, of the second word of a 128-bit instruction, or of the pairing
partner of a first word (R127). -/
def State.fetchHeld (s : State) (g : Gang) (pc : Word) (sec : Bool) : Bool :=
  s.codeHeld g pc ||
    match (s.codeWord g pc).1 with
    | .ok w0 => (needsSecond w0 || (pairMarked w0 && !sec)) && s.codeHeld g (pc + 8)
    | .error _ => false

/-- A fetch that faults traps precisely at the instruction; one outside stage 2 freezes the vchip (R18, R216, R263). -/
def State.fetchFails (s : State) (wid i : Nat) (w : Warp) (p : Path) (v : Nat) (addr : Word) (e : XErr) : State :=
  match e with
  | .fault cls sub => s.takeTrap wid i 0 0 p.pc p.sec (Trap.all cls sub (w.active i) addr)
  | .violation gpa acc => s.freezeMaster v gpa acc
  | .held => s

/-- The instruction at path `i` of warp `wid` is fetched, decoded and executed. -/
def State.issueWord (s : State) (wid i : Nat) : Host.Outcome State Fault Refusal :=
  match s.warp? wid with
  | none => .next s
  | some w =>
    match w.path? i, s.gangOf w with
    | some p, some g =>
      if s.fetchHeld g p.pc p.sec then .next s
      else
        match s.fetch g p.pc with
        | (.err a e, s) => .next (s.fetchFails wid i w p g.slot a e)
        | (.words w0 w1, s) => exec (decode w0 w1).instr { s with cur := some ⟨wid, i, w0, w1, p.sec⟩ }
    | _, _ => .next s

/-- The word at a path's PC, read without a trace. -/
def State.peek (s : State) (wid i : Nat) : Option Word :=
  match s.warp? wid with
  | none => none
  | some w =>
    match w.path? i, s.gangOf w with
    | some p, some g =>
      match s.codeWord g p.pc with
      | (.ok w0, _) => some w0
      | (.error _, _) => none
    | _, _ => none

/-- After a pair-marked first word the path stands at its second word (R130). -/
def State.atSecond (s : State) (wid i : Nat) : Bool :=
  match s.warp? wid with
  | none => false
  | some w => ((w.path? i).map (·.sec)).getD false

/-- An issue of a path: one instruction, or both words of a legal pair (R130, R277). -/
def State.issuePath (s : State) (wid i : Nat) : Host.Outcome State Fault Refusal :=
  let first := s.peek wid i
  let alone := s.atSecond wid i
  onward (s.issueWord wid i) fun t =>
    match first, t.peek wid i with
    | some a, some b => if !alone && t.atSecond wid i && legalPair a b then t.issueWord wid i else .next t
    | _, _ => .next t

/-! ### The path (R127) -/

/-- Branches, calls and returns never wait. -/
def neverWaits (w0 : Word) : Bool :=
  let m := fld w0 54 8
  (0x08 ≤ m && m ≤ 0x0F) || m == 0xD1

/-- Abort causes that wait for a boundary. -/
def State.asked (s : State) : List (Option (Nat × Nat)) := s.work.warps.map fun e => e.2.task.pendingAbort

/-- The fetch of a path's instruction waits (R27). -/
def State.pathHeld (s : State) (w : Warp) (i : Nat) : Bool :=
  match w.path? i, s.gangOf w with
  | some p, some g => s.fetchHeld g p.pc p.sec
  | _, _ => false

/-- The path is ready: its instruction is fetched, and it goes on, traps, freezes the vchip, changes a task, is judged against others
(R171), or ends its gang (R214, R221). An instruction that must wait leaves its path, the trap state, the tasks and the age counters as they are (log entry 16). -/
def State.ready (s : State) (wid i : Nat) : Bool :=
  match s.warp? wid, s.peek wid i with
  | none, _ => false
  | some w, none => !s.pathHeld w i
  | some w, some a =>
    !s.pathHeld w i && (neverWaits a ||
    match s.issueWord wid i with
    | .next t =>
      match t.warp? wid with
      | none => true
      | some x => x.path? i != w.path? i || x.trap != w.trap || x.task != w.task || t.asked != s.asked ||
          t.isFrozen (s.slotOf w) != s.isFrozen (s.slotOf w) || t.dies.ageSeq != s.dies.ageSeq ||
          ((t.gangOf x).map fun g => g.ends) != (s.gangOf w).map fun g => g.ends
    | _ => true)

/-- The path has issued a `TLBI` that has not completed (R382). -/
def Path.inTlbi (p : Path) : Bool := match p.hold with | some (.tlbi _ _) => true | _ => false

/-- Or a `CTXS` or `CTXL` that drains (R386). -/
def Path.underWay (p : Path) : Bool := p.inTlbi || p.hold == some .drain

/-- The paths that may issue: all at level 0, the handler's alone above it (R219, log entry 70); of a gang that stops for a pre-emption,
those in an instruction that completes first (R382, R386), of a frozen vchip those in a `TLBI`. -/
def State.issuing (s : State) (w : Warp) : List (Nat × Path) :=
  w.livePaths.filter fun e =>
    if s.isFrozen (s.slotOf w) then e.2.inTlbi
    else if ((s.gangOf w).map fun g => g.st == .stopping).getD false then e.2.underWay
    else w.runs e.2

/-- More lanes, then the lower PC, then the lower index. -/
def Warp.better (w : Warp) (b e : Nat × Path) : Bool :=
  let m := Mask.count (w.active e.1)
  let n := Mask.count (w.active b.1)
  n < m || (n == m && e.2.pc < b.2.pc)

def Warp.best (w : Warp) (es : List (Nat × Path)) : Option Nat :=
  (es.foldl (fun (best : Option (Nat × Path)) e =>
    match best with
    | none => some e
    | some b => if w.better b e then some e else some b) none).map (·.1)

/-- The path that issues, and whether more than one was ready. Where three or more stay ready, R127's choice may pass one over for longer than
R129 promises (log entry 105). -/
def State.choosePath (s : State) (wid : Nat) (w : Warp) : Option (Nat × Bool) :=
  let c := (s.issuing w).filter fun e => s.ready wid e.1
  let f := c.filter fun e => e.2.q < 256
  (w.best (if f.isEmpty then c else f)).map fun i => (i, decide (1 < c.length))

/-- The quantum counters after the choice; those of the paths that a handler holds still stay (R219). -/
def Warp.countIssue (w : Warp) (i : Nat) (many : Bool) : Warp :=
  { w with paths := w.paths.zipIdx.map fun (e : Option Path × Nat) => e.1.map fun p =>
      { p with q := if e.2 = i then (if many then p.q + 1 else p.q) else if w.runs p then 0 else p.q } }

/-! ### The warp (R103) -/

/-- A warp that its core may issue from: its slot runs and replays no log, no reset or drain holds it, and it has not yielded. A `TLBI` under
way goes on in a frozen vchip. -/
def State.mayIssue (s : State) (w : Warp) : Bool :=
  match s.gangOf w with
  | none => false
  | some g =>
    let x := s.slot g.slot
    s.clocksRun && (!s.isFrozen g.slot || w.livePaths.any fun e => e.2.inTlbi) && !x.blk.flr.begun && w.task.st != .drainC && w.task.st != .drainA && w.work.yielded.isNone &&
    (match g.st with
     | .resident => x.log.st == .running
     | .ending => w.task.live
     | .stopping => true
     | .saved | .held => false)

/-- The core's warps, the one that has waited longest first, ties to the lower slot. -/
def State.candidates (s : State) (core : Nat) : List (Nat × Warp) :=
  sortBy (fun (a b : Nat × Warp) => a.2.work.lastIssue < b.2.work.lastIssue ||
      (a.2.work.lastIssue == b.2.work.lastIssue && a.2.number ≤ b.2.number))
    (s.work.warps.filter fun e => e.2.id.core == core && s.mayIssue e.2)

/-- What the lanes of a path do next follows every operation that some of them follow (R184). -/
def MemOp.reached (o : MemOp) (m : Mask) : MemOp := if o.reach &&& m != 0 then { o with reach := o.reach ||| m } else o

/-- The path's instruction has issued before and goes on now: no issue counts twice (R127). -/
def Warp.goesOn (w : Warp) (i : Nat) : Bool := ((w.path? i).map fun p => p.hold.isSome || p.barw.isSome).getD false

/-- The chosen path's warp as it issues: counters, its place in the order of issues, and what its lanes follow. -/
def State.noteIssue (s : State) (wid : Nat) (w : Warp) (i : Nat) (many : Bool) : State :=
  let ops (w : Warp) : List MemOp := w.work.ops.map fun o => o.reached (w.active i)
  if w.goesOn i then s.setWarp wid { w with work := { w.work with ops := ops w } }
  else
    let w := w.countIssue i many
    let n := s.work.issueClock + 1
    (s.setWarp wid { w with work := { w.work with lastIssue := n, ops := ops w } }).modWork fun k => { k with issueClock := n }

/-- Path `i` of warp `wid` is the next to issue. -/
def State.asNext (s : State) (wid i : Nat) : State := { s with cur := some ⟨wid, i, 0, 0, false⟩ }

/-- A boundary of a resident or ending gang's warp takes a remote abandon, on the path that would issue next, or the abort of its task
(R172, R218). -/
def State.boundary (s : State) (wid : Nat) (w : Warp) : Option State :=
  let stops := s.isFrozen (s.slotOf w) || ((s.gangOf w).map fun g => g.st == .stopping).getD false
  if stops then none
  else
    match w.abandonDue, s.abortDue w with
    | some code, _ => (s.choosePath wid w).map fun c => (s.asNext wid c.1).takeAbandon wid w code
    | none, some (c, v) => some (s.setWarp wid (w.startAbort c v))
    | none, none => none

/-- The first of the warps that is ready issues. -/
def State.issueFrom (s : State) (core : Nat) : List (Nat × Warp) → Host.Outcome State Fault Refusal
  | [] => .next s
  | (wid, w) :: rest =>
    match s.boundary wid w with
    | some t => .next t
    | none =>
      match s.choosePath wid w with
      | none => State.issueFrom s core rest
      | some (i, many) => onward ((s.noteIssue wid w i many).issuePath wid i) fun t => .next (t.addCyc core 1)

/-- A cycle of a core. -/
def State.issueTurn (s : State) (core : Nat) : Host.Outcome State Fault Refusal := s.issueFrom core (s.candidates core)

/-! ### Turns -/

/-- Time passes: launches that became eligible start to age at the old time (R95), timers run (R16, R407), the clocks count
where they run (R133). -/
def State.tick (s : State) (cycles us : Nat) : State :=
  let s := s.slots.foldl (fun s (e : Nat × Slot) => s.noteEligible e.1) s
  let s := if s.power.thalt then { s with power := { s.power with haltUs := s.power.haltUs + us } } else s.runTimers us
  let s := if s.clocksRun then s.modDies fun d => { d with ticks := (d.ticks + cycles) % 2 ^ 64 } else s
  let s := { s with now := s.now + us }
  if s.fabricRuns then s.retryHeld else s

/-- What does not go on now: a packet whose port does not take it, in a thermal halt (R16) or with a full reorder buffer (R38), and in a
thermal halt what touches memory. -/
def Turn.withheld (s : State) : Turn → Bool
  | .packet (.wire port p) _ => s.power.thalt || s.noRoom port p
  | .packet (.loop n) _ => s.power.thalt || ((s.fabric.loopback[n]?).map (s.noRoom 32)).getD false
  | .packet (.sound _) _ | .hostAccess _ _ _ _ | .land _ _ | .early _ _ | .agent _ | .replayAgent _ => s.power.thalt
  | .event _ | .issue _ | .tick _ _ | .credit _ _ | .netConfig _ _ _ | .linkTraining _ _ | .readBusy _ _ | .lineError _ | .engineLate _ _ => false

/-- The first turn that is not withheld, and the others. -/
def State.nextTurn (s : State) : List Turn → Option (Turn × List Turn)
  | [] => none
  | t :: ts => if t.withheld s then (s.nextTurn ts).map fun r => (r.1, t :: r.2) else some (t, ts)

/-- The state in which an event is executed: a remote abandon is taken on the warp's next path to issue (R218). -/
def State.forEvent (s : State) (i : Instr) : State :=
  match i with
  | .remoteAbandonTrap w =>
    match (s.warp? w).bind fun x => s.choosePath w x with
    | some (k, _) => s.asNext w k
    | none => s
  | _ => s

/-- An engine write of a warp lands, with the earlier ones of its channel (R145, R190). -/
def State.landOne (s : State) (wid n : Nat) : State :=
  match s.warp? wid with
  | none => s
  | some w =>
    match w.work.landing[n]? with
    | none => s
    | some x =>
      let due (e : Landing × Nat) : Bool := e.2 == n || (e.2 < n && x.chan.isSome && e.1.chan == x.chan)
      let es := w.work.landing.zipIdx
      (s.modWarp wid fun w => { w with work := { w.work with landing := (es.filter fun e => !due e).map (·.1) } }).landAll
        ((es.filter due).map (·.1))

/-- What a turn does. -/
def State.takeTurn (s : State) : Turn → Host.Outcome State Fault Refusal
  | .event i => exec i (s.forEvent i)
  | .packet src i => exec i { s with fabric := { s.fabric with arriving := some src } }
  | .issue core => s.issueTurn core
  | .tick cycles us => .next (s.tick cycles us)
  | .hostAccess v addr len write => .next (if s.answers then s.hostAccess v addr len write else s)
  | .credit port full => .next (s.setCredit port full)
  | .netConfig v ep cfg => .next (if s.answers then s.configEndpoint v ep cfg else s)
  | .linkTraining port cfg => .next (if s.answers then s.modFabric fun f => { f with training := setAt f.training port cfg } else s)
  | .readBusy _ _ => .next s
  | .engineLate w on => .next (s.modWarp w fun x => { x with work := { x.work with late := on } })
  | .land w n => .next (if s.clocksRun then s.landOne w n else s)
  | .early copy idx => .next (if s.clocksRun then s.earlyWord copy idx else s)
  | .agent id => .next (s.agentTurn id)
  | .replayAgent v => .next (s.replayAgent v)
  | .lineError line => .next { s with hbm := { s.hbm with bad := if s.hbm.bad.contains line then s.hbm.bad else s.hbm.bad ++ [line] } }

/-- The next core that holds warps, from the rotor on. -/
def State.nextCore (s : State) : Option Nat :=
  let cs := sortNat (s.work.warps.map fun (e : Nat × Warp) => e.2.id.core)
  match cs.find? fun c => s.rotor ≤ c with
  | some c => some c
  | none => cs.head?

/-- What follows every turn at once: nothing is being executed, and whatever a freeze, a rewrite pause or a completion brings
about has happened (R55, R96, R102, R106, R181). -/
def State.settle (before after : State) : State :=
  let s := { after with cur := none, fabric := { after.fabric with arriving := none } }
  before.settleRecords (s.settlePods.settleResets.settleEndings.settleLaunches)

/-! ### Placing an instruction where the next step fetches -/

/-- A range entry that maps everything below one TiB to itself, readable, writable and executable, owner 0 (R71, R72). -/
def identityRange : List Word := [0x39, 0xFFFFFFF000, 0, 0x4]

/-- A launch record of one gang of one warp with every resource of a core, at code address 2^26 (R89). -/
def fetchRecord : List Word :=
  [wordOf (2 ^ 26), 0, wordOf (place 10 52 + place 384 43 + place 1024 32 + place 1 27)] ++ List.replicate 29 0

/-- The module in OPERATIONAL and M0 with a vchip in slot 0 whose tables map its memory to itself, and these bytes at 2^26. -/
def State.withCode (s : State) (bs : List Byte) : State :=
  let vc : Vchip := ⟨0, 0, [0], 0⟩
  let s := { s with power := { s.power with start := .operational, cur := 0, busy := false, thalt := false, target := none } }
  let s := s.modSlot 0 fun x => { x with
    vchip := some vc
    tdi := some .run
    gen := 1
    frozen := none
    tlb := []
    win := { x.win with s1range := 0x20001, s1root := 0 }
    blk := { x.blk with s2range := 0x10001, s2root := 0, flr := .idle }
    sched := { x.sched with switchedIn := true }
    log := { x.log with st := .running } }
  let s := s.hbmWrite Owner.hv 0x10000 (wordsBytes identityRange)
  let s := s.hbmWrite ⟨0, 0⟩ 0x20000 (wordsBytes identityRange)
  s.hbmWrite ⟨0, 0⟩ (2 ^ 26) bs

/-- One warp stands at those bytes, and its core's turn is next. -/
def State.withWarpAt (s : State) (bs : List Byte) : State :=
  let s := s.withCode bs
  let s := s.modWork fun k => { k with gangs := [], warps := [], retired := [] }
  let s := s.startGang 0 0 0 fetchRecord 0 .resident [⟨0, 0, 0, upTo 384⟩]
  { s with agenda := [.issue 0], cur := none }

end Sys2Proof.Machine
end

