-- ==== Sys2Proof/Machine/Step.lean ====
section
/-! DEFINITION. The step: the next turn of the agenda that is not withheld, else the next core issues. -/

namespace Sys2Proof.Machine

def step (s : State) : Host.Outcome State Fault Refusal :=
  match s.nextTurn s.agenda with
  | some (t, rest) => onward ({ s with agenda := rest }.takeTurn t) fun r => .next (s.settle r)
  | none =>
    match s.nextCore with
    | none => .next s
    | some c => onward ({ s with rotor := c + 1 }.issueTurn c) fun r => .next (s.settle r)

/-- The instruction of a table row stored where the next step fetches: little-endian words, the first lowest (R2, R262). -/
def State.withFetchWord (s : State) (nbits w : Nat) : State := s.withWarpAt (leBytes 16 (w % 2 ^ nbits))

end Sys2Proof.Machine
end

