-- ==== Sys2Proof/Machine/HostRead.lean ====
section
/-! DEFINITION. What the host reads from the registers (R5, R6, R66, R69): WO fields, reserved fields and offsets without a register read
as zero. -/

namespace Sys2Proof.Machine

/-! ### PF BAR0 -/

/-- The power register (R14): CUR reads M3 outside OPERATIONAL. -/
def Power.word (p : Power) : Word :=
  let cur := if p.start == .operational then p.cur.toNat else 3
  wordOf (bitOf p.thalt 7 + bitOf p.twarn 6 + place cur 4 + bitOf p.busy 3 + bitOf p.refused 2 + p.req.toNat)

/-- MCMD (R23). -/
def Power.mcmdWord (p : Power) : Word := wordOf (bitOf p.mcmdRefused 1 + bitOf p.mcmdBusy 0)

/-- MODCFG (R29). -/
def Links.word (l : Links) : Word := wordOf (bitOf l.refused 32 + place l.sp31.toNat 16 + place l.sp30.toNat 8 + l.coord.toNat)

/-- PORTUP (R29). -/
def Links.portUpWord (l : Links) : Word :=
  wordOf ((l.ports.take 32).zipIdx.map fun e => bitOf e.1.up e.2).sum

/-- The status page (R24, R25), by offset within it. -/
def State.statusWord (s : State) (o : Nat) : Word :=
  if o = 0 then s.statusHeader
  else if 0x40 ≤ o && o < 0x100 then recWord (s.power.records.getD (o / 64 - 1) []) (o % 64 / 8)
  else 0

/-- PODRWS (R54). -/
def Rewrite.word (r : Rewrite) : Word :=
  wordOf (bitOf r.drained 48 + place (min r.pause 65535) 32 + place r.guest 16 + place r.result 8 + bitOf (r.phase != .idle) 0)

/-- EVQBASE, EVQSTAT (R86). -/
def Evq.baseWord (q : Evq) : Word := wordOf (q.base + q.log2n)
def Evq.statWord (q : Evq) : Word := wordOf (place q.lost.toNat 32 + bitOf q.ovf 0)

/-- HVSTAT and VCHSTAT (R87, R88). -/
def resultWord (result : Nat) (busy : Bool) : Word := wordOf (place result 8 + bitOf busy 0)

/-- One register of the PF that is not in a per-slot block. -/
def State.readPf (s : State) (o : Nat) : Word :=
  if o = 0x40 then s.power.word
  else if o = 0x48 then s.power.mcmdWord
  else if o = 0x80 then s.links.word
  else if o = 0x88 then s.links.portUpWord
  else if 0x1000 ≤ o && o < 0x1100 then s.statusWord (o - 0x1000)
  else if o = 0x3008 then s.tables.rewrite.word
  else if o = 0x3200 then s.evq.baseWord
  else if o = 0x3208 then s.evq.head.setWidth 64
  else if o = 0x3210 then s.evq.tail.setWidth 64
  else if o = 0x3218 then s.evq.statWord
  else if o = 0x3228 then resultWord s.host.hvResult s.host.hvBusy
  else if o = 0x3308 then resultWord s.host.vchResult s.host.vchBusy
  else if 0x4000 ≤ o && o < 0x6000 then leWord ((s.host.receipt.drop (o - 0x4000)).take 8)
  else 0

/-! ### Per-slot blocks (R69) -/

/-- FLRSTAT (R81). -/
def Block.flrWord (b : Block) : Word := wordOf (bitOf b.flrRcpt 2 + bitOf b.flrTmo 1 + bitOf (b.flr != .idle) 0)

/-- SCHED: the settings last accepted, in force or waiting (R97; log entry 91). -/
def SchedRegs.word (r : SchedRegs) : Word :=
  let w := r.written
  wordOf (place w.slice 32 + place w.share 16 + place w.group 8 + bitOf r.refused 1 + bitOf w.dedic 0)

def SchedRegs.saveWord (r : SchedRegs) : Word := wordOf (place r.saveBase 16 + r.saveSize)

/-- PREEMPT: BUSY while any pre-emption of the vchip is in progress (R97). -/
def Slot.preemptWord (x : Slot) : Word :=
  wordOf (bitOf x.sch.preRefused 5 + bitOf x.sch.preDone 2 + bitOf (x.sched.preempting || x.sch.preBusy) 1)

/-- One register of a slot's block. -/
def State.readBlock (s : State) (v o : Nat) : Word :=
  let x := s.slot v
  match o with
  | 0x00 => x.blk.s2root
  | 0x08 => x.blk.s2range
  | 0x10 => x.blk.s2inva
  | 0x20 => wordOf (bitOf x.blk.s2Refused 1 + bitOf x.blk.s2Busy 0)
  | 0x30 => x.blk.flrWord
  | 0x38 => x.gen.setWidth 64
  | 0x40 => x.sch.word
  | 0x48 => x.sch.saveWord
  | 0x50 => x.preemptWord
  | 0x58 => x.blk.phvec
  | 0x60 => x.blk.defmode
  | 0x68 => x.blk.rlogbase
  | _ => 0

/-! ### Command windows (R66) -/

/-- WINID. -/
def State.winidWord (s : State) (v : Nat) : Word :=
  match s.vchip? v with
  | none => 0
  | some c => wordOf (place c.vch 54 + place (s.podSize c.guest) 43 + place v 37)

/-- LSTAT (R67). -/
def Window.statWord (w : Window) : Word := wordOf (bitOf w.lfovf 2 + bitOf w.refused 1 + bitOf (decide (256 ≤ w.port.length)) 0)

/-- One register of a command window. -/
def State.readVf (s : State) (v o : Nat) : Word :=
  let w := (s.slot v).win
  match o with
  | 0x00 => s.winidWord v
  | 0x10 => w.statWord
  | 0x18 => w.s1root
  | 0x20 => w.s1range
  | 0x28 => w.tinva
  | 0x38 => wordOf (bitOf w.tinvRefused 1 + bitOf w.tinvBusy 0)
  | 0x40 => w.lfault
  | _ => 0

/-- A register read by the host: nothing answers in OFF, and a VF's window only while its TDI is in RUN (R20, R27). -/
def State.readReg (s : State) (reg : RegAddr) : Option Word :=
  if !s.answers then none
  else
    match reg with
    | .pf o => some (s.readPf o)
    | .perSlot v o => if v < 64 then some (s.readBlock v o) else none
    | .vf v o => if (s.slot v).tdi == some .run then some (s.readVf v o) else none

end Sys2Proof.Machine
end

