-- ==== Sys2Proof/Safety.lean ====
section
/-! DEFINITION. The terms in which claims about a run are made: what it is to complete, to issue, to write registers and
nothing else, and the form that memories keep. -/

namespace Sys2Proof.Machine

/-! ### Outcomes -/

/-- The step or instruction completes. -/
def Completes (o : Host.Outcome State Fault Refusal) : Prop := ∃ t, o = .next t

/-- It completes in a state of which `post` holds. -/
def CompletesWith (o : Host.Outcome State Fault Refusal) (post : State → Prop) : Prop := ∃ t, o = .next t ∧ post t

/-! ### Memories -/

/-- The memories of the module and the host in canonical form. -/
def State.Canonical (s : State) : Prop :=
  Memory.wf s.hbm.bytes = true ∧ Memory.wf s.hostMem = true ∧ Memory.wf s.dies.vault = true

/-- A warp's register tables in canonical form. -/
def Warp.Canonical (w : Warp) : Prop :=
  KMap.rising w.set.s = true ∧ KMap.rising w.vr.v = true ∧ KMap.rising w.vr.p = true

/-! ### Issuing -/

/-- An instruction is issued in the frame `x`. -/
def Issues (s : State) (x : Ictx) : Prop := s.ictx? = some x

/-- The operands may be named where the path stands: level 2 where one of them is privileged (R267), and no vector register at or
above the warp's allocation (R405). -/
def Named (x : Ictx) (os : List Operand) : Prop := (privOf os = false ∨ 2 ≤ x.w.trap.level) ∧ topOf os ≤ x.g.nv

/-- The operands may be named, and the guard holds in an active lane (R281). -/
def Plain (x : Ictx) (g : Guard) (os : List Operand) : Prop := x.any g = true ∧ Named x os

/-- The path's warp afterwards is `w` with the path at the next instruction; nothing else of the state has changed. -/
def Ictx.then' (x : Ictx) (w : Warp) : State := x.s.setWarp x.c.warp (x.advance w)

/-- The path goes on and nothing else changes. -/
def GoesOn (o : Host.Outcome State Fault Refusal) (x : Ictx) : Prop := o = .next (x.then' x.w)

/-- The issuing path stands at `pc` and the warp is otherwise `w`. -/
def Ictx.goes (x : Ictx) (w : Warp) (pc : Word) : State := x.s.setWarp x.c.warp (w.modPath x.c.path fun p => p.goTo pc false)

/-- Scalar register `d` alone is written, with `r`, and the path goes on. -/
def WritesScalar (o : Host.Outcome State Fault Refusal) (x : Ictx) (d : Nat) (r : Word) : Prop :=
  o = .next (x.then' (x.w.setS d r))

/-- A trap precise at the instruction: the path enters the handler at once, from the state before it (R216). -/
def Traps (o : Host.Outcome State Fault Refusal) (x : Ictx) (t : Trap) : Prop := o = .next (x.take x.s t)

/-- The warp `w` differs from the issuing warp in the lanes `m` of vector register `d` alone, which hold `f`. -/
def Ictx.LanesHold (x : Ictx) (w : Warp) (d : Nat) (m : Mask) (f : Nat → Word) : Prop :=
  (∀ n l, l < 128 → w.vreg n l = if n = d ∧ Mask.has m l = true then f l else x.w.vreg n l) ∧
  { w with vr := { w.vr with v := x.w.vr.v } } = x.w

/-- The instruction writes the lanes `m` of vector register `d` with `f` and changes nothing else. -/
def WritesLanes (o : Host.Outcome State Fault Refusal) (x : Ictx) (d : Nat) (m : Mask) (f : Nat → Word) : Prop :=
  ∃ w, o = .next (x.then' w) ∧ x.LanesHold w d m f

end Sys2Proof.Machine
end

