-- ==== Sys2Proof/Certificates/Slice0/Obligations.lean ====
section
/-! DEFINITION. The statements for the provers. Each says what an instruction or an event does in every state that meets its hypotheses. -/

open Sys2Proof Sys2Proof.Machine

/-! ### Start-up, power and heat -/

/-- Start-up (R21, R25): power up boots into self-test unless three starts have failed; a pass enters OPERATIONAL in M2 or in the
state requested from M3, with the count and every cycle count at 0; a failure raises the count, puts its record first and enters
SAFE or, at the third, MINIMAL. Nothing else changes. A restart from SAFE that passes enters M2: the model's choice (log entry 73).
Each of POWER_UP, BIST_PASS, BIST_FAIL and BIST_TIMEOUT completes under the conditions named. -/
def Obligations.StartUp : Prop :=
  ∀ s : State,
    (s.power.start = .off →
      exec .powerUp s = .next { s with power := { s.power with
        start := if s.power.fails < 3 then .bist else .minimal, cur := 3, busy := false, target := none, mcmdBusy := false } }) ∧
    (s.power.start = .bist → s.power.thalt = false →
      exec .bistPass s = .next { s with
        power := { s.power with
          start := .operational, fails := 0, cur := s.power.target.getD 2, busy := false, target := none, mcmdBusy := false }
        dies := { s.dies with cyc := [], ticks := 0 } }) ∧
    (∀ r : BistRecord, s.power.start = .bist →
      CompletesWith (exec (.bistFail r) s) fun t =>
        t.power.start = (if s.power.fails < 2 then .safe else .minimal) ∧ t.power.fails = min (s.power.fails + 1) 3 ∧
        t.power.records.tail = s.power.records.take 2 ∧
        (t.power.records.headD []).headD 0 =
          r.detail ++ r.temp ++ r.unit ++ r.stage ++ r.code ∧
        { t with power := s.power } = s) ∧
    (∀ temp dump, s.power.start = .bist →
      CompletesWith (exec (.bistTimeout temp dump) s) fun t =>
        t.power.start = (if s.power.fails < 2 then .safe else .minimal) ∧ t.power.fails = min (s.power.fails + 1) 3 ∧
        ((t.power.records.headD []).headD 0).extractLsb' 8 8 = (9 : BitVec 8) ∧
        { t with power := s.power, free := s.free } = s)

/-- Loss of power (R12, R21): from every state the module enters OFF; the failed-start count and its records stay, and vaults, z
tiles and HBM are lost. LOSS_OF_POWER completes under the conditions named, that is in every state. -/
def LossOfPowerKeepsTheCount : Prop :=
  ∀ s : State, CompletesWith (exec .lossOfPower s) fun t =>
    t.power = { Power.reset with fails := s.power.fails, records := s.power.records } ∧
    t.dies = State.reset.dies ∧ t.hbm = State.reset.hbm ∧ t.work = State.reset.work ∧ t.slots = [] ∧ t.hostMem = s.hostMem

/-- The power controller after a write of the power register has cleared what it writes 1 to (R5, R17). -/
def clearedPower (s : State) (w : PowerReq) : Power :=
  { s.power with twarn := s.power.twarn && !w.clearTwarn, refused := s.power.refused && !w.clearRefused }

/-- The rows that write REQ, with the value each writes. -/
def PowerRow (w : PowerReq) (i : Instr) (r : BitVec 2) : Prop :=
  (i, r) = (.powerReqM0 w, 0) ∨ (i, r) = (.powerReqM1 w, 1) ∨ (i, r) = (.powerReqM2 w, 2) ∨ (i, r) = (.powerReqM3 w, 3)

/-- The power register (R14, R15, R17): a request outside OPERATIONAL or while BUSY is refused with nothing else changed; M0 and
M1 from a running state begin a transition; M3 begins one where no vchip exists; from M3 the module passes through self-test; M2
begins one unless a dedicated vchip's save area is too small. A completed transition sets CUR and clears BUSY. POWER_REQ_M0,
POWER_REQ_M1, POWER_REQ_M2, POWER_REQ_M3 and POWER_TRANSITION_COMPLETE complete under the conditions named. -/
def PowerRequests : Prop :=
  ∀ (s : State) (w : PowerReq) (i : Instr) (r : BitVec 2), PowerRow w i r → s.power.start ≠ .off → s.power.thalt = false →
    (s.power.start ≠ .operational → exec i s = .next { s with power := { clearedPower s w with refused := true } }) ∧
    (s.power.start = .operational → s.power.busy = true →
      exec i s = .next { s with power := { clearedPower s w with refused := true } }) ∧
    (s.power.start = .operational → s.power.busy = false → r = s.power.cur →
      exec i s = .next { s with power := { clearedPower s w with req := r } }) ∧
    (s.power.start = .operational → s.power.busy = false → r ≠ s.power.cur → s.power.cur = 3 →
      exec i s = .next { s with power := { clearedPower s w with req := r, start := .bist, busy := true, target := some r } }) ∧
    (s.power.start = .operational → s.power.busy = false → r ≠ s.power.cur → s.power.cur ≠ 3 →
      (r = 0 ∨ r = 1 ∨ (r = 3 ∧ s.anyVchip = false)) →
      exec i s = .next { s with power := { clearedPower s w with req := r, busy := true, target := some r } }) ∧
    (s.power.start = .operational → s.power.busy = false → r ≠ s.power.cur → s.power.cur ≠ 3 → r = 3 → s.anyVchip = true →
      exec i s = .next { s with power := { clearedPower s w with req := r, refused := true } }) ∧
    (s.power.start = .operational → s.power.busy = false → r ≠ s.power.cur → s.power.cur ≠ 3 → r = 2 →
      (s.vchips.any fun e => (s.slot e.1).sch.now.dedic && s.saveShort e.1) = true →
      exec i s = .next { s with power := { clearedPower s w with req := r, refused := true } }) ∧
    (s.power.start = .operational → s.power.busy = false → r ≠ s.power.cur → s.power.cur ≠ 3 → r = 2 →
      (s.vchips.any fun e => (s.slot e.1).sch.now.dedic && s.saveShort e.1) = false →
      CompletesWith (exec i s) fun t => t.power = { clearedPower s w with req := r, busy := true, target := some r }) ∧
    (s.power.start = .operational → s.power.target = some r → s.power.req = r →
      (∀ e ∈ s.vchips, (s.slot e.1).blk.flr = .idle ∧ (s.slot e.1).sched.switchedIn = false) →
      CompletesWith (exec .powerTransitionComplete s) fun t =>
        t.power = { s.power with cur := r, busy := false, target := none } ∧
        (r = 3 → t.dies = State.reset.dies ∧ t.hbm.bytes = []) ∧ (r = 2 → t.dies = s.dies ∧ t.hbm = s.hbm))

/-- Heat (R16, R17): the warning sets TWARN and raises an alert; the halt sets THALT, raises an alert and keeps everything else,
in every start-up state in which the controller runs; a write of any REQ resumes a halted module once every sensor is below 90 degrees
and is refused otherwise. THERMAL_WARNING and THERMAL_HALT complete under the conditions named. -/
def ThermalEvents : Prop :=
  ∀ (s : State) (w : PowerReq) (i : Instr) (r : BitVec 2), PowerRow w i r → s.power.start ≠ .off →
    exec .thermalWarning s = .next { s with power := { s.power with twarn := true }, signals := s.signals ++ [.alert] } ∧
    (s.power.thalt = false →
      exec .thermalHalt s = .next { s with power := { s.power with thalt := true }, signals := s.signals ++ [.alert] }) ∧
    (s.power.thalt = true → 90 ≤ w.hottest →
      exec i s = .next { s with power := { clearedPower s w with refused := true } }) ∧
    (s.power.start = .operational → s.power.thalt = true → s.power.busy = false → r = s.power.cur → w.hottest < 90 →
      exec i s = .next { s with power := { clearedPower s w with thalt := false, req := r } })

/-- MCMD (R23): restart in SAFE begins self-test and is BUSY; clear-starts in MINIMAL sets the count to 0; either is refused
elsewhere. MCMD_RESTART and MCMD_CLEAR_STARTS complete under the conditions named. -/
def ManagementCommands : Prop :=
  ∀ s : State, s.power.mcmdBusy = false →
    (s.power.start = .safe →
      exec .mcmdRestart s = .next { s with power := { s.power with start := .bist, mcmdBusy := true } }) ∧
    (s.power.start = .minimal → exec .mcmdClearStarts s = .next { s with power := { s.power with fails := 0 } }) ∧
    (s.power.start ≠ .safe → s.power.start ≠ .off →
      exec .mcmdRestart s = .next { s with power := { s.power with mcmdRefused := true } }) ∧
    (s.power.start ≠ .minimal → s.power.start ≠ .off →
      exec .mcmdClearStarts s = .next { s with power := { s.power with mcmdRefused := true } })

/-- Power, heat and management commands (R12, R14 to R17, R23): the four parts above. -/
def Obligations.PowerRegisterAndHeat : Prop := LossOfPowerKeepsTheCount ∧ PowerRequests ∧ ThermalEvents ∧ ManagementCommands

/-! ### Links -/

/-- The fabric's ports (R28, R30): a row port leads to the other column of the same row, a column port to the other row of the same
column; a minimal route, row first or column first, reaches its destination in at most two hops. -/
def Obligations.MinimalRoutesArrive : Prop :=
  ∀ (here dest : Nat), here < 256 → dest < 256 → ∀ rowFirst : Bool,
    (minimalPort rowFirst here dest = none ↔ here = dest) ∧
    (∀ i, minimalPort rowFirst here dest = some i → i < 30 ∧
      let next := if i < 15 then rowPeer here i else 16 * (if i - 15 < rowOf here then i - 15 else i - 14) + colOf here
      next < 256 ∧ next ≠ here ∧
      (next = dest ∨ ∃ j, minimalPort rowFirst next dest = some j ∧
        (if j < 15 then rowPeer next j else 16 * (if j - 15 < rowOf next then j - 15 else j - 14) + colOf next) = dest))

/-- MODCFG (R29): a COORD change with a vchip present, a spare for port 30 or above, and one port on both spares are refused and
change nothing but REFUSED; every other write is accepted and sets COORD and the spares. A spare that is newly named for a port
takes over that port's sequence. MODCFG_WRITE completes under the conditions named. -/
def ModcfgWrites : Prop :=
  ∀ (s : State) (v : Word), s.power.start ≠ .off →
    ((fld v 0 8 ≠ s.links.coord.toNat ∧ s.anyVchip = true) ∨ (30 ≤ fld v 8 8 ∧ fld v 8 8 ≠ 0xFF) ∨
        (30 ≤ fld v 16 8 ∧ fld v 16 8 ≠ 0xFF) ∨ (fld v 8 8 = fld v 16 8 ∧ fld v 8 8 ≠ 0xFF) →
      exec (.modcfgWrite v) s = .next { s with links := { s.links with refused := true } }) ∧
    (s.anyVchip = false ∨ fld v 0 8 = s.links.coord.toNat → fld v 8 8 < 30 ∨ fld v 8 8 = 0xFF → fld v 16 8 < 30 ∨ fld v 16 8 = 0xFF →
      (fld v 8 8 = fld v 16 8 → fld v 8 8 = 0xFF) →
      CompletesWith (exec (.modcfgWrite v) s) fun t =>
        t.links.coord = v.extractLsb' 0 8 ∧ t.links.sp30 = v.extractLsb' 8 8 ∧ t.links.sp31 = v.extractLsb' 16 8 ∧
        t.links.refused = (s.links.refused && !v.getLsbD 32) ∧ (∀ j, j < 30 → t.port j = s.port j) ∧
        (32 ≤ s.links.ports.length → fld v 8 8 ≠ s.links.sp30.toNat → fld v 8 8 < 30 →
          (t.port 30).txSeq = (s.port (fld v 8 8)).txSeq ∧ (t.port 30).rxSeq = (s.port (fld v 8 8)).rxSeq) ∧
        (32 ≤ s.links.ports.length → fld v 16 8 ≠ s.links.sp31.toNat → fld v 16 8 < 30 →
          (t.port 31).txSeq = (s.port (fld v 16 8)).txSeq ∧ (t.port 31).rxSeq = (s.port (fld v 16 8)).rxSeq) ∧
        { t with links := s.links, free := s.free } = s)

/-- Frames and ports (R16, R22, R30 to R32, R407), none of which goes on where the fabric does not run: a bad frame is answered by a replay
request; a replay puts the frames from the named one on the wire again; a port that a spare has replaced does neither; a port that needed
more than 16 replays within 1 ms goes down with a kind-6 record; a port without credit for 2 us is marked; a packet for another module goes
on at the port of its next hop once its channel has credit there. FRAME_CRC_ERROR, LINK_REPLAY, PORT_DOWN, NO_CREDIT_TIMEOUT and PACKET_HOP
complete under the conditions named. Which replays count is the model's choice (log entry 74). -/
def LinkSteps : Prop :=
  ∀ (s : State) (i : Nat), i < s.links.ports.length → (s.port i).up = true →
    (∀ seq, s.fabricRuns = true → s.replaced i = false → CompletesWith (exec (.frameCrcError i seq) s) fun t =>
      (t.port i).ctl = (s.port i).ctl ++ [seq] ∧ (t.port i).replays = (s.port i).replays ++ [s.now] ∧
      (∀ j, j ≠ i → t.port j = s.port j) ∧ { t with links := s.links } = s) ∧
    (∀ seq, s.fabricRuns = true → s.replaced i = false → CompletesWith (exec (.linkReplay i seq) s) fun t =>
      (t.port i).out = (s.port i).out ++ ((s.port i).replay.dropWhile fun f => f.seq != seq) ∧
      (∀ j, j ≠ i → t.port j = s.port j) ∧ { t with links := s.links } = s) ∧
    (∀ seq, s.replaced i = true → exec (.linkReplay i seq) s = .next s ∧ exec (.frameCrcError i seq) s = .next s) ∧
    (s.fabricRuns = true → 16 < (s.port i).recent s.now →
      exec (.portDown i) s = .next ((s.modPort i fun q => { q with up := false }).post { kind := 6, code := i } none)) ∧
    (∀ seq, s.fabricRuns = false → exec (.frameCrcError i seq) s = .next s ∧ exec (.linkReplay i seq) s = .next s ∧
      exec (.portDown i) s = .next s ∧ exec (.noCreditTimeout i) s = .next s) ∧
    ((s.port i).recent s.now ≤ 16 → exec (.portDown i) s = .next s) ∧
    (s.fabricRuns = true → CompletesWith (exec (.noCreditTimeout i) s) fun t =>
      (t.port i).noCredit = true ∧ (∀ j, j ≠ i → t.port j = s.port j) ∧ { t with links := s.links } = s) ∧
    (∀ p j, s.fabricRuns = true → s.replaced i = false → nextPort s.links.coord.toNat p.rmode p.dmod = some j →
      s.hopFull j p = false → exec (.packetHop i p) s = .next ((s.framesArrived i p).transmit j p))

/-- MODCFG and the links (R29, R30, R32): the two parts above. -/
def Obligations.LinkRegistersAndSteps : Prop := ModcfgWrites ∧ LinkSteps

/-! ### Packets -/

/-- The rows of requests (R34, R35) and the packets that are theirs. -/
def requestRows : List (Instr × (Packet → Bool)) :=
  [ (.write, fun p => p.typ == 1), (.read, fun p => p.typ == 2), (.send, fun p => p.typ == 6),
    (.agentAdd, fun p => p.typ == 4 && p.aop < 3), (.agentLogic, fun p => p.typ == 4 && 3 ≤ p.aop && p.aop < 6),
    (.agentExchange, fun p => p.typ == 4 && p.aop == 6), (.agentCompareAndSwap, fun p => p.typ == 4 && p.aop == 7),
    (.agentDeterministicAdd, fun p => p.typ == 4 && p.aop == 8), (.agentSlotSetup, fun p => p.typ == 4 && p.aop == 9),
    (.agentMultiwordCas, fun p => p.typ == 4 && p.aop == 10), (.agentListEnqueue, fun p => p.typ == 4 && p.aop == 11),
    (.agentPointerChase, fun p => p.typ == 4 && p.aop == 12) ]

/-- A request that passes the check and is the next of a stream that is not frozen executes at its home, the stream expects the
next SEQ, and the destination acknowledges it (R37 to R39); a remote operation that takes several accesses begins (R334, R335), and one
that must wait is held. A request that fails the check freezes its stream at the expected SEQ (R40), and one that was executed before
is acknowledged again, in a frozen stream too (R407); a frozen stream discards what comes later. WRITE, READ, SEND, AGENT_ADD, AGENT_LOGIC,
AGENT_EXCHANGE, AGENT_COMPARE_AND_SWAP, AGENT_DETERMINISTIC_ADD, AGENT_SLOT_SETUP, AGENT_MULTIWORD_CAS, AGENT_LIST_ENQUEUE and
AGENT_POINTER_CHASE complete under the conditions named. -/
def Obligations.RequestsInOrder : Prop :=
  ∀ (s : State) (port : Nat) (p : Packet) (s1 : State) (row : Instr) (kind : Packet → Bool),
    (row, kind) ∈ requestRows → s.arrival = some (port, p, s1) → kind p = true →
    (∀ s2 d, s1.check p = (none, s2) → s2.dstStream p.dstId = d → d.frozen = none → d.job = none → d.held = [] → p.seq = d.expected →
      (∀ t, (s2.setDst { d with last := some p, held := [(port, p)] }).fileRequest p = .done t →
        exec row s = .next ((State.drain 1 (t.setDst { d with last := some p, expected := (p.seq + 1) % 2 ^ 24, held := [] })
          p.dstId true).retryHeld)) ∧
      (∀ j t, (s2.setDst { d with last := some p, held := [(port, p)] }).fileRequest p = .work j t →
        exec row s = .next ((t.setDst { d with last := some p, held := [(port, p)], job := some j }).retryHeld)) ∧
      ((s2.setDst { d with last := some p, held := [(port, p)] }).fileRequest p = .wait →
        exec row s = .next ((s2.setDst { d with last := some p, held := [(port, p)] }).retryHeld)) ∧
      (∀ code, (s2.setDst { d with last := some p, held := [(port, p)] }).fileRequest p = .fault code →
        exec row s = .next (((s2.setDst { d with last := some p, held := [(port, p)] }).freezeDst p code d.expected).retryHeld))) ∧
    (∀ code s2, s1.check p = (some code, s2) → (s2.dstStream p.dstId).frozen = none → (s2.dstStream p.dstId).job = none →
      exec row s = .next (s2.freezeDst p code (s2.dstStream p.dstId).expected)) ∧
    (∀ s2 d, s1.check p = (none, s2) → s2.dstStream p.dstId = d → seqExecuted d.expected p.seq = true →
      exec row s = .next (((s2.setDst { d with last := some p }).sendAck p ((d.expected + 2 ^ 24 - 1) % 2 ^ 24)).retryHeld)) ∧
    (∀ s2 d, s1.check p = (none, s2) → s2.dstStream p.dstId = d → seqExecuted d.expected p.seq = false → d.frozen.isSome = true →
      exec row s = .next ((s2.setDst { d with last := some p }).retryHeld))

/-- What request packets do at their home where the whole access resolves to one place (R35): WRITE stores its payload, READ answers
the bytes, an AGENT answers the old value and stores the new one; a list enqueue
begins with the node's link. Where an AGENT's operands lie in its
packet is the model's choice (log entry 22). A WRITE or READ in a log that is not RUNNING is deferred, SEND
always goes to the message ring (after the 200 us limit too: the model's choice, log entry 79), after the limit the others are
refused, a packet for host memory waits while the TDI is not in RUN (R27), and a vchip without a valid log refuses with code 8 (R60, R62). -/
def Obligations.RequestsAtTheirHome : Prop :=
  ∀ (s : State) (v : Nat) (p : Packet) (pl : Place),
    (p.typ = 1 → s.offsetRuns v p.offset p.nbytes Acc.write = .ok [(pl, p.nbytes)] →
      s.homeExec v p = .done (s.storeAt pl (p.payload.take p.nbytes))) ∧
    (p.typ = 2 → p.oparg ≤ 960 → s.offsetRuns v p.offset p.oparg Acc.read = .ok [(pl, p.oparg)] →
      s.homeExec v p = .done (s.answer p 0x03 0 0 p.stream p.seq (s.readPlace pl p.oparg) false)) ∧
    (p.typ = 4 → p.atype = 8 → p.offset % 8 = 0 → s.agentPlace v p.offset 8 Acc.both = .ok pl → p.aop = 0 →
      s.homeExec v p = .done ((s.storeAt pl (wordBytes (s.readWord pl 8 + p.imm) 8)).agentAnswer p [s.readWord pl 8])) ∧
    (p.typ = 4 → p.atype = 8 → p.offset % 8 = 0 → s.agentPlace v p.offset 8 Acc.both = .ok pl → p.aop = 3 →
      s.homeExec v p = .done ((s.storeAt pl (wordBytes (s.readWord pl 8 &&& p.imm) 8)).agentAnswer p [s.readWord pl 8])) ∧
    (p.typ = 4 → p.atype = 8 → p.offset % 8 = 0 → s.agentPlace v p.offset 8 Acc.both = .ok pl → p.aop = 6 →
      s.homeExec v p = .done ((s.storeAt pl (wordBytes p.imm 8)).agentAnswer p [s.readWord pl 8])) ∧
    (p.typ = 4 → p.atype = 8 → p.offset % 8 = 0 → s.agentPlace v p.offset 8 Acc.both = .ok pl → p.aop = 7 →
      8 ≤ p.payload.length →
      s.homeExec v p = .done ((s.storeAt pl (wordBytes
        (if s.readWord pl 8 = p.imm then leWord (p.payload.take 8) else s.readWord pl 8) 8)).agentAnswer p [s.readWord pl 8])) ∧
    (∀ h, p.typ = 4 → p.aop = 11 → p.offset % 16 = 0 → fld p.imm 0 3 = 0 → s.agentPlace v p.offset 16 Acc.both = .ok h →
      s.agentPlace v (fld p.imm 0 40) 8 Acc.write = .ok pl →
      s.homeExec v p = .work { port := 0, pkt := p, step := 1, place := h, found := 0 } (s.storeAt pl (wordBytes 0 8))) ∧
    (p.typ = 4 → 13 ≤ p.aop → s.homeExec v p = .fault 6) ∧
    (p.dslot = v → s.validLog? v = none → s.fileRequest p = .fault 8) ∧
    (∀ cb, p.dslot = v → s.validLog? v = some cb → p.typ ≠ 6 → (s.slot v).log.st = .running → s.homeHeld v p = false →
      s.fileRequest p = s.homeExec v p) ∧
    (∀ cb, p.dslot = v → s.validLog? v = some cb → p.typ ≠ 6 → (s.slot v).log.st = .running → s.homeHeld v p = true →
      s.fileRequest p = .wait) ∧
    (∀ cb, p.dslot = v → s.validLog? v = some cb → p.typ ≠ 6 → (s.slot v).log.st ≠ .running → (s.slot v).log.limit = true →
      s.fileRequest p = .fault 8) ∧
    (∀ cb t, p.dslot = v → s.validLog? v = some cb → p.typ = 6 → s.appendRecord v (s.msgRing cb) p = some t →
      s.fileRequest p = .done t) ∧
    (∀ cb t, p.dslot = v → s.validLog? v = some cb → p.typ ≠ 6 → (s.slot v).log.st ≠ .running → (s.slot v).log.limit = false →
      s.appendRecord v (s.defRing cb) p = some t → s.fileRequest p = .done t)

/-- Answers and controls (R34, R37, R39, R40): what a checked packet of each row does at the source of a stream, or where it confirms an
abandon. A packet that fails the check has no such effect and freezes the stream that it names, from its oldest unacknowledged SEQ; which
stream that is, is the model's choice (log entry 52). READRSP, AGENTRSP, ACK, FREEZE, RESUME, RESUME_ABANDON and ABANDON_CONFIRM complete
under the conditions named. -/
def AnswersAndControls : Prop :=
  ∀ (s : State) (port : Nat) (p : Packet) (s1 : State), s.arrival = some (port, p, s1) →
    (∀ s2, s1.check p = (none, s2) →
      (p.typ = 3 → exec .readrsp s = .next ((s2.takeOrigin ⟨p.dslot, p.svch, p.rstream⟩ p.rseq).2.readAnswer
        (s2.takeOrigin ⟨p.dslot, p.svch, p.rstream⟩ p.rseq).1 (p.oparg % 256) p.payload)) ∧
      (p.typ = 5 → exec .agentrsp s = .next ((s2.takeOrigin ⟨p.dslot, p.svch, p.rstream⟩ p.rseq).2.agentReply
        (s2.takeOrigin ⟨p.dslot, p.svch, p.rstream⟩ p.rseq).1 (p.oparg % 256) (p.imm :: bytesWords p.payload))) ∧
      (p.typ = 8 → exec .ack s = .next (s2.ackStream ⟨p.dslot, p.svch, p.rstream⟩ p.rseq)) ∧
      (∀ x, p.typ = 0x10 → s2.srcStream? ⟨p.dslot, p.svch, p.rstream⟩ = some x → x.frozen = none →
        exec .freeze s = .next (s2.setSrc { x with frozen := some ⟨p.oparg % 256, p.rseq, false⟩ })) ∧
      (∀ x fz, p.typ = 0x11 → p.rev = true → p.oparg % 2 = 0 → s2.srcStream? ⟨p.dslot, p.svch, p.rstream⟩ = some x →
        x.frozen = some fz → fz.isLocal = false →
        exec .resume s = .next (s2.setSrc { x with
          frozen := none, resend := (x.sent.filter fun q => seqLe p.rseq q.seq).map (·.seq) })) ∧
      (∀ x fz, p.typ = 0x11 → p.rev = true → p.oparg % 2 = 1 → s2.srcStream? ⟨p.dslot, p.svch, p.rstream⟩ = some x →
        x.frozen = some fz → fz.isLocal = false →
        exec .resumeAbandon s = .next (s2.abandonStream ⟨p.dslot, p.svch, p.rstream⟩)) ∧
      (∀ d, p.typ = 0x11 → p.rev = false → p.oparg % 2 = 1 → s2.dstStream ⟨p.dslot, p.svch, p.rstream⟩ = d → d.held = [] →
        d.job = none → exec .abandonConfirm s = .next (s2.setDst { d with expected := p.rseq, frozen := none }))) ∧
    (∀ code s2 i x q qs, s1.check p = (some code, s2) → p.rev = true → (s2.vchip? p.dslot).isSome = true →
      (i, p.typ) ∈ [(Instr.readrsp, 3), (Instr.agentrsp, 5), (Instr.ack, 8), (Instr.freeze, 0x10)] →
      s2.srcStream? ⟨p.dslot, p.svch, p.rstream⟩ = some x → x.frozen = none → x.sent = q :: qs →
      exec i s = .next (s2.freezeSrc ⟨p.dslot, p.svch, p.rstream⟩ code q.seq q.pkt.offset))

/-- Sending (R38, R39, R46, R407) and the move of a key (R52): a stream that is free to send puts its next request, under its next SEQ, on
the way and keeps it unacknowledged, or sends again what a RESUME asked for; a frozen stream sends nothing; answers and control packets
leave when their channel has credit; a request unacknowledged for 10 ms freezes its stream at the source with code 9; an end moves a key
once a wrap has occurred and the next key is installed. FABRIC_SEND, SOURCE_TIMEOUT and KEY_MOVE complete under the conditions named. -/
def StreamsAtTheSource : Prop :=
  ∀ s : State,
    (∀ id x r rest c g, s.srcStream? id = some x → s.mayInject x = true → x.resend = [] → x.queued = r :: rest → x.wrapped = false →
      s.paused x.guest = false → s.originReady r.origin = true → s.lateReady r = true → s.vchip? id.slot = some c →
      s.guest? (s.headerOf c) = some g → mapV (g.mapEntry id.dvch) = true → s.keyIxOf id.slot id.dvch ≠ 0 →
      labV (g.label (mapLabel (g.mapEntry id.dvch))) = true → mapLoop (g.mapEntry id.dvch) = true →
      CompletesWith (exec (.fabricSend (.stream id)) s) fun t => ∃ y q, t.srcStream? id = some y ∧ y.queued = rest ∧
        y.nextSeq = (x.nextSeq + 1) % 2 ^ 24 ∧ y.sent = x.sent ++ [q] ∧ q.seq = x.nextSeq ∧ q.origin = r.origin ∧
        t.fabric.loopback = s.fabric.loopback ++ [q.pkt]) ∧
    (∀ id x q qs p, s.srcStream? id = some x → s.mayInject x = true → x.resend = q :: qs →
      (x.sent.find? fun e => e.seq == q) = some p → s.blocked 0 p.loopback (some p.port) = false →
      exec (.fabricSend (.stream id)) s = .next (State.emit (s.setSrc { x with
        resend := qs, sent := x.sent.map fun (e : Sent) => if e.seq = q then { e with age := 0 } else e }) p.pkt p.loopback (some p.port))) ∧
    (∀ id x, s.srcStream? id = some x → x.frozen.isSome = true → exec (.fabricSend (.stream id)) s = .next s) ∧
    (∀ id x p, s.srcStream? id = some x → s.fabricRuns = true → x.frozen = none →
      (x.sent.find? fun q => 10000 ≤ q.age && !x.resend.contains q.seq) = some p →
      exec (.sourceTimeout id) s = .next (s.freezeSrc id 9 p.seq p.pkt.offset)) ∧
    (∀ o rest route port, s.fabricRuns = true → s.nextOut s.fabric.controls = some (o, rest, route, port) →
      exec (.fabricSend .control) s = .next ({ s with fabric := { s.fabric with controls := rest } }.sendOut o route port)) ∧
    (∀ o rest route port, s.fabricRuns = true → s.nextOut s.fabric.responses = some (o, rest, route, port) →
      exec (.fabricSend .response) s = .next ({ s with fabric := { s.fabric with responses := rest } }.sendOut o route port)) ∧
    (∀ kx k, s.key? kx = some k → k.wrap = true → k.nxv = true → s.oldEpoch kx k = false →
      CompletesWith (exec (.keyMove kx) s) fun t =>
        ∃ q, t.key? kx = some q ∧ q.key = k.nkey ∧ q.prev = some k.key ∧ q.epoch = k.epoch + 1 ∧ q.nxv = false ∧ q.wrap = false)

/-- Answers, control packets and streams at their source (R34, R38 to R40, R51): the two parts above. -/
def Obligations.AnswersAndSourceStreams : Prop := AnswersAndControls ∧ StreamsAtTheSource

/-! ### Scalar instructions -/

/-- Scalar types: b64, i32, n32, i64 and n64 (R282). -/
def aluTypes : List Ty := [.b64, .i32, .n32, .i64, .n64]

/-- A source of W bits, as a bit vector of its own width. -/
def narrow (t : Ty) (a : Word) : BitVec t.width := a.setWidth t.width

/-- A W-bit result in its register: i32 sign-extends, the others zero-extend (R283). -/
def widen (t : Ty) (r : BitVec t.width) : Word := if t = .i32 then r.signExtend 64 else r.setWidth 64

/-- `a cc b` of W bits, signed or unsigned as the type reads (R283). -/
def holds (sgn : Bool) (c : Cond) {n : Nat} (a b : BitVec n) : Bool :=
  match c with
  | .eq => a == b
  | .ne => a != b
  | .lt => if sgn then a.slt b else a.ult b
  | .le => if sgn then a.sle b else a.ule b
  | .gt => if sgn then b.slt a else b.ult a
  | .ge => if sgn then b.sle a else b.ule a
  | .un => false

/-- Instructions that act once and write sD, as they issue in a frame with sources a, b of W bits: sum, difference, product and
high product, bitwise operations, shifts by b mod W, lesser and greater, move, and the 64-bit constant of SLI (R283, R284). Each
writes sD and nothing else; NOP writes nothing (R284). NOP, SADD, SSUB, SMUL, SMULH, SAND, SOR, SXOR, SSHL, SSHR, SSRA, SMIN,
SMAX, SMOV and SLI complete under the conditions named. -/
def ScalarArithmetic : Prop :=
  ∀ (s : State) (x : Ictx) (g : Guard) (t : Ty) (d : Nat) (a b : Operand), t ∈ aluTypes → Issues s x → Plain x g [a, b] →
    let A := narrow t (x.uni t a)
    let B := narrow t (x.uni t b)
    let W := t.width
    let sh := B.toNat % W
    GoesOn (exec (.nop g) s) x ∧
    WritesScalar (exec (.sadd g t d a b) s) x d (widen t (A + B)) ∧
    WritesScalar (exec (.ssub g t d a b) s) x d (widen t (A - B)) ∧
    WritesScalar (exec (.smul g t d a b) s) x d (widen t (A * B)) ∧
    WritesScalar (exec (.smulh g t d a b) s) x d (widen t (if t.signed
      then (A.signExtend (2 * W) * B.signExtend (2 * W)).extractLsb' W W
      else (A.setWidth (2 * W) * B.setWidth (2 * W)).extractLsb' W W)) ∧
    WritesScalar (exec (.sand g t d a b) s) x d (widen t (A &&& B)) ∧
    WritesScalar (exec (.sor g t d a b) s) x d (widen t (A ||| B)) ∧
    WritesScalar (exec (.sxor g t d a b) s) x d (widen t (A ^^^ B)) ∧
    WritesScalar (exec (.sshl g t d a b) s) x d (widen t (A <<< sh)) ∧
    WritesScalar (exec (.sshr g t d a b) s) x d (widen t (A >>> sh)) ∧
    WritesScalar (exec (.ssra g t d a b) s) x d (widen t (A.sshiftRight sh)) ∧
    WritesScalar (exec (.smin g t d a b) s) x d (widen t (if holds t.signed .le A B then A else B)) ∧
    WritesScalar (exec (.smax g t d a b) s) x d (widen t (if holds t.signed .le A B then B else A)) ∧
    WritesScalar (exec (.smov g t d a) s) x d (widen t A) ∧
    ∀ k, WritesScalar (exec (.sli g d k) s) x d k

/-- Division, comparison, selection and bit fields (R283): a zero divisor gives every bit set and leaves the dividend as the
remainder; the quotient truncates; SBFI keeps the bits of the old sD outside the field. SDIV, SREM, SCMP, SSEL, SBFX, SBFI, SPOPC
and SCLZ complete under the conditions named. -/
def ScalarDivideCompareSelect : Prop :=
  ∀ (s : State) (x : Ictx) (g : Guard) (t : Ty) (d : Nat) (a b c : Operand), t ∈ aluTypes → Issues s x → Plain x g [a, b, c] →
    let A := narrow t (x.uni t a)
    let B := narrow t (x.uni t b)
    let W := t.width
    let pos := (x.uni t b).toNat % 64 % W
    let len := min ((x.uni t b).toNat / 64 % 128) W
    WritesScalar (exec (.sdiv g t d a b) s) x d (widen t (if B = 0 then BitVec.allOnes W else
      if t.signed then A.sdiv B else A.udiv B)) ∧
    WritesScalar (exec (.srem g t d a b) s) x d (widen t (if B = 0 then A else if t.signed then A.srem B else A.umod B)) ∧
    (∀ cc, WritesScalar (exec (.scmp g t cc d a b) s) x d (if holds t.signed cc A B then 1 else 0)) ∧
    WritesScalar (exec (.ssel g t d a b c) s) x d (widen t (if x.uni t c = 0 then B else A)) ∧
    WritesScalar (exec (.sbfx g t d a b) s) x d (widen t
      (if t.signed then ((A >>> pos).setWidth len).signExtend W else ((A >>> pos).setWidth len).setWidth W)) ∧
    CompletesWith (exec (.sbfi g t d a b) s) (fun u => ∃ r : BitVec W, u = x.then' (x.w.setS d (widen t r)) ∧
      ∀ i, i < W → r.getLsbD i =
        (if pos ≤ i ∧ i < pos + len then A.getLsbD (i - pos) else (narrow t (x.w.sreg d)).getLsbD i)) ∧
    WritesScalar (exec (.spopc g t d a) s) x d (widen t (BitVec.ofNat W ((List.range W).countP fun i => A.getLsbD i))) ∧
    CompletesWith (exec (.sclz g t d a) s) (fun u => ∃ n, u = x.then' (x.w.setS d (BitVec.ofNat 64 n)) ∧ n ≤ W ∧
      (∀ i, W - n ≤ i → A.getLsbD i = false) ∧ (n < W → A.getLsbD (W - 1 - n) = true))

/-- The scalar instructions (R281 to R284): the two parts above. -/
def Obligations.ScalarInstructions : Prop := ScalarArithmetic ∧ ScalarDivideCompareSelect

/-- What "the path goes on" is: the path's program counter passes the instruction's 8 or 16 bytes; the warp keeps its registers,
flags, handles and levels, and every other path (R127, R263). -/
def GoingOn : Prop :=
  ∀ (s : State) (x : Ictx), Issues s x → ∀ w : Warp, w.paths = x.w.paths →
    let t := x.then' w
    (∃ v p, t.warp? x.c.warp = some v ∧ v.path? x.c.path = some p ∧
      p.pc = x.p.pc + (if x.c.w0 >>> 62 = 2 then 16 else 8) ∧
      { v with paths := w.paths } = w ∧ (∀ i, i ≠ x.c.path → v.path? i = w.path? i)) ∧
    (∀ n, n ≠ x.c.warp → t.warp? n = s.warp? n) ∧ { t with work := { t.work with warps := s.work.warps } } = s

/-- Instructions that act once (R281), with the operands that they name. -/
def onceRows (g : Guard) (t : Ty) (cc : Cond) (d n k : Nat) (a b c : Operand) (td jd : BitVec 18) (w : Word) :
    List (Instr × List Operand) :=
  [(.nop g, []), (.sadd g t d a b, [a, b]), (.ssub g t d a b, [a, b]), (.smul g t d a b, [a, b]), (.smulh g t d a b, [a, b]),
    (.sdiv g t d a b, [a, b]), (.srem g t d a b, [a, b]), (.sand g t d a b, [a, b]), (.sor g t d a b, [a, b]),
    (.sxor g t d a b, [a, b]), (.sshl g t d a b, [a, b]), (.sshr g t d a b, [a, b]), (.ssra g t d a b, [a, b]),
    (.smin g t d a b, [a, b]), (.smax g t d a b, [a, b]), (.scmp g t cc d a b, [a, b]), (.ssel g t d a b c, [a, b, c]),
    (.sbfx g t d a b, [a, b]), (.sbfi g t d a b, [a, b]), (.spopc g t d a, [a]), (.sclz g t d a, [a]), (.smov g t d a, [a]),
    (.sli g d w, []), (.pany g d n, []), (.pall g d n, []), (.pcnt g d n, []), (.bra g td, []), (.bru g n true td, []),
    (.brc g n true td jd, []), (.brx g k td, []), (.join g, []), (.call g d td, []), (.calli g d a, [a]), (.ret g a, [a]),
    (.exit g, []), (.wait g n k d d, []), (.tstf g d n, []), (.canf g d n, []), (.yield g n k k a b, [a, b]), (.rget g d b, [b]),
    (.launch g d a b, [a, b]) ]

/-- Where the guard fails in every active lane an instruction that acts once has no effect and the path goes on (R281). -/
def GuardFailsEverywhere : Prop :=
  ∀ (s : State) (x : Ictx) (g : Guard) (t : Ty) (cc : Cond) (d n k : Nat) (a b c : Operand) (td jd : BitVec 18) (w : Word)
    (i : Instr) (os : List Operand), (i, os) ∈ onceRows g t cc d n k a b c td jd w → Issues s x → Named x os →
    x.any g = false → GoesOn (exec i s) x

/-- Below level 2 an instruction that names a privileged register is illegal: class 1 SUB 6, whatever its guard (R216, R267). -/
def PrivilegedNamesTrap : Prop :=
  ∀ (s : State) (x : Ictx) (g : Guard) (t : Ty) (cc : Cond) (d n k : Nat) (a b c : Operand) (td jd : BitVec 18) (w : Word)
    (i : Instr) (os : List Operand), (i, os) ∈ onceRows g t cc d n k a b c td jd w → Issues s x → x.w.trap.level < 2 →
    (privOf os = true → Traps (exec i s) x (Trap.all 1 6 x.act 0)) ∧
    (∀ r, r.isPriv = true → Traps (exec (.srd g (.s d) r) s) x (Trap.all 1 6 x.act 0) ∧
      Traps (exec (.swr g r (.s d)) s) x (Trap.all 1 6 x.act 0)) ∧
    Traps (exec (.ctxs g d (.s d)) s) x (Trap.all 1 6 x.act 0) ∧ Traps (exec (.ctxl g (.s d)) s) x (Trap.all 1 6 x.act 0) ∧
    Traps (exec (.halt g) s) x (Trap.all 1 6 x.act 0)

/-- Going on, failing guards and privileged names (R127, R216, R263, R267, R281): the three parts above. -/
def Obligations.GoingOnOrNot : Prop := GoingOn ∧ GuardFailsEverywhere ∧ PrivilegedNamesTrap

/-! ### Predicates, special registers, branches, calls -/

/-- Predicate instructions (R286) and NOP's kin: OP 0 to 3 write pD in each active lane whose guard holds and nothing where D is
7; PANY, PALL and PCNT write sD with what holds over the active lanes. PAND, POR, PXOR, PNOT, PANY, PALL and PCNT complete under
the conditions named. -/
def Obligations.PredicateInstructions : Prop :=
  ∀ (s : State) (x : Ictx) (g : Guard) (d a b : Nat), Issues s x →
    (∀ (i : Instr) (f : Bool → Bool → Bool),
      ((i = .pand g d a b ∧ f = and) ∨ (i = .por g d a b ∧ f = or) ∨ (i = .pxor g d a b ∧ f = xor) ∨
        (i = .pnot g d a ∧ f = fun u _ => !u)) →
      (d = 7 → GoesOn (exec i s) x) ∧
      (d ≠ 7 → KMap.rising x.w.vr.p = true → CompletesWith (exec i s) fun t => ∃ r : Mask, t = x.then' (x.w.setP d r) ∧
        ∀ l, l < 128 → Mask.has r l = if Mask.has (x.lanes g) l = true
          then f (Mask.has (x.w.pred a) l) (Mask.has (x.w.pred b) l) else Mask.has (x.w.pred d) l)) ∧
    (x.any g = true →
      WritesScalar (exec (.pany g d a) s) x d (if x.act &&& x.w.pred a = 0 then 0 else 1) ∧
      WritesScalar (exec (.pall g d a) s) x d (if x.act &&& ~~~(x.w.pred a) = 0 then 1 else 0) ∧
      WritesScalar (exec (.pcnt g d a) s) x d
        (BitVec.ofNat 64 ((List.range 128).countP fun l => Mask.has (x.act &&& x.w.pred a) l)))

/-- What a special register reads that the warp or its gang holds (R115, R219, R267). -/
def specialRows (x : Ictx) (lane : Nat) : List (Spec × Word) :=
  let t := x.w.trap
  [ (.lane, BitVec.ofNat 64 lane), (.width, BitVec.ofNat 64 x.w.width),
    (.warp, BitVec.ofNat 64 (4 * x.w.id.slot + x.w.id.first)), (.wg, BitVec.ofNat 64 x.w.id.wg),
    (.mode, x.w.mode), (.flags, x.w.flags.setWidth 64), (.cyc, BitVec.ofNat 64 (x.s.cyc x.w.id.core)), (.utvec, t.utvec),
    (.tpc, if t.level = 0 then 0 else if t.level = 1 then t.tpc1 else t.tpc2),
    (.tcause, if t.level = 0 then 0 else if t.level = 1 then t.tcause1 else t.tcause2),
    (.taddr, KMap.get t.taddr 0 lane), (.tmask, if t.tmask.getLsbD lane then 1 else 0), (.xop, t.xop), (.xd, t.xd), (.xa, t.xa),
    (.xb, t.xb), (.xc, t.xc), (.ximm, t.ximm), (.xtype, t.xtype), (.gdim, (x.g.word 1).setWidth 60 |>.setWidth 64),
    (.level, BitVec.ofNat 64 t.level), (.utcause, t.tcause1), (.utpc, t.tpc1), (.vlt, BitVec.ofNat 64 x.g.vlt) ]

/-- SRD writes the special register's value to sD, or to vD in every active lane of the path; SWR writes each writable register
as the table gives it (R287). SRD and SWR complete under the conditions named. -/
def Obligations.SpecialRegisters : Prop :=
  ∀ (s : State) (x : Ictx) (g : Guard) (d : Nat) (a : Operand) (r : Spec) (v : Word), Issues s x →
    (Plain x g [.spec r] → (r, v) ∈ specialRows x 0 → WritesScalar (exec (.srd g (.s d) r) s) x d v) ∧
    (Plain x g [.spec r, .v d] → (r, v) ∈ specialRows x 0 → KMap.rising x.w.vr.v = true →
      WritesLanes (exec (.srd g (.v d) r) s) x d x.act fun _ => v) ∧
    (Plain x g [a] →
      let A := x.uni .b64 a
      exec (.swr g .mode a) s = .next (x.then' { x.w with mode := A &&& 0x1F03 }) ∧
      exec (.swr g .flags a) s = .next (x.then' { x.w with flags := A.setWidth 5 }) ∧
      exec (.swr g .utvec a) s = .next (x.then' { x.w with trap := { x.w.trap with utvec := A &&& 0x1FFFFFFFFFFFFF8 } }) ∧
      (x.w.trap.level = 0 → GoesOn (exec (.swr g .tpc a) s) x) ∧
      (x.w.trap.level = 1 → exec (.swr g .tpc a) s = .next (x.then' { x.w with trap := { x.w.trap with tpc1 := A } })) ∧
      (x.w.trap.level = 2 → exec (.swr g .tpc a) s = .next (x.then' { x.w with trap := { x.w.trap with tpc2 := A } })) ∧
      (x.w.trap.level = 2 → exec (.swr g .utpc a) s = .next (x.then' { x.w with trap := { x.w.trap with tpc1 := A } })))

/-- Branches (R122 to R124, R288): BRA moves the path to T = a + 8 TD; BRU does where every active lane is taken and else falls
through; BRC too, and falls through where none is taken; where some are, it opens a region with join J, members m, and the taken
lanes continue at T, the others at the next instruction on a new path; with no entry free it raises class 20. JOIN with no region,
or with one of another join, goes on; BRX beyond the chain is class 2 SUB 2. BRA, BRU, BRC and JOIN complete under the conditions
named. -/
def Obligations.Branches : Prop :=
  ∀ (s : State) (x : Ictx) (g : Guard) (bp k : Nat) (bs : Bool) (td jd : BitVec 18), Issues s x → x.any g = true →
    let T := x.p.pc + 8 * td.signExtend 64
    let J := x.p.pc + 8 * jd.signExtend 64
    let t := x.act &&& (if bs then ~~~(x.w.pred bp) else x.w.pred bp)
    exec (.bra g td) s = .next (x.goes x.w T) ∧
    (t = x.act → exec (.bru g bp bs td) s = .next (x.goes x.w T)) ∧
    (t ≠ x.act → GoesOn (exec (.bru g bp bs td) s) x) ∧
    (t = 0 → CompletesWith (exec (.brc g bp bs td jd) s) fun u => u = x.s.setWarp x.c.warp
      (x.w.setPath x.c.path (some { x.p with pc := x.p.pc + 8, sec := false }))) ∧
    (t = x.act → t ≠ 0 → CompletesWith (exec (.brc g bp bs td jd) s) fun u => u = x.s.setWarp x.c.warp
      (x.w.setPath x.c.path (some { x.p with pc := T, sec := false }))) ∧
    (t ≠ 0 → t ≠ x.act → x.w.freeEntries < (if x.w.freePlace = none then 2 else 1) →
      Traps (exec (.brc g bp bs td jd) s) x (Trap.all 20 0 x.act 0)) ∧
    (t ≠ 0 → t ≠ x.act → (if x.w.freePlace = none then 2 else 1) ≤ x.w.freeEntries → x.w.nseq < 0xFFFF →
      CompletesWith (exec (.brc g bp bs td jd) s) fun u => ∃ w e, u = x.s.setWarp x.c.warp w ∧
        x.w.freeEntry = some e ∧ w.region? e = some ⟨J, x.act, 0, 0, x.p.link⟩ ∧
        (w.path? x.c.path).map (fun p => (p.pc, p.mask, p.link)) = some (T, t, some e) ∧
        (∀ i, x.w.freePlace = some i →
          w.path? i = some (Path.start (x.p.pc + 8) (x.act &&& ~~~t) (some e)) ∧
          { w with stack := x.w.stack, nseq := x.w.nseq, paths := x.w.paths } = x.w) ∧
        (x.w.freePlace = none → ∃ j n, w.stack.getD j none = some ⟨.deferred (Path.start (x.p.pc + 8) (x.act &&& ~~~t) (some e)), n⟩ ∧
          { w with stack := x.w.stack, nseq := x.w.nseq, paths := x.w.paths } = x.w)) ∧
    (x.p.link = none → exec (.join g) s = .next (x.s.setWarp x.c.warp
      (x.w.setPath x.c.path (some { x.p with pc := x.p.pc + 8, sec := false })))) ∧
    (∀ r q, x.p.link = some r → x.w.region? r = some q → q.join ≠ x.p.pc → exec (.join g) s = .next (x.s.setWarp x.c.warp
      (x.w.setPath x.c.path (some { x.p with pc := x.p.pc + 8, sec := false })))) ∧
    ((x.w.chainOf x.p.link).length < k → Traps (exec (.brx g k td) s) x (Trap.all 2 2 x.act 0)) ∧
    (∀ r q, 1 ≤ k → (x.w.chainOf x.p.link)[k - 1]? = some r → x.w.region? r = some q → q.join ≠ T →
      Traps (exec (.brx g k td) s) x (Trap.all 2 2 x.act 0))

/-- Reconvergence (R123, R124): a JOIN at its region's join address adds the path's lanes to the arrived mask; while a member has
not arrived or been parked the path ends and a deferred path may take its place; the last one closes the region, and one path of
all that arrived or were parked continues after the JOIN, linked to the parent, in the place of the path that closed it. BRX to
region k's join parks the lanes there. JOIN and BRX complete under the conditions named. -/
def Obligations.Reconvergence : Prop :=
  ∀ (s : State) (x : Ictx) (g : Guard) (r n : Nat) (q : Region), Issues s x → x.any g = true → x.p.link = some r →
    x.w.stack.getD r none = some ⟨.region q, n⟩ → r < x.w.stack.length →
    let arr := q.arrived ||| x.act
    (q.join = x.p.pc → (q.members &&& ~~~x.w.exited) &&& ~~~(arr ||| q.parked) ≠ 0 →
      exec (.join g) s = .next (x.s.setWarp x.c.warp
        (({ x.w with stack := setAt x.w.stack r (some ⟨.region { q with arrived := arr }, n⟩) }.setPath x.c.path none).fillPlaces 4))) ∧
    (q.join = x.p.pc → (q.members &&& ~~~x.w.exited) &&& ~~~(arr ||| q.parked) = 0 →
      ((arr ||| q.parked) &&& ~~~x.w.exited) ≠ 0 →
      exec (.join g) s = .next (x.s.setWarp x.c.warp
        (({ x.w with stack := setAt x.w.stack r none }.setPath x.c.path
          (some (Path.start (x.p.pc + 8) ((arr ||| q.parked) &&& ~~~x.w.exited) q.parent))).fillPlaces 4))) ∧
    (∀ td : BitVec 18, q.join = x.p.pc + 8 * td.signExtend 64 →
      (q.members &&& ~~~x.act &&& ~~~x.w.exited) &&& ~~~(q.arrived ||| (q.parked ||| x.act)) ≠ 0 →
      exec (.brx g 1 td) s = .next (x.s.setWarp x.c.warp
        (({ x.w with stack := setAt x.w.stack r (some ⟨.region { q with members := q.members &&& ~~~x.act, parked := q.parked ||| x.act }, n⟩) }.setPath
          x.c.path none).fillPlaces 4)))

/-- Calls (R290) and EXIT (R125, R172, R291): CALL and CALLI write a + 8 to sD, the target read first; a misaligned target is
class 16 SUB 5 with the target in %taddr and nothing written; EXIT takes the active lanes out of the warp, in boosted mode it is
class 2 SUB 3. CALL, CALLI, RET and EXIT complete under the conditions named. -/
def Obligations.CallsAndExit : Prop :=
  ∀ (s : State) (x : Ictx) (g : Guard) (d : Nat) (a : Operand) (td : BitVec 18), Issues s x → Plain x g [a] →
    let A := x.uni .b64 a
    exec (.call g d td) s = .next (x.goes (x.w.setS d (x.p.pc + 8)) (x.p.pc + 8 * td.signExtend 64)) ∧
    (A &&& 7 = 0 → exec (.calli g d a) s = .next (x.goes (x.w.setS d (x.p.pc + 8)) A)) ∧
    (A &&& 7 = 0 → exec (.ret g a) s = .next (x.goes x.w A)) ∧
    (A &&& 7 ≠ 0 → Traps (exec (.calli g d a) s) x (Trap.all 16 5 x.act A) ∧ Traps (exec (.ret g a) s) x (Trap.all 16 5 x.act A)) ∧
    (x.w.boosted = true → Traps (exec (.exit g) s) x (Trap.all 2 3 x.act 0)) ∧
    (x.w.boosted = false → x.w.trap.level = 0 → x.p.link = none → (x.w.exited ||| x.act) &&& fullMask x.w.width ≠ fullMask x.w.width →
      exec (.exit g) s = .next (x.s.setWarp x.c.warp
        (({ x.w with exited := x.w.exited ||| x.act, stack := x.w.stack.map (leaveEntry x.act) }.setPath x.c.path none).fillPlaces 4))) ∧
    (x.w.boosted = false → CompletesWith (exec (.exit g) s) fun u =>
      u = ((x.s.setWarp x.c.warp (x.w.exitLanes x.c.path)).settleWarp x.c.warp))

/-! ### Handles, work and launches -/

/-- What TSTF writes for a handle (R293, R294): state in [63:62], recorded flags in [60:56] and status in [55:48] once DONE, the
operation in [47:44], a copy's fill pointer in [31:0]; 0 for an IDLE handle. -/
def handleWord (h : Handle) : Word :=
  match h.st with
  | .idle => 0
  | .pending => BitVec.ofNat 64 (2 ^ 62 + h.op * 2 ^ 44 + (if h.op = 0 then h.fill else 0))
  | .done => BitVec.ofNat 64 (2 ^ 63 + h.flags.toNat * 2 ^ 56 + h.status * 2 ^ 48 + h.op * 2 ^ 44 + (if h.op = 0 then h.fill else 0))

/-- The warp after a path with lanes `m` has observed handle `f` DONE: its tiles are covered and its writes go before what those lanes
do next (R190, R352), and its flags join %flags, once (R132). -/
def merged (m : Mask) (w : Warp) (f : Nat) : Warp :=
  if (w.handle f).st = .done then
    let v := w.coverHandle f m
    if (w.handle f).merged then v
    else { v with
      flags := w.flags ||| (w.handle f).flags
      handles := setAt w.handles f { w.handle f with merged := true } }
  else w

/-- WAIT, TSTF and CANF (R131, R132, R223, R292 to R295). WAIT with limits 63, 63, 31, 15 always completes and covers no handle; one
whose counters are above a limit leaves everything as it stands; else it merges the DONE handles of the copies or tiles counter
that it covers. TSTF writes the handle's word and INFO and merges a DONE handle's flags; where an enabled flag is merged below level
2, class 3 follows with HND; INFO of a PENDING post is its count so far. CANF answers 2 for a handle that is not PENDING, 0 where it cancels
a copy or a post, 1 where it does not. WAIT, TSTF and CANF complete under the conditions named. -/
def Obligations.WaitsAndHandles : Prop :=
  ∀ (s : State) (x : Ictx) (g : Guard) (ld st cp tl d f : Nat), Issues s x → x.any g = true → f < x.w.handles.length →
    let h := x.w.handle f
    let c := x.w.cnt
    (c.ld ≤ 63 → c.st ≤ 63 → c.cp ≤ 31 → c.tl ≤ 15 → GoesOn (exec (.wait g 63 63 31 15) s) x) ∧
    ((ld < c.ld ∨ st < c.st ∨ cp < c.cp ∨ tl < c.tl) → exec (.wait g ld st cp tl) s = .next s) ∧
    (c.ld ≤ ld → c.st ≤ st → c.cp ≤ cp → c.tl ≤ tl → x.mergeTrap (x.w.covers cp tl) = none →
      exec (.wait g ld st cp tl) s = .next (x.then' (
        if tl < 15 then ((x.w.covers cp tl).foldl (merged x.act) x.w).coverMoves (x.s.openMats x.c.warp)
        else (x.w.covers cp tl).foldl (merged x.act) x.w))) ∧
    (¬ (h.st = .done ∧ h.merged = false ∧ h.flags.toNat &&& x.w.enables ≠ 0 ∧ x.w.trap.level < 2) →
      exec (.tstf g d f) s = .next (x.then' (((merged x.act { x.w with work := x.w.work.see f h.fill x.act } f).setS d
        (handleWord h)).setS (d + 1) (if h.st = .done ∨ (h.st = .pending ∧ h.op = 5) then h.info else 0)))) ∧
    (h.st = .done → h.merged = false → h.flags.toNat &&& x.w.enables ≠ 0 → x.w.trap.level < 2 →
      exec (.tstf g d f) s = .next (x.take
        (x.then' (((merged x.act { x.w with work := x.w.work.see f h.fill x.act } f).setS d (handleWord h)).setS (d + 1) h.info))
        ⟨3, h.flags.toNat &&& x.w.enables, (Mask.lanes x.act).map fun l => (l, 0), true, some f⟩)) ∧
    (h.st ≠ .pending → WritesScalar (exec (.canf g d f) s) x d 2) ∧
    (h.st = .pending → (h.op = 0 → x.s.idleCopy x.c.warp f = none) → (h.op = 5 → x.s.idlePost x.c.warp f = none) →
      WritesScalar (exec (.canf g d f) s) x d 1) ∧
    (∀ k, h.st = .pending → h.op = 5 → x.s.idlePost x.c.warp f = some k →
      exec (.canf g d f) s = .next
        (let w := { x.w with
            handles := setAt x.w.handles f { h with st := .done, status := 1, flags := 0, info := 0, merged := false } }.setS d 0
        { x.then' w with work := { (x.then' w).work with posts := KMap.erase x.s.work.posts k } })) ∧
    (∀ k, h.st = .pending → h.op = 0 → x.s.idleCopy x.c.warp f = some k →
      exec (.canf g d f) s = .next
        (let w := ({ x.w with
            handles := setAt x.w.handles f { h with st := .done, status := 1, flags := 0, info := 0, merged := false }
            cnt := { c with cp := c.cp - 1 } }).setS d 0
        { x.then' w with work := { (x.then' w).work with copies := KMap.erase x.s.work.copies k } }))

/-- YIELD, RGET and LAUNCH (R109, R111, R196, R296 to R298). YIELD with no grace window, in boosted mode or in a handler has no
effect; in a window it stops the warp with its live set once every handle is IDLE or DONE. RGET takes max(MIN, ⌈remain ÷ K⌉) items, at
most what remains, of the range, and writes start and count; an index above 15 is class 19 SUB 2. LAUNCH answers 2, 3 or 1 with
nothing submitted, in this order, else 0 and the submission joins the buffer. YIELD, RGET and LAUNCH complete under the conditions
named. -/
def Obligations.YieldRgetLaunch : Prop :=
  ∀ (s : State) (x : Ictx) (g : Guard) (d n zf zc : Nat) (a b : Operand), Issues s x → Plain x g [a, b] →
    let i := (x.index 0 b).toNat
    let r := KMap.get (x.s.slot x.v).sched.ranges ⟨0, 0, 0, 0⟩ i
    let k := if r.remain = 0 then 0 else min (max r.min ((r.remain + r.k - 1) / r.k)) r.remain
    let A := x.index 0 a
    let held := (x.s.slot x.v).win.port.length
    ((x.s.slot x.v).sched.grace = false ∨ x.g.yg = false ∨ x.w.boosted = true ∨ x.w.trap.level ≠ 0 →
      GoesOn (exec (.yield g n zf zc a b) s) x) ∧
    ((x.s.slot x.v).sched.grace = true → x.g.yg = true → x.w.boosted = false → x.w.trap.level = 0 →
      (∀ h ∈ x.w.handles, h.st ≠ .pending) →
      exec (.yield g n zf zc a b) s = .next (x.then' { x.w with work := { x.w.work with
        yielded := some (x.liveSet n zf zc (x.index 0 a).toNat (x.index 0 b).toNat) } })) ∧
    (15 < i → Traps (exec (.rget g d b) s) x (Trap.all 19 2 x.act 0)) ∧
    (i ≤ 15 → exec (.rget g d b) s = .next ((x.then' ((x.w.setS d (BitVec.ofNat 64 r.next)).setS (d + 1) (BitVec.ofNat 64 k))).modSched x.v
      fun c => { c with ranges := KMap.set c.ranges ⟨0, 0, 0, 0⟩ i { r with next := r.next + k, remain := r.remain - k } })) ∧
    (63 < i → WritesScalar (exec (.launch g d a b) s) x d 2) ∧
    (i ≤ 63 → A &&& 0xFF ≠ 0 → WritesScalar (exec (.launch g d a b) s) x d 3) ∧
    (i ≤ 63 → A &&& 0xFF = 0 → 256 ≤ held → WritesScalar (exec (.launch g d a b) s) x d 1) ∧
    (i ≤ 63 → A &&& 0xFF = 0 → held < 256 → exec (.launch g d a b) s = .next ((x.then' (x.w.setS d 0)).modSlot x.v fun y =>
      { y with win := { y.win with port := y.win.port ++ [⟨A, i, some (x.c.warp, x.before)⟩] } }))

/-- SPLIT (R116, R117): the first code of FZ_WIDTH, FZ_ALLOC, FZ_DIVERGED, FZ_PENDING that applies, with nothing else changed; with none,
the children of width ÷ f lanes each at the next instruction, child j's lane l with the vector registers and predicates of lane j × width ÷
f + l, code 0 in sD and idle handles (the lowest child keeps the handles that are DONE and merged: the model's choice, log entry 93);
barrier events on no counter go first; inside an inverse it is class 2 SUB 3. SPLIT completes under the conditions named. -/
def SplitWidth : Prop :=
  ∀ (s : State) (x : Ictx) (g : Guard) (d f : Nat), Issues s x → x.any g = true → x.w.trap.level = 0 → x.w.task.st ≠ .replay →
    let ok := (x.w.width = 32 ∧ (f = 2 ∨ f = 4)) ∨ (x.w.width = 16 ∧ f = 2) ∨ (x.w.width = 64 ∧ f = 2) ∨ (x.w.width = 128 ∧ f = 4)
    (x.w.width ∈ [8, 16, 32, 64, 128] → ¬ ok → WritesScalar (exec (.split g d f) s) x d 5) ∧
    (ok → x.w.boosted = true → WritesScalar (exec (.split g d f) s) x d 2) ∧
    (ok → x.w.boosted = false → x.w.diverged = true → WritesScalar (exec (.split g d f) s) x d 3) ∧
    (ok → x.w.boosted = false → x.w.diverged = false → x.w.pending = true → WritesScalar (exec (.split g d f) s) x d 4) ∧
    (x.w.width = 32 → f = 2 → x.w.boosted = false → x.w.diverged = false → x.w.pending = false → x.w.mergeAllTraps x.w.enables = [] →
      x.w.exited = 0 → x.act = fullMask 32 → x.c.warp < x.s.work.nextWarp → x.w.work.ops = [] → KMap.rising x.w.set.s = true →
      KMap.rising x.w.vr.v = true → KMap.rising x.w.vr.p = true →
      CompletesWith (exec (.split g d f) s) fun t =>
        ∀ j, j < 2 → ∃ w, t.warp? (if j = 0 then x.c.warp else x.s.work.nextWarp) = some w ∧
          w.id = { x.w.id with first := x.w.id.first + 2 * j } ∧ w.width = 16 ∧ w.sreg d = 0 ∧ (∀ n, n ≠ d → w.sreg n = x.w.sreg n) ∧
          (w.path? 0).map (fun p => (p.pc, p.mask)) = some (x.p.pc + 8, fullMask 16) ∧
          w.mode = x.w.mode ∧
          (∀ n l, l < 16 → w.vreg n l = x.w.vreg n (16 * j + l)) ∧
          (∀ n l, n < 7 → l < 16 → Mask.has (w.pred n) l = Mask.has (x.w.pred n) (16 * j + l)) ∧
          (j ≠ 0 → w.handles = List.replicate 16 Handle.idle) ∧
          (j = 0 → x.w.handles.length = 16 → ∀ i, i < 16 → w.handle i =
            if (x.w.handle i).st = .done ∧ (x.w.handle i).merged = false then Handle.idle else x.w.handle i)) ∧
    (ok → x.w.boosted = false → x.w.diverged = false → x.w.pending = false → x.w.work.ops ≠ [] → exec (.split g d f) s = .next s)

/-- FUSE (R116, R118 to R120): FZ_WIDTH, FZ_ALIGN and FZ_ALLOC at issue with nothing else changed; a path at its rendezvous waits; the first
arrival waits there with its own limit; past the deadline the arrived of a gang on its cores receive FZ_TIMEOUT and go on; in a handler FUSE
and SPLIT are class 2 SUB 4, inside an inverse class 2 SUB 3. FUSE and FUSE_TIMEOUT complete under the conditions named. -/
def FuseWidth : Prop :=
  ∀ (s : State) (x : Ictx) (g : Guard) (d f tag : Nat) (lim : Operand), Issues s x → Plain x g [lim] →
    (x.w.trap.level ≠ 0 → Traps (exec (.fuse g d f tag lim) s) x (Trap.all 2 4 x.act 0) ∧
      Traps (exec (.split g d f) s) x (Trap.all 2 4 x.act 0)) ∧
    (x.w.trap.level = 0 → x.w.task.st = .replay → Traps (exec (.fuse g d f tag lim) s) x (Trap.all 2 3 x.act 0) ∧
      Traps (exec (.split g d f) s) x (Trap.all 2 3 x.act 0)) ∧
    (x.w.trap.level = 0 → x.w.task.st ≠ .replay →
      (x.p.rz = none → (f ≠ 2 ∧ f ≠ 4 ∨ x.w.width = 128 ∨ x.w.width = 64 ∧ f = 4) →
        WritesScalar (exec (.fuse g d f tag lim) s) x d 5) ∧
      (x.p.rz = none → (f = 2 ∨ f = 4) → x.w.width < 32 → 32 < x.w.width * f →
        WritesScalar (exec (.fuse g d f tag lim) s) x d 6) ∧
      (x.p.rz = none → (f = 2 ∨ f = 4) → x.w.width = 32 → x.w.boosted = true →
        (∀ j, j < f → s.partnerAt x.w (4 * (x.w.id.slot / f * f + j)) ≠ .misfit) → WritesScalar (exec (.fuse g d f tag lim) s) x d 2) ∧
      (x.p.rz = none → (f = 2 ∨ f = 4) → x.w.width = 32 → ∀ j, j < f → s.partnerAt x.w (4 * (x.w.id.slot / f * f + j)) = .misfit →
        WritesScalar (exec (.fuse g d f tag lim) s) x d 6) ∧
      (x.p.rz.isSome = true → exec (.fuse g d f tag lim) s = .next s) ∧
      (x.p.rz = none → x.s.fuseCheck x.w f = 0 →
        (∀ i ∈ x.s.partnerIds x.w f, ∀ w, x.s.warp? i = some w → w.waiting f tag = []) →
        let l := min (x.index 0 lim).toNat (2 ^ 32 - 1)
        exec (.fuse g d f tag lim) s = .next ((x.s.setWarp x.c.warp (x.w.modPath x.c.path fun p =>
            { p with rz := some ⟨f, tag, d, l, x.s.cyc x.w.id.core + l⟩ })).fuseSettle x.c.warp f tag))) ∧
    (∀ wid w e r, s.warp? wid = some w → w.livePaths = [e] → e.2.rz = some r → s.cyc w.id.core < r.deadline →
      exec (.fuseTimeout wid) s = .next s) ∧
    (∀ wid w, s.warp? wid = some w → s.gangOnCore w.id.gang = false → exec (.fuseTimeout wid) s = .next s) ∧
    (∀ wid w e r o v, s.warp? wid = some w → w.livePaths = [e] → e.2.rz = some r → r.deadline ≤ s.cyc w.id.core →
      s.gangOnCore w.id.gang = true → s.partnerIds w r.factor = [wid, o] → o ≠ wid → s.warp? o = some v → v.waiting r.factor r.tag = [] →
      CompletesWith (exec (.fuseTimeout wid) s) fun t =>
        t.warp? wid = some ((w.setS r.d 1).modPath e.1 fun p => { p with pc := p.pc + 8, rz := none, sec := false }) ∧
        t.warp? o = some v ∧ { t with work := { t.work with warps := s.work.warps } } = s)

/-- SPLIT and FUSE (R117, R318, R319): the two parts above. -/
def Obligations.WidthChanges : Prop := SplitWidth ∧ FuseWidth

/-! ### Vector instructions -/

/-- Sub-element `i` of a register under a type (R114). -/
def elem (t : Ty) (w : Word) (i : Nat) : BitVec t.width := w.extractLsb' (t.width * i) t.width

/-- What an INT sub-element stands for (R227). -/
def elemInt (t : Ty) (b : BitVec t.width) : Int := if t.signed then b.toInt else b.toNat

/-- An INT result: clamped to the type's range under S, else wrapped (R303). -/
def fitted (t : Ty) (sat : Bool) (v : Int) : BitVec t.width :=
  BitVec.ofInt t.width (if sat then
    (if t.signed then max (-2 ^ (t.width - 1)) (min (2 ^ (t.width - 1) - 1) v) else max 0 (min (2 ^ t.width - 1) v)) else v)

/-- The instruction writes vD in the lanes that take part, each sub-element by `r`, and changes nothing else (R299). -/
def WritesElems (o : Host.Outcome State Fault Refusal) (x : Ictx) (g : Guard) (t : Ty) (d : Nat)
    (r : Nat → (i : Nat) → BitVec t.width) : Prop :=
  ∃ f : Nat → Word, WritesLanes o x d (x.lanes g) f ∧
    ∀ l, Mask.has (x.lanes g) l = true → ∀ i, i < t.count → elem t (f l) i = r l i

/-- The frame in which a vector instruction writes v`d` from these sources: a register table in its form, and names that the path may
use (R267, R405). -/
def VecFrame (s : State) (x : Ictx) (d : Nat) (os : List Operand) : Prop :=
  Issues s x ∧ Named x (.v d :: os) ∧ KMap.rising x.w.vr.v = true

/-- INT arithmetic (R227, R303): each sub-element in each lane that takes part, wrapped or clamped under S, with no flag. VADD,
VSUB, VMUL, VFMA, VMULH, VMIN, VMAX, VABS and VNEG complete under the conditions named. -/
def Obligations.VectorIntegerArithmetic : Prop :=
  ∀ (s : State) (x : Ictx) (g : Guard) (t : Ty) (sat : Bool) (d : Nat) (a b c : Operand), t.isInt = true →
    VecFrame s x d [a, b, c] →
    let A (l i : Nat) : BitVec t.width := elem t (x.src t l a) i
    let B (l i : Nat) : BitVec t.width := elem t (x.src t l b) i
    let C (l i : Nat) : BitVec t.width := elem t (x.src t l c) i
    let v := elemInt t
    WritesElems (exec (.vadd g t sat d a b) s) x g t d (fun l i => fitted t sat (v (A l i) + v (B l i))) ∧
    WritesElems (exec (.vsub g t sat d a b) s) x g t d (fun l i => fitted t sat (v (A l i) - v (B l i))) ∧
    WritesElems (exec (.vmul g t sat d a b) s) x g t d (fun l i => fitted t sat (v (A l i) * v (B l i))) ∧
    WritesElems (exec (.vfma g t d a b c) s) x g t d (fun l i => A l i * B l i + C l i) ∧
    WritesElems (exec (.vmulh g t d a b) s) x g t d (fun l i => fitted t false (v (A l i) * v (B l i) / 2 ^ t.width)) ∧
    WritesElems (exec (.vmin g t d a b) s) x g t d (fun l i => if v (A l i) ≤ v (B l i) then A l i else B l i) ∧
    WritesElems (exec (.vmax g t d a b) s) x g t d (fun l i => if v (A l i) ≤ v (B l i) then B l i else A l i) ∧
    (t.signed = true →
      WritesElems (exec (.vabs g t sat d a) s) x g t d (fun l i => fitted t sat |v (A l i)|) ∧
      WritesElems (exec (.vneg g t sat d a) s) x g t d (fun l i => fitted t sat (-(v (A l i)))))

/-- Logic, shifts, bit fields, selection and moves (R306, R307): whole words for VAND, VOR, VXOR, VNOT, VSEL and VMOV; counts
modulo the width; VBFI keeps the old sub-element outside the field. VAND, VOR, VXOR, VNOT, VSEL, VMOV, VPERMS, VSHL, VSHR, VSRA,
VPOPC, VCLZ, VBFX and VBFI complete under the conditions named. -/
def Obligations.VectorLogicShiftsSelect : Prop :=
  ∀ (s : State) (x : Ictx) (g : Guard) (t : Ty) (d p : Nat) (a b : Operand) (k : Word), VecFrame s x d [a, b] →
    let A (l : Nat) := x.src t l a
    let B (l : Nat) := x.src t l b
    let m := x.lanes g
    let W := t.width
    WritesLanes (exec (.vand g t d a b) s) x d m (fun l => A l &&& B l) ∧
    WritesLanes (exec (.vor g t d a b) s) x d m (fun l => A l ||| B l) ∧
    WritesLanes (exec (.vxor g t d a b) s) x d m (fun l => A l ^^^ B l) ∧
    WritesLanes (exec (.vnot g t d a) s) x d m (fun l => ~~~(A l)) ∧
    WritesLanes (exec (.vsel g t d a b p) s) x d m (fun l => if Mask.has (x.w.pred p) l = true then A l else B l) ∧
    WritesLanes (exec (.vmov g t d (.inl a)) s) x d m A ∧
    WritesLanes (exec (.vmov g .b64 d (.inr k)) s) x d m (fun _ => k) ∧
    WritesElems (exec (.vperms g t d a b) s) x g t d (fun l i => elem t (A l) ((elem t (B l) i).toNat % t.count)) ∧
    (t ≠ .cb4 → t ≠ .b1 →
      let sh (l i : Nat) := (elem t (B l) i).toNat % W
      WritesElems (exec (.vshl g t d a b) s) x g t d (fun l i => elem t (A l) i <<< sh l i) ∧
      WritesElems (exec (.vshr g t d a b) s) x g t d (fun l i => elem t (A l) i >>> sh l i) ∧
      WritesElems (exec (.vsra g t d a b) s) x g t d (fun l i => (elem t (A l) i).sshiftRight (sh l i)) ∧
      WritesElems (exec (.vpopc g t d a) s) x g t d
        (fun l i => BitVec.ofNat W ((List.range W).countP fun j => (elem t (A l) i).getLsbD j)) ∧
      WritesElems (exec (.vclz g t d a) s) x g t d (fun l i => (elem t (A l) i).clz)) ∧
    (32 ≤ W →
      let pos (l i : Nat) := (elem t (B l) i).toNat % 64 % W
      let len (l i : Nat) := min ((elem t (B l) i).toNat / 64 % 128) W
      WritesElems (exec (.vbfx g t d a b) s) x g t d (fun l i =>
        let f := (elem t (A l) i >>> pos l i).setWidth (len l i)
        if t.signed then f.signExtend W else f.setWidth W) ∧
      ∃ r, WritesElems (exec (.vbfi g t d a b) s) x g t d r ∧
        ∀ l i j, j < W → (r l i).getLsbD j = (if pos l i ≤ j ∧ j < pos l i + len l i then (elem t (A l) i).getLsbD (j - pos l i)
          else (elem t (x.w.vreg d l) i).getLsbD j))

/-- The OR of the flags of all sub-elements of all lanes that take part. -/
def raised (m : Mask) (t : Ty) (r : Nat → Nat → FRes) : Nat :=
  (Mask.lanes m).foldl (fun f l => (List.range t.count).foldl (fun f i => f ||| (r l i).fl) f) 0

/-- The instruction writes vD in the lanes that take part with the bits of `r`, its flags join %flags, and nothing else changes. -/
def WritesFloats (o : Host.Outcome State Fault Refusal) (x : Ictx) (g : Guard) (t : Ty) (d : Nat) (r : Nat → Nat → FRes) : Prop :=
  ∃ w : Warp, o = .next (x.then' w) ∧
    (∀ n l, l < 128 → ¬ (n = d ∧ Mask.has (x.lanes g) l = true) → w.vreg n l = x.w.vreg n l) ∧
    (∀ l, Mask.has (x.lanes g) l = true → ∀ i, i < t.count → (elem t (w.vreg d l) i).toNat = (r l i).bits % 2 ^ t.width) ∧
    w.flags = x.w.flags ||| BitVec.ofNat 5 (raised (x.lanes g) t r) ∧
    { w with flags := x.w.flags, vr := { w.vr with v := x.w.vr.v } } = x.w

/-- No flag that the instruction raises traps: none is enabled, or the path stands at level 2 (R214, R222). -/
def NoNumericTrap (x : Ictx) (g : Guard) (t : Ty) (r : Nat → Nat → FRes) : Prop :=
  x.w.trap.level = 2 ∨ ∀ l, Mask.has (x.lanes g) l = true → ∀ i, i < t.count → (r l i).fl &&& x.w.enables = 0

/-- FLT instructions (R235 to R240, R303, R304, R308 to R310): each sub-element of each lane that takes part is the function of
the instruction under the warp's RM, and the flags of all lanes are ORed into %flags. The functions are the model's arithmetic, of
which FloatArithmeticRules states what R230, R236 and R240 fix. VADD, VSUB, VMUL, VFMA, VDIV, VSQRT, VMIN, VMAX, VABS, VNEG, VRND,
VRCP, VRSQ, VEXP2, VLOG2, VSIN, VCOS and VTANH complete under the conditions named. -/
def Obligations.VectorFloatInstructions : Prop :=
  ∀ (s : State) (x : Ictx) (g : Guard) (t : Ty) (rm : Rmo) (d : Nat) (a b c : Operand), t.isFlt = true →
    VecFrame s x d [a, b, c] →
    let f := fmtOf t
    let A (l i : Nat) := (elem t (x.src t l a) i).toNat
    let B (l i : Nat) := (elem t (x.src t l b) i).toNat
    let C (l i : Nat) := (elem t (x.src t l c) i).toNat
    let mode := (x.w.mode &&& 3).toNat
    let mo := match rm with | .mode => mode | .rne => 0 | .rtz => 1 | .rup => 2 | .rdn => 3
    (∀ (i : Instr) (r : Nat → Nat → FRes),
      (i, r) ∈ ([ (.vadd g t false d a b, fun l i => f.add mode (A l i) (B l i)),
        (.vsub g t false d a b, fun l i => f.sub mode (A l i) (B l i)),
        (.vmul g t false d a b, fun l i => f.mul mode (A l i) (B l i)),
        (.vfma g t d a b c, fun l i => f.fma mode (A l i) (B l i) (C l i)),
        (.vdiv g t d a b, fun l i => f.div mode (A l i) (B l i)),
        (.vsqrt g t d a, fun l i => f.sqrt mode (A l i)),
        (.vmin g t d a b, fun l i => f.pick false (A l i) (B l i)), (.vmax g t d a b, fun l i => f.pick true (A l i) (B l i)),
        (.vabs g t false d a, fun l i => ⟨A l i % f.signBit, 0⟩),
        (.vneg g t false d a, fun l i => ⟨if A l i < f.signBit then A l i + f.signBit else A l i - f.signBit, 0⟩),
        (.vrnd g t rm d a, fun l i => ⟨(f.toIntegral mo (A l i)).bits, if f.isSnan (A l i) then flNV else 0⟩),
        (.vrcp g t d a, fun l i => f.special 0 mode (A l i)), (.vrsq g t d a, fun l i => f.special 1 mode (A l i)),
        (.vexp2 g t d a, fun l i => f.special 2 mode (A l i)), (.vlog2 g t d a, fun l i => f.special 3 mode (A l i)),
        (.vsin g t d a, fun l i => f.special 4 mode (A l i)), (.vcos g t d a, fun l i => f.special 5 mode (A l i)),
        (.vtanh g t d a, fun l i => f.special 6 mode (A l i)) ] : List (Instr × (Nat → Nat → FRes))) →
      NoNumericTrap x g t r → WritesFloats (exec i s) x g t d r)

/-- Numeric traps (R214, R217, R222): where a lane that takes part raises an enabled flag below level 2, VADD raises class 3 precisely
on every lane that raised one, with SUB the enabled flags of the lowest such lane; the flags stay, and no destination is written. -/
def NumericTrapsArePrecise : Prop :=
  ∀ (s : State) (x : Ictx) (g : Guard) (t : Ty) (d : Nat) (a b : Operand), t.isFlt = true → VecFrame s x d [a, b] →
    let r (l i : Nat) := (fmtOf t).add (x.w.mode &&& 3).toNat (elem t (x.src t l a) i).toNat (elem t (x.src t l b) i).toNat
    let fl (l : Nat) := (List.range t.count).foldl (fun f i => f ||| (r l i).fl) 0
    let hit := (Mask.lanes (x.lanes g)).filter fun l => fl l &&& x.w.enables != 0
    x.w.trap.level < 2 → hit ≠ [] →
      exec (.vadd g t false d a b) s = .next (x.take
        (x.s.setWarp x.c.warp { x.w with flags := x.w.flags ||| BitVec.ofNat 5 (raised (x.lanes g) t r) })
        ⟨3, fl (hit.headD 0) &&& x.w.enables, hit.map fun l => (l, 0), false, none⟩)

/-- The IEEE formats: f16, bf16, f32, f64 (R228). -/
def formats : List Fmt := [.f16, .bf16, .f32, .f64]

/-- What the arithmetic's rules fix (R230, R236, R240, R304), in every format and rounding mode: a NaN operand gives the first NaN
quieted, invalid operations the canonical NaN with NV, a zero divisor an infinity with DZ; VMIN and VMAX return the number beside
a NaN and order −0 below +0; and rounding towards zero delivers the last encoding that does not pass the exact value, flagged NX
where it differs. -/
def FloatArithmeticRules : Prop :=
  ∀ f ∈ formats, ∀ (rm a b : Nat), rm < 4 → a < 2 * f.signBit → b < 2 * f.signBit →
    let one := f.bias.toNat * 2 ^ f.fb
    (f.isNan a = true → (f.add rm a b).bits = f.quieted a ∧ (f.mul rm a b).bits = f.quieted a ∧ (f.div rm a b).bits = f.quieted a) ∧
    (f.isNan a = false → f.isNan b = true → (f.add rm a b).bits = f.quieted b ∧ (f.pick true a b).bits = a ∧ (f.pick false a b).bits = a) ∧
    f.add rm f.infBits (f.infBits + f.signBit) = ⟨f.canon, flNV⟩ ∧ f.mul rm 0 f.infBits = ⟨f.canon, flNV⟩ ∧
    f.div rm 0 0 = ⟨f.canon, flNV⟩ ∧ f.div rm f.infBits f.infBits = ⟨f.canon, flNV⟩ ∧ f.div rm one 0 = ⟨f.infBits, flDZ⟩ ∧
    f.sqrt rm (one + f.signBit) = ⟨f.canon, flNV⟩ ∧ f.sqrt rm f.signBit = ⟨f.signBit, 0⟩ ∧
    f.pick false 0 f.signBit = ⟨f.signBit, 0⟩ ∧ f.pick true f.signBit 0 = ⟨0, 0⟩ ∧
    f.special 0 rm 0 = ⟨f.infBits, flDZ⟩ ∧ f.special 1 rm f.signBit = ⟨f.infBits + f.signBit, flDZ⟩ ∧
    f.special 0 rm f.infBits = ⟨0, 0⟩ ∧ f.special 3 rm 0 = ⟨f.infBits + f.signBit, flDZ⟩ ∧ f.special 3 rm one = ⟨0, 0⟩ ∧
    f.special 2 rm (f.infBits + f.signBit) = ⟨0, 0⟩ ∧ f.special 2 rm f.infBits = ⟨f.infBits, 0⟩ ∧ f.special 2 rm 0 = ⟨one, 0⟩ ∧
    f.special 4 rm f.infBits = ⟨f.canon, flNV⟩ ∧ f.special 4 rm f.signBit = ⟨f.signBit, 0⟩ ∧ f.special 5 rm 0 = ⟨one, 0⟩ ∧
    f.special 6 rm f.infBits = ⟨one, 0⟩ ∧ f.special 6 rm f.signBit = ⟨f.signBit, 0⟩ ∧
    ∀ (m : Nat) (e : Int), m ≠ 0 →
      let r := f.round 1 false m e
      let v : FV := .fin false m e
      (r.fl &&& flOF = 0 → FV.lt v (f.dec r.bits) = false ∧ FV.lt v (f.dec (r.bits + 1)) = true ∧
        (r.fl &&& flNX = 0 ↔ FV.eq v (f.dec r.bits) = true)) ∧
      (r.fl &&& flOF ≠ 0 → r.bits = f.infBits - 1 ∧ FV.lt (f.dec (f.infBits - 1)) v = true)

/-- Float arithmetic and numeric traps (R222, R229 to R241): the two parts above. -/
def Obligations.FloatRulesAndTraps : Prop := NumericTrapsArePrecise ∧ FloatArithmeticRules

/-- VCMP and conversions (R238, R305, R308): a lane's predicate says whether every, or with MODE 1 any, sub-element holds; a NaN
operand is unordered and unequal; a signalling one sets NV. Integers widen by their sign, narrow to the low bits or clamp; other
conversions are those of R238 under RMO or %mode; VPACK puts b's above a's; VUNPK takes part p of the source. VCMP, VCVT, VPACK
and VUNPK complete under the conditions named. -/
def Obligations.VectorComparesConversions : Prop :=
  ∀ (s : State) (x : Ictx) (g : Guard) (t st : Ty) (cc : Cond) (any sat : Bool) (rm : Rmo) (d p : Nat) (a b : Operand),
    let A (l i : Nat) := elem t (x.src t l a) i
    let B (l i : Nat) := elem t (x.src t l b) i
    let yes (l i : Nat) : Bool := holds t.signed cc (A l i) (B l i)
    let yesF (l i : Nat) : Bool :=
      let n := (fmtOf t).isNan (A l i).toNat || (fmtOf t).isNan (B l i).toNat
      let lt := FV.lt ((fmtOf t).dec (A l i).toNat) ((fmtOf t).dec (B l i).toNat)
      let gt := FV.lt ((fmtOf t).dec (B l i).toNat) ((fmtOf t).dec (A l i).toNat)
      match cc with
      | .eq => !n && !lt && !gt | .ne => n || lt || gt | .lt => !n && lt | .le => !n && !gt | .gt => !n && gt | .ge => !n && !lt | .un => n
    let S (l i : Nat) := elem st (x.src st l a) i
    let S2 (l i : Nat) := elem st (x.src st l b) i
    let conv (v : BitVec st.width) : BitVec t.width := fitted t sat (elemInt st v)
    (t.isInt = true → p ≠ 7 → Issues s x → Named x [a, b] → KMap.rising x.w.vr.p = true →
      CompletesWith (exec (.vcmp g t cc any p a b) s) fun u => ∃ r : Mask, u = x.then' (x.w.setP p r) ∧
        ∀ l, l < 128 → Mask.has r l = if Mask.has (x.lanes g) l = true
          then (if any then (List.range t.count).any (yes l) else (List.range t.count).all (yes l)) else Mask.has (x.w.pred p) l) ∧
    (t.isFlt = true → p ≠ 7 → Issues s x → Named x [a, b] → x.w.enables = 0 → KMap.rising x.w.vr.p = true →
      CompletesWith (exec (.vcmp g t cc any p a b) s) fun u => ∃ r : Mask,
        u = x.then' ({ x.w with flags := x.w.flags ||| BitVec.ofNat 5 (raised (x.lanes g) t fun l i =>
          ⟨0, if (fmtOf t).isSnan (A l i).toNat || (fmtOf t).isSnan (B l i).toNat then flNV else 0⟩) }.setP p r) ∧
        ∀ l, l < 128 → Mask.has r l = if Mask.has (x.lanes g) l = true
          then (if any then (List.range t.count).any (yesF l) else (List.range t.count).all (yesF l)) else Mask.has (x.w.pred p) l) ∧
    (p = 7 → t.isInt = true → Issues s x → Named x [a, b] → GoesOn (exec (.vcmp g t cc any p a b) s) x) ∧
    (t.isInt = true → st.isInt = true → VecFrame s x d [a, b] →
      WritesElems (exec (.vcvt g t st sat rm d a) s) x g t d (fun l i => if i < st.count then conv (S l i) else 0) ∧
      (t.count = 2 * st.count → WritesElems (exec (.vpack g t st sat d a b) s) x g t d
        (fun l i => if i < st.count then conv (S l i) else conv (S2 l (i - st.count)))) ∧
      (t.count < st.count → sat = false → WritesElems (exec (.vunpk g t st d a b) s) x g t d
        (fun l i => conv (S l ((x.index l b).toNat % (st.count / t.count) * t.count + i))))) ∧
    (t.isFlt = true ∨ st.isFlt = true → VecFrame s x d [a] → sat = false →
      let mo := match rm with | .mode => (x.w.mode &&& 3).toNat | .rne => 0 | .rtz => 1 | .rup => 2 | .rdn => 3
      let r (l i : Nat) : FRes := if i < st.count then convElem t st sat mo (S l i).toNat else ⟨0, 0⟩
      NoNumericTrap x g t r → WritesFloats (exec (.vcvt g t st sat rm d a) s) x g t d r)

/-! ### Cross-lane instructions -/

/-- Lanes of a group at a width (R311). -/
def groupLanes (width : Nat) : Grp → Nat
  | .whole => width
  | .g8 => min 8 width
  | .g16 => min 16 width

/-- Shuffles (R311 to R313): element e of lane L's group receives element j of it, wrapped to the group: the n16 index of SHFL's
index registers or IMM, e xor, minus or plus delta. Sources are read from lanes that take part and from lanes that do not. SHFL,
SHFLX, SHFLUP, SHFLDN and BCST complete under the conditions named. -/
def Obligations.Shuffles : Prop :=
  ∀ (s : State) (x : Ictx) (g : Guard) (t : Ty) (grp : Grp) (d k : Nat) (a b : Operand), t ≠ .b1 →
    x.w.width ∈ [8, 16, 32, 64, 128] → VecFrame s x d [a, b] →
    let n := groupLanes x.w.width grp
    let base (l : Nat) := n * (l / n)
    let e (l i : Nat) := (l - base l) * t.count + i
    let N := n * t.count
    let at' (l j : Nat) : BitVec t.width := elem t (x.src t (base l + j % N / t.count) a) (j % N % t.count)
    let delta := (x.index 0 b).toNat
    (Named x [.v d, a, .v (k + (t.count - 1) / 4)] → WritesElems (exec (.shfl g t grp d a (.v k)) s) x g t d
      (fun l i => at' l (elem .n16 (x.w.vreg (k + i / 4) l) (i % 4)).toNat)) ∧
    (∀ imm : BitVec 18, WritesElems (exec (.shfl g t grp d a (.imm imm)) s) x g t d (fun l _ => at' l (imm.signExtend 64).toNat)) ∧
    WritesElems (exec (.shflx g t grp d a b) s) x g t d (fun l i => at' l (e l i ^^^ delta)) ∧
    WritesElems (exec (.shflup g t grp d a b) s) x g t d (fun l i => at' l (e l i + (N - delta % N))) ∧
    WritesElems (exec (.shfldn g t grp d a b) s) x g t d (fun l i => at' l (e l i + delta)) ∧
    WritesLanes (exec (.bcst g t grp d a b) s) x d (x.lanes g) (fun l => x.src t (base l + delta % n) a)

/-- The elements of lane `l`'s group whose lanes take part, in ascending e, as lane and sub-element (R314). -/
def groupPart (x : Ictx) (g : Guard) (t : Ty) (grp : Grp) (l : Nat) : List (Nat × Nat) :=
  let n := groupLanes x.w.width grp
  ((List.range 128).filter fun k => k / n == l / n && Mask.has (x.lanes g) k).flatMap fun k => (List.range t.count).map fun i => (k, i)

/-- combine of INT elements (R314). -/
def combineInt (t : Ty) (r : Rop) (a b : BitVec t.width) : BitVec t.width :=
  match r with
  | .add => a + b
  | .min => if elemInt t b < elemInt t a then b else a
  | .max => if elemInt t a < elemInt t b then b else a
  | .land => a &&& b
  | .lor => a ||| b
  | .lxor => a ^^^ b

/-- Reduce, scan and ballot on INT types (R311, R314, R316): VRED writes the combination of the group's elements whose lanes take
part to every sub-element of those lanes, or of sD once; VSCAN element x receives the combination up to it, or before it with the
identity first; VBALLOT's mask has the lanes that take part in which pA holds. VRED, VSCAN and VBALLOT complete under the
conditions named. -/
def ReduceScanBallot : Prop :=
  ∀ (s : State) (x : Ictx) (g : Guard) (t : Ty) (rop : Rop) (grp : Grp) (d p : Nat) (a : Operand), t.isInt = true →
    x.w.width ∈ [8, 16, 32, 64, 128] → VecFrame s x d [a] → (∀ l, x.w.width ≤ l → Mask.has x.act l = false) →
    let P (l : Nat) := groupPart x g t grp l
    let val (e : Nat × Nat) : BitVec t.width := elem t (x.src t e.1 a) e.2
    let fold : List (Nat × Nat) → BitVec t.width := fun es => (es.tail.map val).foldl (combineInt t rop) (val (es.headD (0, 0)))
    let least : BitVec t.width := if t.signed then BitVec.intMin t.width else 0
    let unit : BitVec t.width := match rop with
      | .add | .lor | .lxor => 0 | .land => BitVec.allOnes _ | .min => ~~~least | .max => least
    let votes := x.lanes g &&& x.w.pred p
    WritesElems (exec (.vred g t rop grp (.v d) a) s) x g t d (fun l _ => fold (P l)) ∧
    (x.lanes g ≠ 0 → grp = .whole → CompletesWith (exec (.vred g t rop grp (.s d) a) s) fun u =>
      ∃ r, u = x.then' (x.w.setS d r) ∧ ∀ i, i < t.count → elem t r i = fold (P 0)) ∧
    WritesElems (exec (.vscan g t rop grp false d a) s) x g t d
      (fun l i => fold ((P l).filter fun e => e.1 < l || (e.1 == l && e.2 ≤ i))) ∧
    WritesElems (exec (.vscan g t rop grp true d a) s) x g t d
      (fun l i => let es := (P l).filter fun e => e.1 < l || (e.1 == l && e.2 < i)
        if es = [] then unit else fold es) ∧
    (x.lanes g ≠ 0 → exec (.vballot g .whole (.s d) p) s =
      .next (x.then' ((x.w.setS d (votes.setWidth 64)).setS (d + 1) (votes.extractLsb' 64 64)))) ∧
    (x.lanes g = 0 → GoesOn (exec (.vballot g .whole (.s d) p) s) x) ∧
    (∃ f : Nat → Word, WritesLanes (exec (.vballot g grp (.v d) p) s) x d (x.lanes g) f ∧
      ∀ l i, Mask.has (x.lanes g) l = true → i < 64 →
        let n := groupLanes x.w.width grp
        (f l).getLsbD i = (if n ≤ 64 then decide (i < n) && Mask.has votes (n * (l / n) + i) else Mask.has votes (64 * (l / 64) + i)))

/-- FLT reductions and scans (R314): VRED and VSCAN add strictly in ascending e, each step rounded once; min and max are those of R304.
VRED writes the last value to the lanes that take part, or to both halves of sD once; VSCAN writes each value as it is formed, or the one
before it with the identity first. The flags of every step join `%flags`. VRED and VSCAN complete under the conditions named. -/
def FloatReduction : Prop :=
  ∀ (s : State) (x : Ictx) (g : Guard) (t : Ty) (rop : Rop) (grp : Grp) (d : Nat) (a : Operand), t.isFlt = true →
    (rop = .add ∨ rop = .min ∨ rop = .max) → x.w.width ∈ [8, 16, 32, 64, 128] → VecFrame s x d [a] → x.w.enables = 0 →
    (∀ l, x.w.width ≤ l → Mask.has x.act l = false) →
    let f := fmtOf t
    let P (l : Nat) := groupPart x g t grp l
    let step (r : Nat × Nat) (v : Nat) : Nat × Nat :=
      let q : FRes := match rop with | .min => f.pick false r.1 v | .max => f.pick true r.1 v | _ => f.add (x.w.mode &&& 3).toNat r.1 v
      (q.bits, r.2 ||| q.fl)
    let val (e : Nat × Nat) : Nat := (elem t (x.src t e.1 a) e.2).toNat
    let fold : List (Nat × Nat) → Nat × Nat := fun es => (es.tail.map val).foldl step (val (es.headD (0, 0)), 0)
    let unit : Nat := match rop with | .min => f.infBits | .max => f.infBits + f.signBit | _ => 0
    let flags := (List.range 128).foldl (fun (b : BitVec 5) l => if Mask.has (x.lanes g) l then b ||| BitVec.ofNat 5 (fold (P l)).2 else b) x.w.flags
    let writes (o : Host.Outcome State Fault Refusal) (r : Nat → Nat → Nat) : Prop :=
      ∃ w : Warp, o = .next (x.then' w) ∧ w.flags = flags ∧
        (∀ n l, l < 128 → ¬ (n = d ∧ Mask.has (x.lanes g) l = true) → w.vreg n l = x.w.vreg n l) ∧
        (∀ l, Mask.has (x.lanes g) l = true → ∀ i, i < t.count → (elem t (w.vreg d l) i).toNat = r l i % 2 ^ t.width) ∧
        { w with flags := x.w.flags, vr := { w.vr with v := x.w.vr.v } } = x.w
    writes (exec (.vred g t rop grp (.v d) a) s) (fun l _ => (fold (P l)).1) ∧
    writes (exec (.vscan g t rop grp false d a) s) (fun l i => (fold ((P l).filter fun e => e.1 < l || (e.1 == l && e.2 ≤ i))).1) ∧
    writes (exec (.vscan g t rop grp true d a) s) (fun l i =>
      let es := (P l).filter fun e => e.1 < l || (e.1 == l && e.2 < i)
      if es = [] then unit else (fold es).1) ∧
    (x.lanes g ≠ 0 → grp = .whole → ∃ r, exec (.vred g t rop grp (.s d) a) s = .next (x.then' ({ x.w with flags := flags }.setS d r)) ∧
      ∀ i, i < t.count → (elem t r i).toNat = (fold (P 0)).1 % 2 ^ t.width)

/-- VRED, VSCAN and VBALLOT (R311 to R317): the two parts above. -/
def Obligations.ReductionsAndScans : Prop := ReduceScanBallot ∧ FloatReduction

/-! ### Memory instructions -/

/-- One lane's accesses, resolved one after the other: where they lead, and the state with what translation cached; none where one
does not resolve. -/
def resolveLane (v : Nat) (g : Gang) : State → List (Space × Word × Nat × Acc) → Option (List Target × State)
  | s, [] => some ([], s)
  | s, (sp, a, n, acc) :: es =>
    match s.resolve v g sp a n acc with
    | (.error _, _) => none
    | (.ok t, s1) => (resolveLane v g s1 es).map fun r => (t :: r.1, r.2)

/-- The same for the lanes in turn. -/
def resolveLanes (v : Nat) (g : Gang) (accs : Nat → List (Space × Word × Nat × Acc)) :
    State → List Nat → Option (List (Nat × List Target) × State)
  | s, [] => some ([], s)
  | s, l :: ls =>
    match resolveLane v g s (accs l) with
    | none => none
    | some (ts, s1) => (resolveLanes v g accs s1 ls).map fun r => ((l, ts) :: r.1, r.2)

/-- A form of a memory instruction: its operands, the operation that it issues, and for each lane whether its address and values are
allowed, its accesses, which targets permit it, and its atomic pieces (R194, R324). -/
structure MemRow where
  i : Instr
  os : List Operand
  op : MemOp
  fits : Nat → Bool
  accs : Nat → List (Space × Word × Nat × Acc)
  permits : List Target → Bool
  lanes : Nat → List Target → List LaneOp

def laneOp (l : Nat) (a : Word) (p : Place) (n : Nat) (data cmp : List Word) : LaneOp := ⟨l, a, p, none, n, data, cmp, false, false⟩

def placeOf (ts : List Target) : Place := ((ts.head?).map (·.place)).getD (.host 0)

/-- An operation of kind `k` (R183, R185). -/
def opOf (k : OpKind) (scope : Scope) (acq rel : Bool) (dst : Option Nat) (pair : Bool) : MemOp :=
  { id := 0, kind := k, strong := decide (scope ≠ .plain), scope := scope, acq := acq, rel := rel, scalar := false, dst := dst
    pair := pair, lanes := [], reach := 0, after := [], tells := [] }

/-- Loads and stores per lane (R324): the address is a + (b << SC), aligned to its size or to 8 bytes; LDV and STV always address the
vault; LDA acquires, STL releases; X2 moves two registers in two pieces where the 16 bytes cross a 32-byte block or lie in host memory. -/
def accessRows (x : Ictx) (g : Guard) (m : MemOpt) (d : Nat) (dv a b : Operand) : List MemRow :=
  let n := if m.x2 then 16 else 2 ^ m.sz
  let addr (l : Nat) : Word := x.src .b64 l a + x.index l b <<< m.sc
  let data (l : Nat) : List Word := if m.x2 then [x.src .b64 l dv, x.src .b64 l (Operand.next dv 1)] else [x.src .b64 l dv]
  let row (i : Instr) (load : Bool) (sp : Space) (acq rel : Bool) : MemRow :=
    let acc := if load then Acc.read else Acc.write
    { i := i
      os := if load then [a, b, .v (d + (if m.x2 then 1 else 0))] else [a, b, dv, Operand.next dv (if m.x2 then 1 else 0)]
      op := if load then opOf (.load m.sx) m.scope acq rel (some d) m.x2 else opOf .store m.scope acq rel none m.x2
      fits := fun l => (addr l).toNat % min n 8 == 0
      accs := fun l => if n ≤ 8 || sp == .vault || decide ((addr l).toNat < 2 ^ 26) then [(sp, addr l, n, acc)]
        else [(sp, addr l, 8, acc), (sp, addr l + 8, 8, acc)]
      permits := fun _ => true
      lanes := fun l ts =>
        let vs := if load then [] else data l
        if n ≤ 8 || (!(match placeOf ts with | .host _ => true | _ => false) && decide ((addr l).toNat % 32 ≤ 16)) then [laneOp l (addr l) (placeOf ts) n vs []]
        else [laneOp l (addr l) (placeOf ts) 8 (vs.take 1) [],
          laneOp l (addr l + 8) (match ts with | _ :: t :: _ => t.place | _ => (placeOf ts).add 8) 8 (vs.drop 1) [1]] }
  [ row (.ld g m d a b) true .any false false, row (.ldv g m d a b) true .vault false false, row (.lda g m d a b) true .any true false,
    row (.st g m dv a b) false .any false false, row (.stv g m dv a b) false .vault false false, row (.stl g m dv a b) false .any false true ]

/-- Atomics, deterministic add, barriers and remote operations per lane (R326 to R335), with the permit checks of R74 and R75. -/
def agentRows (x : Ictx) (g : Guard) (t : Ty) (aop : Aop) (ord : Ord) (scope : Scope) (dst : Option Nat) (d k hops bw cw : Nat)
    (a b c : Operand) : List MemRow :=
  let A (l : Nat) : Word := x.src .b64 l a
  let low (o : Operand) (l : Nat) : Word := BitVec.ofNat 64 ((x.src t l o).toNat % 2 ^ t.width)
  let off := x.index 0 b
  let okPod (ts : List Target) : Bool := ts.all fun u => !(u.own == 1 && !u.rap) && u.own != 2
  let noVault (ts : List Target) : Bool := okPod ts && ts.all fun u => !u.place.isVault
  let span (o : Option Nat) (n : Nat) : List Operand := match o with | none => [] | some r => [.v (r + n - 1)]
  let words (r l : Nat) : List Word := (List.range k).map fun i => x.w.vreg (r + i) l
  let cs : List Operand := if aop = .cas then [c] else []
  let host := (aop = .add ∨ aop = .exch ∨ aop = .cas) ∧ t.isFlt = false
  [ { i := .atom g t aop ord scope dst a b c, os := a :: b :: cs ++ span dst 1
      op := opOf (.atom aop t) scope (ord == .acq || ord == .ar) (ord == .rel || ord == .ar) dst false
      fits := fun l => (A l).toNat % (t.width / 8) == 0
      accs := fun l => [(.any, A l, t.width / 8, Acc.both)]
      permits := fun ts => ts.all fun u => !(u.own == 1 && !u.rap) && !(u.own == 2 && !(decide host && u.rap))
      lanes := fun l ts => [laneOp l (A l) (placeOf ts) (t.width / 8) [low b l] (cs.map fun o => low o l)] },
    { i := .faddd g t scope dst a b c, os := [a, b, c] ++ span dst 1, op := opOf (.faddd t) scope false false dst false
      fits := fun l => (A l).toNat % 16 == 0 && decide (2 ^ 26 ≤ (A l).toNat)
      accs := fun l => [(.any, A l, 16, Acc.both)], permits := noVault
      lanes := fun l ts => [laneOp l (A l) (placeOf ts) 16 [low b l] [x.src .n64 l c]] },
    { i := .fdset g t scope dst a b c, os := [a, b, c] ++ span dst 1, op := opOf (.fdset t) scope false false dst false
      fits := fun l => (A l).toNat % 16 == 0 && decide (2 ^ 26 ≤ (A l).toNat) && decide (1 ≤ (x.src .n64 l c).toNat) &&
        decide ((x.src .n64 l c).toNat ≤ 65535)
      accs := fun l => [(.any, A l, 16, Acc.both)], permits := noVault
      lanes := fun l ts => [laneOp l (A l) (placeOf ts) 16 [low b l] [x.src .n64 l c]] },
    { i := .bari g a b, os := [a, b], op := opOf .bari .plain false false none false
      fits := fun l => (A l).toNat % 16 == 0 && decide (1 ≤ (x.src .b64 l b).toNat) && decide ((x.src .b64 l b).toNat ≤ 65535)
      accs := fun l => [(.vault, A l, 16, Acc.both)], permits := fun _ => true
      lanes := fun l ts => [laneOp l (A l) (placeOf ts) 16 [x.src .b64 l b] []] },
    { i := .bara g a b, os := [a, b], op := opOf .bara .plain false true none false
      fits := fun l => (A l).toNat % 16 == 0
      accs := fun l => [(.vault, A l, 16, Acc.both)], permits := fun _ => true
      lanes := fun l ts => [laneOp l (A l) (placeOf ts) 16 [x.src .b64 l b] []] },
    { i := .rcas4 g scope k dst a bw cw, os := [a, .v (bw + k - 1), .v (cw + k - 1)] ++ span dst k
      op := opOf (.rcas k) scope false false dst false
      fits := fun l => (A l).toNat % 8 == 0 && decide ((A l).toNat % 64 + 8 * k ≤ 64)
      accs := fun l => [(.any, A l, 8 * k, Acc.both)], permits := okPod
      lanes := fun l ts => [laneOp l (A l) (placeOf ts) (8 * k) (words bw l) (words cw l)] },
    { i := .renq g scope dst a b, os := [a, b] ++ span dst 2, op := opOf .renq scope false false dst false
      fits := fun l => (A l).toNat % 16 == 0 && (x.src .b64 l b).toNat % 8 == 0 && decide (2 ^ 26 ≤ (A l).toNat) &&
        decide (2 ^ 26 ≤ (x.src .b64 l b).toNat)
      accs := fun l => [(.device, A l, 16, Acc.both), (.device, x.src .b64 l b, 8, Acc.write)]
      permits := fun ts => okPod (ts.take 1) && match ts with
        | [u, v] => !u.place.isVault && !v.place.isVault && samePlaceSpace u.place v.place
        | _ => false
      lanes := fun l ts => [⟨l, A l, placeOf ts, (ts[1]?).map (·.place), 16, [x.src .b64 l b], [0, 0], false, false⟩] },
    { i := .rchase g scope hops d a b, os := [a, b, .v (d + 1)], op := opOf (.rchase hops off.toNat) scope false false (some d) false
      fits := fun l => (A l + off).toNat % 8 == 0 && off.toNat % 8 == 0 && decide (off.toNat ≤ 2040) && decide (2 ^ 26 ≤ (A l + off).toNat)
      accs := fun l => [(.device, A l + off, 8, Acc.read)], permits := noVault
      lanes := fun l ts => [laneOp l (A l) (match placeOf ts with | .pod v o => .pod v ((o + 2 ^ 40 - off.toNat) % 2 ^ 40) | q => q) 8 [A l] [off, 0]] } ]

/-- The operation `o` joins the warp's outstanding ones and takes a place on its class counter: it follows the operations that the path's
lanes have issued, and tells of what the warp knows, with a release of what it has heard too (R184, R189); engine writes that those lanes
have observed land first, those that a plain store meets no later than it is performed (R190); the warp's later copies may read what a plain
store replaces until something orders it before them (R147); lanes at pod addresses go to their streams; the path goes on (R38, R131, R183).
-/
def queued (x : Ictx) (s : State) (o : MemOp) : State :=
  let k := if o.rel then { x.w.work with known := (x.w.work.known ++ x.w.work.heard).dedup } else x.w.work
  let o := { o with id := k.nextOp, reach := x.act, after := x.before, tells := k.tells o.rel }
  let k := k.remember s x.c.warp o
  let cnt := if o.kind.uncounted then x.w.cnt else if o.onLoads then { x.w.cnt with ld := x.w.cnt.ld + 1 }
    else { x.w.cnt with st := x.w.cnt.st + 1 }
  let w := { x.w with cnt := cnt, work := { k with ops := k.ops ++ [o], nextOp := k.nextOp + 1 } }
  x.finish (.done (((s.setWarp x.c.warp w).landFor x.c.warp x.act o).sendLanes x.c.warp x.v (s.streamOf x.w) o))

/-- A memory instruction whose lanes are aligned, resolve and are permitted, whose counter is not full and whose requests fit the core's
1536 issues one operation of all its lanes; with a full counter or no room it leaves everything as it stands. LD, ST, LDV, STV, LDA, STL,
ATOM, FADDD, FDSET, BARI, BARA, RCAS4, RENQ and RCHASE complete under the conditions named. -/
def Obligations.MemoryInstructionsIssue : Prop :=
  ∀ (s : State) (x : Ictx) (g : Guard) (m : MemOpt) (t : Ty) (aop : Aop) (ord : Ord) (scope : Scope) (dst : Option Nat)
    (d k hops bw cw : Nat) (dv a b c : Operand) (r : MemRow),
    r ∈ accessRows x g m d dv a b ++ agentRows x g t aop ord scope dst d k hops bw cw a b c → 1 ≤ k →
    Issues s x → Named x r.os → x.lanes g ≠ 0 →
    (r.op.kind.uncounted = true ∨ x.w.cnt.full r.op.onLoads = false →
      (∀ l, Mask.has (x.lanes g) l = true → r.fits l = true) →
      ∀ oks s1, resolveLanes x.v x.g r.accs x.s (Mask.lanes (x.lanes g)) = some (oks, s1) → (∀ e ∈ oks, r.permits e.2 = true) →
        let o := { r.op with lanes := oks.flatMap fun e => r.lanes e.1 e.2 }
        (s1.requests x.w.id.core + o.charge x.w.id.core ≤ 1536 → exec r.i s = .next (queued x s1 o)) ∧
        (1536 < s1.requests x.w.id.core + o.charge x.w.id.core → exec r.i s = .next s)) ∧
    (r.op.kind.uncounted = false → x.w.cnt.full r.op.onLoads = true → exec r.i s = .next s)

/-- SLD and SST (R285): one access for the path at src(A) + (src(B) << SC), never a vault address; a misaligned address is class 19
SUB 1 with the address in every lane; an address that does not resolve raises its class with the address; outside stage 2 the vchip
freezes and the instruction has no effect. SLD and SST complete under the conditions named. -/
def Obligations.ScalarAccess : Prop :=
  ∀ (s : State) (x : Ictx) (g : Guard) (m : MemOpt) (d a : Nat) (b : Operand) (load : Bool), Issues s x → Plain x g [b] → m.x2 = false →
    let addr := x.w.sreg a + x.index 0 b <<< m.sc
    let n := 2 ^ m.sz
    let o : MemOp := if load then { opOf (.load m.sx) m.scope false false (some d) false with scalar := true }
      else { opOf .store m.scope false false none false with scalar := true }
    let i : Instr := if load then .sld g m d a b else .sst g m d a b
    let acc := if load then Acc.read else Acc.write
    (x.w.cnt.full load = true → exec i s = .next s) ∧
    (x.w.cnt.full load = false →
      (addr.toNat % n ≠ 0 → Traps (exec i s) x (Trap.all 19 1 x.act addr)) ∧
      (addr.toNat % n = 0 →
        (∀ t s1, x.s.resolve x.v x.g .device addr n acc = (.ok t, s1) →
          let o := { o with lanes := [laneOp 0 addr t.place n (if load then [] else [x.w.sreg d]) []] }
          s1.requests x.w.id.core + o.charge x.w.id.core ≤ 1536 → exec i s = .next (queued x s1 o)) ∧
        (∀ cls sub s1, x.s.resolve x.v x.g .device addr n acc = (.error (.fault cls sub), s1) →
          exec i s = .next (x.take s1 (Trap.all cls sub x.act addr))) ∧
        (∀ gpa bits s1, x.s.resolve x.v x.g .device addr n acc = (.error (.violation gpa bits), s1) →
          exec i s = .next (s1.freezeMaster x.v gpa bits))))

/-- Faulting lanes (R217, R322 to R324): where lanes that take part are misaligned and the others resolve, LD and ST raise class 19 SUB 1
precisely on those lanes with their addresses; where all meet one fault of translation, its class with the lowest lane's SUB; where a
lane leaves stage 2, the vchip freezes and the instruction has no effect; a register beyond the allocation is class 19 SUB 0x0C. -/
def FaultingLanes : Prop :=
  ∀ (s : State) (x : Ictx) (g : Guard) (m : MemOpt) (d : Nat) (dv a b : Operand) (i : Instr) (load : Bool),
    (i = .ld g m d a b ∧ load = true) ∨ (i = .st g m dv a b ∧ load = false) → Issues s x → m.x2 = false → m.sz ≤ 3 →
    (privOf [a, b, dv] = false ∨ 2 ≤ x.w.trap.level) → x.w.cnt.full load = false → x.lanes g ≠ 0 →
    let addr (l : Nat) : Word := x.src .b64 l a + x.index l b <<< m.sc
    let acc := if load then Acc.read else Acc.write
    let at' (l : Nat) := x.s.resolve x.v x.g .any (addr l) (2 ^ m.sz) acc
    let bad := (Mask.lanes (x.lanes g)).filter fun l => (addr l).toNat % 2 ^ m.sz != 0
    (topOf [.v d, dv, a, b] ≤ x.g.nv → bad ≠ [] → (∀ l, Mask.has (x.lanes g) l = true → l ∉ bad → ∃ t, at' l = (.ok t, x.s)) →
      Traps (exec i s) x ⟨19, 1, bad.map fun l => (l, addr l), false, none⟩) ∧
    (topOf [.v d, dv, a, b] ≤ x.g.nv → bad = [] → ∀ cls ∈ [16, 17, 18], ∀ sub : Nat → Nat,
      (∀ l, Mask.has (x.lanes g) l = true → at' l = (.error (.fault cls (sub l)), x.s)) →
      Traps (exec i s) x ⟨cls, sub ((Mask.lanes (x.lanes g)).headD 0), (Mask.lanes (x.lanes g)).map fun l => (l, addr l), false, none⟩) ∧
    (topOf [.v d, dv, a, b] ≤ x.g.nv → bad = [] → ∀ gpa bits,
      (∀ l, Mask.has (x.lanes g) l = true → at' l = (.error (.violation gpa bits), x.s)) →
      exec i s = .next (x.s.freezeMaster x.v gpa bits)) ∧
    (x.g.nv < topOf [a, b] → Traps (exec i s) x (Trap.all 19 0x0C x.act 0))

/-- Translating an address changes nothing but what the slot has cached and the count of free choices (R76, R77). -/
def TranslationOnlyCaches : Prop :=
  ∀ (s : State) (v : Nat) (g : Gang) (sp : Space) (a : Word) (n : Nat) (acc : Acc),
    let t := (s.resolve v g sp a n acc).2
    { t with slots := s.slots, free := s.free } = s ∧ (sp = .vault → t = s) ∧
    (KMap.rising s.slots = true → ∀ u, { t.slot u with tlb := (s.slot u).tlb } = s.slot u ∧ (u ≠ v → t.slot u = s.slot u))

/-- Faulting lanes and translation (R71 to R77, R216, R217): the two parts above. -/
def Obligations.FaultsAndTranslation : Prop := FaultingLanes ∧ TranslationOnlyCaches

/-! ### Completions -/

/-- The operation `o` has completed: it leaves the warp's outstanding ones and its class counter falls (R131). -/
def retired (w : Warp) (o : MemOp) : Warp :=
  { w with
    cnt := if o.kind.uncounted then w.cnt else if o.onLoads then { w.cnt with ld := w.cnt.ld - 1 } else { w.cnt with st := w.cnt.st - 1 }
    work := { w.work with ops := w.work.ops.filter fun p => p.id != o.id } }

/-- The last lane of an operation stands ready at its home: it waits for no earlier lane, its warp lives and is on its core. -/
def LastLane (s : State) (wid : Nat) (w : Warp) (o : MemOp) (l : LaneOp) (kinds : OpKind → Bool) : Prop :=
  s.laneReady wid o.id 0 kinds = some (w, o, l) ∧ o.lanes = [l] ∧ w.allExited = false ∧ o.pair = false

/-- LOAD_COMPLETE and STORE_PERFORMED (R131, R285, R324): the value of the bytes at the lane's place, or of the grid cell that an LDG has
read, arrives zero-extended, or sign-extended with SX, in the destination of a lane that has not exited; a store's bytes are written, after
the engine writes there that its path had observed (R190); the operation retires. What the reader hears and the writer tells of is R189's.
LOAD_COMPLETE and STORE_PERFORMED complete under the conditions named. -/
def LoadsAndStoresComplete : Prop :=
  ∀ (s : State) (wid : Nat) (w : Warp) (o : MemOp) (l : LaneOp),
    (∀ sx d, o.kind = .load sx → o.dst = some d → LastLane s wid w o l OpKind.isLoad → l.data = [] →
      l.size ∈ [1, 2, 4, 8] →
      let s1 := s.hear wid o.acq l.place l.size
      let v := leWord (s.readPlace l.place l.size)
      let v := if sx then (v.setWidth (8 * l.size)).signExtend 64 else v
      (o.scalar = true → exec (.loadComplete wid o.id 0) s = .next (s1.modWarp wid fun u => retired (u.setS d v) o)) ∧
      (o.scalar = false → Mask.has w.exited l.lane = false →
        exec (.loadComplete wid o.id 0) s = .next (s1.modWarp wid fun u => retired (u.setV d l.lane v) o)) ∧
      (o.scalar = false → Mask.has w.exited l.lane = true →
        exec (.loadComplete wid o.id 0) s = .next (s1.modWarp wid fun u => retired u o))) ∧
    (∀ sx d v, o.kind = .load sx → o.dst = some d → LastLane s wid w o l OpKind.isLoad → l.data = [v] → o.scalar = false →
      Mask.has w.exited l.lane = false → exec (.loadComplete wid o.id 0) s =
        .next ((s.hear wid o.acq l.place l.size).modWarp wid fun u => retired (u.setV d l.lane v) o)) ∧
    (o.kind = .store → LastLane s wid w o l (fun k => k == .store) → o.dst = none →
      (∀ c n, l.place ≠ .vault c n) →
      let s1 := s.landOver wid o.reach [(l.place, l.size)]
      exec (.storePerformed wid o.id 0) s = .next
        (((s1.writePlace l.place ((wordsBytes l.data).take l.size)).tell o l.place l.size).modWarp wid fun u => retired u o)) ∧
    (s.laneReady wid o.id 0 (fun k => k == .store) = none → exec (.storePerformed wid o.id 0) s = .next s)

/-- New value of an integer ATOM (R326). -/
def atomInt (a : Aop) (t : Ty) (old b c : Word) : Word :=
  let n := t.width
  let x : BitVec n := old.setWidth n
  let y : BitVec n := b.setWidth n
  let less (u v : BitVec n) : Bool := if t.signed then u.slt v else u.ult v
  (match a with
    | .add => x + y | .min => if less y x then y else x | .max => if less x y then y else x
    | .land => x &&& y | .lor => x ||| y | .lxor => x ^^^ y | .exch => y
    | .cas => if x = c.setWidth n then y else x).setWidth 64

/-- ATOMIC_PERFORMED (R141, R326, R333 to R335): an integer ATOM stores its new value and returns the old one, sign-extended for i32; RCAS4
stores its words where all compare equal and returns the old ones; RENQ clears the node's link, moves the tail and links the head, or the
old tail where its address leads to memory, with code 2 or 3 where it does not; RCHASE ends at a null pointer or after its hops.
ATOMIC_PERFORMED completes under the conditions named. -/
def Obligations.AtomicsPerformed : Prop :=
  ∀ (s : State) (wid : Nat) (w : Warp) (o : MemOp) (l : LaneOp),
    LastLane s wid w o l OpKind.isAtomic → o.scalar = false →
    Mask.has w.exited l.lane = false →
    let fin (t : State) (vals : List Word) := t.modWarp wid fun u => retired (u.deliver o l vals) o
    let s1 := s.hear wid o.acq l.place l.size
    (∀ a t b c, o.kind = .atom a t → t ∈ [Ty.i32, .n32, .i64, .n64] → l.size = t.width / 8 → l.data = [b] → l.cmp = (if a = .cas then [c] else []) →
      b.toNat < 2 ^ t.width → c.toNat < 2 ^ t.width →
      (∀ k n, l.place ≠ .vault k n) →
      let old := leWord (s.readPlace l.place l.size)
      exec (.atomicPerformed wid o.id 0) s = .next (fin ((s1.writePlace l.place (wordBytes (atomInt a t old b c) l.size)).tell o l.place l.size)
        [if t = .i32 then (old.setWidth 32).signExtend 64 else old])) ∧
    (∀ k, o.kind = .rcas k → l.data.length = k → (∀ c n, l.place ≠ .vault c n) →
      let now := (List.range k).map fun i => s.readWord (l.place.add (8 * i)) 8
      exec (.atomicPerformed wid o.id 0) s = .next (fin ((s1.writePlace l.place (wordsBytes (if now = l.cmp then l.data else now))).tell o l.place l.size) now)) ∧
    (o.kind = .renq → l.cmp = [0, 0] → (∀ c n, (l.place2.getD l.place) ≠ .vault c n) →
      exec (.atomicPerformed wid o.id 0) s = .next ((s.writePlace (l.place2.getD l.place) (wordBytes 0 8)).modLane wid o.id 0
        fun l => { l with cmp := [1, 0] })) ∧
    (∀ n, o.kind = .renq → l.cmp = [1, 0] → l.data = [n] → (∀ c k, l.place ≠ .vault c k) →
      exec (.atomicPerformed wid o.id 0) s = .next ((((s.hear wid o.acq (l.place.add 8) 8).writePlace (l.place.add 8) (wordBytes n 8)).tell o (l.place.add 8) 8).modLane wid o.id 0
        fun l => { l with cmp := [2, s.readWord (l.place.add 8) 8] })) ∧
    (∀ n, o.kind = .renq → l.cmp = [2, 0] → l.data = [n] → (∀ c k, l.place ≠ .vault c k) →
      exec (.atomicPerformed wid o.id 0) s = .next (fin (s.writePlace l.place (wordBytes n 8)) [0, 1])) ∧
    (∀ n t, o.kind = .renq → l.cmp = [2, t] → t ≠ 0 → l.data = [n] →
      (∀ p s2, s.follow (s.slotOf w) t Acc.write = (.ok p, s2) →
        exec (.atomicPerformed wid o.id 0) s = .next (fin (s2.storeAt p (wordBytes n 8)) [t, 0])) ∧
      (∀ st s2, s.follow (s.slotOf w) t Acc.write = (.error (some st), s2) →
        exec (.atomicPerformed wid o.id 0) s = .next (fin s2 [t, if st = 3 then 3 else 2])) ∧
      (∀ s2, s.follow (s.slotOf w) t Acc.write = (.error none, s2) → exec (.atomicPerformed wid o.id 0) s = .next s)) ∧
    (∀ hops off p n, o.kind = .rchase hops off → l.data = [p] → l.cmp = [BitVec.ofNat 64 off, BitVec.ofNat 64 n] → n < hops → hops ≤ 64 →
      off ≤ 2040 →
      let q := s.readWord l.place 8
      (q = 0 → exec (.atomicPerformed wid o.id 0) s = .next (fin (s.hear wid o.acq l.place 8) [p, BitVec.ofNat 64 (n + 256)])) ∧
      (q ≠ 0 → n + 1 = hops → exec (.atomicPerformed wid o.id 0) s = .next (fin (s.hear wid o.acq l.place 8) [q, BitVec.ofNat 64 hops])))

/-- Deterministic add (R142, R143, R328, R329): a contribution to an inactive slot, of the other type, or of a rank that is out of range
or has been applied or held is refused with code 2, 3 or 1 and its mark; one above the next rank is held; the next one is added
with one rounding, a NaN as the canonical one, and the held ones that follow are applied; FDSET prepares the slot and returns its old
second word. FADDD_ARRIVE completes under the conditions named. -/
def Obligations.DeterministicAdd : Prop :=
  ∀ (s : State) (wid : Nat) (w : Warp) (o : MemOp) (l : LaneOp) (t : Ty) (c : Word) (k : Nat),
    LastLane s wid w o l OpKind.isDet → o.scalar = false →
    Mask.has w.exited l.lane = false → l.data = [c] → l.cmp = [BitVec.ofNat 64 k] → k < 2 ^ 64 → (t = .f32 ∨ t = .f64) →
    (∀ c n, l.place ≠ .vault c n) → l.place2 = none →
    let fin (u : State) (vals : List Word) := (u.join o l.place 16).modWarp wid fun v => retired (v.deliver o l vals) o
    let w0 := s.readWord l.place 8
    let w1 := s.readWord (l.place.add 8) 8
    let act := w1.getLsbD 63
    let f64 := w1.getLsbD 62
    let expect := fld w1 16 16
    let next := fld w1 0 16
    let mark (b : Nat) : State := s.writePlace l.place (wordsBytes [w0, (w1 ||| (1#64 <<< b)) &&& 0xF0000000FFFFFFFF])
    (o.kind = .faddd t → act = false → exec (.fadddArrive wid o.id 0) s = .next (fin (mark 60) [2])) ∧
    (o.kind = .faddd t → act = true → f64 ≠ decide (t = .f64) → exec (.fadddArrive wid o.id 0) s = .next (fin (mark 61) [3])) ∧
    (o.kind = .faddd t → act = true → f64 = decide (t = .f64) →
      (expect ≤ k ∨ k < next ∨ ∃ h ∈ s.heldAt l.place.num, h.1 = k) →
      exec (.fadddArrive wid o.id 0) s = .next (fin (mark 61) [1])) ∧
    (o.kind = .faddd t → act = true → f64 = decide (t = .f64) → next < k → k < expect →
      (s.heldAt l.place.num).length < 64 → (∀ h ∈ s.heldAt l.place.num, h.1 ≠ k) → o.dst.isSome = true →
      exec (.fadddArrive wid o.id 0) s = .next (fin (s.setHeld l.place.num (s.heldAt l.place.num ++ [(k, c, none)])) [0])) ∧
    (o.kind = .faddd t → act = true → f64 = decide (t = .f64) → k = next → k < expect → s.heldAt l.place.num = [] →
      let f := fmtOf t
      let sum := f.canonical (f.add 0 (w0.toNat % 2 ^ f.width) (c.toNat % 2 ^ f.width))
      CompletesWith (exec (.fadddArrive wid o.id 0) s) fun u => ∃ w1' : Word,
        u = fin ((s.writePlace l.place (wordsBytes [BitVec.ofNat 64 sum, w1'])).setHeld l.place.num []) [0] ∧
        fld w1' 0 16 = (next + 1) % 2 ^ 16 ∧ fld w1' 16 16 = expect ∧ w1'.getLsbD 62 = f64 ∧
        w1'.getLsbD 63 = decide (next + 1 ≠ expect)) ∧
    (∀ c2, o.kind = .faddd t → act = true → f64 = decide (t = .f64) → k = next → k + 1 < expect →
      s.heldAt l.place.num = [(k + 1, c2, none)] →
      let f := fmtOf t
      let sum (a : Nat) (b : Word) := f.canonical (f.add 0 (a % 2 ^ f.width) (b.toNat % 2 ^ f.width))
      CompletesWith (exec (.fadddArrive wid o.id 0) s) fun u => ∃ w1' : Word,
        u = fin ((s.writePlace l.place (wordsBytes [BitVec.ofNat 64 (sum (sum w0.toNat c) c2), w1'])).setHeld l.place.num []) [0] ∧
        fld w1' 0 16 = (next + 2) % 2 ^ 16 ∧ fld w1' 16 16 = expect ∧ w1'.getLsbD 63 = decide (next + 2 ≠ expect)) ∧
    (o.kind = .fdset t → k ≤ 65535 → s.heldAt l.place.num = [] →
      exec (.fadddArrive wid o.id 0) s = .next (((State.setHeld (s.writePlace l.place (wordsBytes
        [BitVec.ofNat 64 (c.toNat % 2 ^ t.width), BitVec.ofNat 64 (2 ^ 63 + (if t = .f64 then 2 ^ 62 else 0) + k * 2 ^ 16)])) l.place.num []).tell o l.place 16).modWarp wid
          fun v => retired (v.deliver o l [w1]) o))

/-- Barrier objects (R150, R151, R331, R332): an arrival at an object that no program has stored to lowers ARR and adds its bytes,
and where both reach 0 the phase advances; with ARR already 0 it poisons with cause 3; BARI starts one anew. BARW answers 0 where
the phase has advanced, 1 for a poisoned object, class 21 with its cause under E, and else waits, as it does for the warp's own
earlier events of the object; FENCE waits for every earlier operation of the warp, FENCE.X marks what later engine reads follow.
BARRIER_ARRIVAL_APPLY, BARW, FENCE and FENCE_X complete under the conditions named. -/
def Obligations.BarriersAndFences : Prop :=
  ∀ (s : State) (wid : Nat) (w : Warp) (o : MemOp) (l : LaneOp) (core off : Nat),
    l.place = .vault core off →
    let fin (u : State) := u.modWarp wid fun v => retired v o
    let bar := s.readBar core off
    (∀ n, o.kind = .bari → o.dst = none → LastLane s wid w o l OpKind.isBar → l.data = [BitVec.ofNat 64 n] →
      1 ≤ n → n ≤ 65535 → CompletesWith (exec (.barrierArrivalApply wid o.id 0) s) fun u =>
        u.dies.vault = (s.vaultWrite core off (wordsBytes [BitVec.ofNat 64 (n * 2 ^ 32), BitVec.ofNat 64 (n * 2 ^ 32)])).dies.vault ∧
        u.hbm = s.hbm ∧ u.hostMem = s.hostMem) ∧
    (∀ n : Word, o.kind = .bara → o.dst = none → LastLane s wid w o l OpKind.isBar → l.data = [n] →
      s.barUndefined core off = false → bar.poison = false →
      (1 < bar.arr → -(2 ^ 31) ≤ bar.bytes + n.toInt → bar.bytes + n.toInt < 2 ^ 31 →
        exec (.barrierArrivalApply wid o.id 0) s = .next (fin ((s.join o l.place 8).writeBar core off
          { bar with arr := bar.arr - 1, bytes := bar.bytes + n.toInt }))) ∧
      (bar.arr = 1 → bar.bytes + n.toInt = 0 → exec (.barrierArrivalApply wid o.id 0) s =
        .next (fin (((s.join o l.place 8).writeBar core off
          { bar with arr := bar.init, bytes := 0, phase := (bar.phase + 1) % 2 ^ 15 }).wakeBar (barBlock core off) 1))) ∧
      (bar.arr = 0 → exec (.barrierArrivalApply wid o.id 0) s =
        .next (fin (((s.join o l.place 8).writeBar core off
          { bar with poison := true, cause := 3 }).wakeBar (barBlock core off) 19)))) ∧
    (∀ (x : Ictx) (g : Guard) (esc : Bool) (d : Nat) (a b : Operand) (t : Target), Issues s x → Plain x g [a, b] →
      (x.uni .b64 a).toNat % 16 = 0 → x.g.vaultPlace (x.uni .b64 a) 16 = .ok t → t.place = .vault core off →
      x.p.barw = none → (x.w.barsDone core off = false → exec (.barw g esc d a b) s = .next s) ∧
      (x.w.barsDone core off = true → s.barUndefined core off = false →
        (bar.poison = false → bar.phase ≠ fld (x.uni .b64 b) 0 15 → exec (.barw g esc d a b) s =
          .next ((x.s.hear x.c.warp true (.vault core off) 8).modWarp x.c.warp fun w => x.advance (w.setS d 0))) ∧
        (bar.poison = true → esc = false → WritesScalar (exec (.barw g esc d a b) s) x d 1) ∧
        (bar.poison = true → esc = true → Traps (exec (.barw g esc d a b) s) x (Trap.all 21 bar.cause x.act 0)) ∧
        (bar.poison = false → bar.phase = fld (x.uni .b64 b) 0 15 → exec (.barw g esc d a b) s =
          .next (x.s.setWarp x.c.warp (x.w.modPath x.c.path fun p => { p with barw := some (barBlock core off, 0) }))))) ∧
    (∀ (x : Ictx) (g : Guard) (scope : Scope), Issues s x → x.any g = true →
      let n := match x.p.hold with | some (.ops n) => n | _ => x.w.work.nextOp
      let on (k : WarpWork) := ((x.s.setWarp x.c.warp { x.w with work := k }).landSeen x.c.warp x.act).modWarp x.c.warp x.advance
      ((∀ p ∈ x.w.work.ops, n ≤ p.id) → exec (.fence g scope) s = .next (on x.w.work.fenced)) ∧
      (¬ (∀ p ∈ x.w.work.ops, n ≤ p.id) → exec (.fence g scope) s =
        .next (x.s.setWarp x.c.warp (x.w.modPath x.c.path fun p => { p with hold := some (.ops n) }))) ∧
      exec (.fenceX g) s = .next (on { x.w.work with xfence := x.w.work.nextOp }))

/-- Stores write their bytes and no others (R2, R79, R187): after a store to host memory, to a vault, or to HBM through an entry whose
owner has a generation, the bytes read back; every other byte of the other memories, and every byte outside them of the same one, is as
before; a line of HBM of another generation counted as zero first. Memories keep their canonical form. -/
def StoresWriteTheirBytes : Prop :=
  ∀ (s : State) (p : Place) (bs : List Byte), s.Canonical →
    let t := s.storeAt p bs
    t.Canonical ∧
    (∀ a, p = .host a → t.readPlace p bs.length = bs ∧ t.hbm = s.hbm ∧ t.dies.vault = s.dies.vault ∧
      ∀ b, b < a ∨ a + bs.length ≤ b → t.hostRead b 1 = s.hostRead b 1) ∧
    (∀ c o, p = .vault c o → t.readPlace p bs.length = bs ∧ t.hbm = s.hbm ∧ t.hostMem = s.hostMem ∧
      ∀ k, k < vaultKey c o ∨ vaultKey c o + bs.length ≤ k → Memory.byte t.dies.vault k = Memory.byte s.dies.vault k) ∧
    (∀ pa ow, p = .hbm pa ow → s.ownerTag ow ≠ 0 → (∀ i, i < bs.length → s.hbm.retiredLine ((pa + i) / 64) = false) →
      KMap.rising s.hbm.tags = true → KMap.rising s.hbm.keys = true →
      t.readPlace p bs.length = bs ∧ t.hostMem = s.hostMem ∧ t.dies.vault = s.dies.vault ∧
      ∀ b, b < pa ∨ pa + bs.length ≤ b → t.hbmRead ow b 1 = s.hbmRead ow b 1)

/-- Completions of loads and stores, and the bytes that a store writes: the two parts above. -/
def Obligations.MemoryCompletions : Prop := LoadsAndStoresComplete ∧ StoresWriteTheirBytes

/-! ### Traps -/

/-- Path `i` of warp `w` has entered a handler (R219): the state is `s` with the warp replaced by one at level `lvl` whose path stands
at `entry` with its own mask; %tpc and %tcause of the new level, %taddr and %tmask of the path's lanes are written and the other
level's and lanes' are not; at level 2, s56 to s63 have changed places with the bank; nothing else of the warp has changed but the
decoded-field registers, which only an illegal encoding writes. -/
def Entered (s u : State) (wid : Nat) (w : Warp) (i : Nat) (p : Path) (w0 w1 : Word) (sec : Bool) (t : Trap) (lvl : Nat) (tpc entry : Word) : Prop :=
  ∃ v : Warp, u = s.setWarp wid v ∧ v.trap.level = lvl ∧ v.trap.handler = w.active i ∧
    (v.path? i).map (fun q => (q.pc, q.mask, q.q, q.link)) = some (entry, p.mask, p.q, p.link) ∧ (∀ k, k ≠ i → v.path? k = w.path? k) ∧
    (let esc := decide (lvl = 2 ∧ t.cls < 16)
     let c := if lvl = 1 then v.trap.tcause1 else v.trap.tcause2
     fld c 0 8 = (if esc then 23 else t.cls) ∧ fld c 8 8 = (if esc then t.cls else 0) ∧ fld c 16 8 = t.sub ∧ c.getLsbD 24 = esc ∧ c.getLsbD 25 = sec ∧
     c.getLsbD 26 = decide (t.cls = 22) ∧ c.getLsbD 27 = t.hnd.isSome ∧ fld c 28 4 = t.hnd.getD 0 ∧ fld c 32 32 = 0) ∧
    (lvl = 1 → v.trap.tpc1 = tpc ∧ v.trap.tpc2 = w.trap.tpc2 ∧ v.trap.tcause2 = w.trap.tcause2 ∧ v.set = w.set) ∧
    (lvl = 2 → v.trap.tpc2 = tpc ∧ v.trap.tpc1 = w.trap.tpc1 ∧ v.trap.tcause1 = w.trap.tcause1 ∧
      ∀ n, n < 56 → v.sreg n = w.sreg n) ∧
    (lvl = 2 → ∀ n, 56 ≤ n → n < 64 → v.sreg n = KMap.get w.set.bank 0 n ∧ KMap.get v.set.bank 0 n = w.sreg n) ∧
    (∀ l, l < 128 → v.trap.tmask.getLsbD l =
      if (w.active i).getLsbD l then t.marks.any (fun e => e.1 == l) else w.trap.tmask.getLsbD l) ∧
    (∀ l, l < 128 → KMap.get v.trap.taddr 0 l =
      if (w.active i).getLsbD l then ((t.marks.find? fun e => e.1 == l).map (·.2)).getD 0 else KMap.get w.trap.taddr 0 l) ∧
    (t.cls = 1 → v.trap.xop = BitVec.ofNat 64 (fld w0 54 8 * 2 ^ 10 + fld w0 0 10) ∧ v.trap.xd = BitVec.ofNat 64 (fld w0 41 9) ∧
      v.trap.xa = BitVec.ofNat 64 (fld w0 32 9) ∧ v.trap.xb = BitVec.ofNat 64 (fld w0 23 9) ∧ v.trap.xc = BitVec.ofNat 64 (fld w0 14 9) ∧
      (fld w0 62 2 = 2 → v.trap.ximm = w1) ∧ (fld w0 62 2 ≠ 2 → fld w0 9 1 = 0 → v.trap.ximm = 0) ∧
      (fld w0 62 2 ≠ 2 → fld w0 9 1 = 1 → v.trap.ximm = (w0.extractLsb' 14 18).signExtend 64) ∧
      fld v.trap.xtype 0 4 = fld w0 10 4 ∧ v.trap.xtype.getLsbD 4 = decide (fld w0 62 2 = 2) ∧ fld v.trap.xtype 5 2 = fld w0 62 2) ∧
    (t.cls ≠ 1 → v.trap.xop = w.trap.xop ∧ v.trap.xd = w.trap.xd ∧
      v.trap.xa = w.trap.xa ∧ v.trap.xb = w.trap.xb ∧ v.trap.xc = w.trap.xc ∧ v.trap.ximm = w.trap.ximm ∧ v.trap.xtype = w.trap.xtype) ∧
    v.trap.utvec = w.trap.utvec ∧ { v with trap := w.trap, paths := w.paths, set := w.set } = w

/-- Where a trap goes (R214, R216): the table of levels. A class below 16 is a user trap; %tpc is the instruction's address, or the
next one's for a trap that comes after it; entries are bits [56:3] of %utvec and PHVEC. A trap at level 2, or one that needs a
privileged entry that is not valid, ends the gang with a signal on VF vector 2. -/
def Obligations.TrapsEnterTheirLevel : Prop :=
  ∀ (s : State) (wid i : Nat) (w : Warp) (p : Path) (w0 w1 : Word) (sec : Bool) (t : Trap),
    s.warp? wid = some w → w.path? i = some p → t.cls < 256 → t.sub < 256 → t.hnd.getD 0 < 16 → w.Canonical →
    KMap.rising w.trap.taddr = true → KMap.rising w.set.bank = true → (∀ e ∈ w.set.bank, 56 ≤ e.1 ∧ e.1 < 64) → (∀ e ∈ w.set.s, e.1 < 64) →
    let u := s.takeTrap wid i w0 w1 p.pc sec t
    let phv := (s.slot (s.slotOf w)).blk.phvec
    let tpc := if t.after then p.pc + BitVec.ofNat 64 (if fld w0 62 2 = 2 then 16 else 8) else p.pc
    let entry (a : Word) : Word := BitVec.ofNat 64 (fld a 3 54 * 8)
    let user := t.cls < 16 ∧ w.trap.level = 0 ∧ w.trap.utvec ≠ 0
    (user → Entered s u wid w i p w0 w1 sec t 1 tpc (entry w.trap.utvec)) ∧
    (¬ user → w.trap.level < 2 → phv.getLsbD 0 = true → Entered s u wid w i p w0 w1 sec t 2 tpc (entry phv)) ∧
    (¬ user → w.trap.level ≤ 2 → (w.trap.level = 2 ∨ phv.getLsbD 0 = false) →
      u = ({ s with signals := s.signals ++ [Signal.vf (s.slotOf w) 2] }).handlerEndsGang w.id.gang wid)

/-- System instructions (R216, R218, R221, R279, R380 to R383). TRAP, BKPT and an illegal word raise classes 6, 24 and 1, RFT at level 0 class
2 SUB 5, and privileged names below level 2 class 1 SUB 6. RFT continues at %tpc of its level, with skip past the instruction there, at
the level that was interrupted, and from level 2 gives s56 to s63 back. TLBI completes at once where every earlier store
is done and the extent is empty, and where its invalidation has left the queue. HALT at level 2 of a gang with no task in progress and
no pod gang ends the gang, of which no warp issues any more. A remote abandon is taken with class 22 and every lane marked, below level
2, on the path that would issue next. TRAP, BKPT, ILLEGAL_INSTRUCTION, RFT, TLBI, HALT and REMOTE_ABANDON_TRAP complete under the
conditions named. -/
def Obligations.SystemInstructions : Prop :=
  ∀ s : State,
  (∀ (x : Ictx) (g : Guard) (n : Nat) (a b : Operand), Issues s x → x.any g = true →
    Traps (exec (.trap g n) s) x (Trap.all 6 n x.act 0) ∧
    Traps (exec (.bkpt g) s) x (Trap.all 24 0 x.act 0) ∧
    Traps (exec (.illegalInstruction n false) s) x (Trap.all 1 n x.act 0) ∧
    Traps (exec (.illegalInstruction n true) s) x
      (Trap.all 1 (if x.w.trap.level < 2 ∧ n ≠ 5 ∧ n ≠ 1 then 6 else n) x.act 0) ∧
    (x.w.trap.level = 0 → ∀ skip, Traps (exec (.rft g skip) s) x (Trap.all 2 5 x.act 0)) ∧
    (x.w.trap.level < 2 → ∀ d, Traps (exec (.halt g) s) x (Trap.all 1 6 x.act 0) ∧
      Traps (exec (.ctxs g d a) s) x (Trap.all 1 6 x.act 0) ∧ Traps (exec (.ctxl g a) s) x (Trap.all 1 6 x.act 0)) ∧
    (x.w.trap.level = 1 ∨ x.w.trap.level = 2 → x.w.task.miss = [] → KMap.rising x.w.set.s = true → KMap.rising x.w.set.bank = true →
      (∀ e ∈ x.w.set.bank, 56 ≤ e.1 ∧ e.1 < 64) → (∀ e ∈ x.w.set.s, e.1 < 64) →
      let pc := if x.w.trap.level = 2 then x.w.trap.tpc2 else x.w.trap.tpc1
      let back (u : State) (pc : Word) (o : Host.Outcome State Fault Refusal) : Prop := ∃ v : Warp, o = .next (u.setWarp x.c.warp v) ∧
        v.path? x.c.path = some { x.p with pc := pc, sec := false } ∧ (∀ k, k ≠ x.c.path → v.path? k = x.w.path? k) ∧
        v.trap.level = (if x.w.trap.level = 2 then x.w.trap.lower else 0) ∧
        (x.w.trap.level = 1 → v.set = x.w.set) ∧
        (x.w.trap.level = 2 → (∀ n, n < 56 → v.sreg n = x.w.sreg n) ∧
          ∀ n, 56 ≤ n → n < 64 → v.sreg n = KMap.get x.w.set.bank 0 n ∧ KMap.get v.set.bank 0 n = x.w.sreg n) ∧
        { v with trap := x.w.trap, paths := x.w.paths, set := x.w.set } = x.w ∧
        { v.trap with level := x.w.trap.level, own1 := x.w.trap.own1, own2 := x.w.trap.own2 } = x.w.trap
      back x.s pc (exec (.rft g false) s) ∧
      (x.s.codeHeld x.g pc = true → exec (.rft g true) s = .next s) ∧
      (x.s.codeHeld x.g pc = false → ∀ w0 s1, x.s.codeWord x.g pc = (.ok w0, s1) →
        back s1 (pc + BitVec.ofNat 64 (if fld w0 62 2 = 2 then 16 else 8)) (exec (.rft g true) s))) ∧
    (Named x [a, b] →
      let done := ((x.s.setWarp x.c.warp { x.w with work := x.w.work.fenced }).landSeen x.c.warp x.act).modWarp x.c.warp x.advance
      (x.p.hold = none → exec (.tlbi g a b) s = .next (x.s.setWarp x.c.warp
        (x.w.modPath x.c.path fun p => { p with hold := some (.tlbi x.w.work.nextOp false) }))) ∧
      (∀ m, x.p.hold = some (.tlbi m false) →
        ((∃ o ∈ x.w.work.ops, o.id < m ∧ o.kind.writes = true) → exec (.tlbi g a b) s = .next s) ∧
        ((∀ o ∈ x.w.work.ops, o.id < m → o.kind.writes = false) → (x.uni .b64 b).getLsbD 63 = false → fld (x.uni .b64 b) 0 32 = 0 →
          exec (.tlbi g a b) s = .next done) ∧
        ((∀ o ∈ x.w.work.ops, o.id < m → o.kind.writes = false) →
          ((x.uni .b64 b).getLsbD 63 = true ∨ fld (x.uni .b64 b) 0 32 ≠ 0) →
          exec (.tlbi g a b) s = .next (((x.s.landSeen x.c.warp x.act).addInv x.v ⟨.tlbi x.c.warp x.c.path, fld (x.uni .b64 a) 12 52,
            fld (x.uni .b64 b) 0 32, (x.uni .b64 b).getLsbD 63, false, []⟩).modWarp x.c.warp fun w => w.modPath x.c.path fun p =>
              { p with hold := some (.tlbi m true) }))) ∧
      (∀ m, x.p.hold = some (.tlbi m true) →
        ((∀ q ∈ x.s.invsOf x.v, q.src ≠ .tlbi x.c.warp x.c.path) → exec (.tlbi g a b) s = .next done) ∧
        ((∃ q ∈ x.s.invsOf x.v, q.src = .tlbi x.c.warp x.c.path) → exec (.tlbi g a b) s = .next s))) ∧
    (x.w.trap.level = 2 → x.g.st ≠ .saved → (∀ e ∈ x.s.warpsOf x.w.id.gang, e.2.task.st = .none) →
      (∀ l, x.s.launch? x.g.slot x.g.launch = some l → l.pod = none) → KMap.rising s.work.warps = true → KMap.rising s.work.gangs = true →
      CompletesWith (exec (.halt g) s) fun t => (t.gang? x.w.id.gang).map (fun q => (q.ends, q.st)) = some (true, .ending) ∧
        ∀ e ∈ t.work.warps, e.2.id.gang = x.w.id.gang → t.mayIssue e.2 = false)) ∧
  (∀ c w p code, s.cur = some c → s.warp? c.warp = some w → w.path? c.path = some p → w.work.abandon = some code → w.trap.level < 2 →
    s.warpResident c.warp = true → s.enginesRun (s.slotOf w) = true →
    exec (.remoteAbandonTrap c.warp) s = .next ((s.setWarp c.warp { w with work := { w.work with abandon := none } }).takeTrap c.warp c.path
      0 0 p.pc p.sec ⟨22, code, (Mask.lanes (w.active c.path)).map fun l => (l, 0), false, none⟩)) ∧
  (∀ wid w, s.warp? wid = some w → (w.work.abandon = none ∨ 2 ≤ w.trap.level) → exec (.remoteAbandonTrap wid) s = .next s)

/-! ### Context blocks -/

/-- The word of a block at a byte offset. -/
def wordIn (b : List Byte) (off : Nat) : Word := leWord ((b.drop off).take 8)

/-- CTXL's conditions on a block's fixed part (R385). -/
def blockFits (w : Warp) (nv : Nat) (b : List Byte) : Prop :=
  8 * 2 ^ fld (wordIn b 0) 20 3 = w.width ∧ fld (wordIn b 0) 16 2 = w.id.first ∧ fld (wordIn b 0) 23 9 ≤ nv ∧
  fld (wordIn b 0) 8 8 = 0 ∧ fld (wordIn b 0) 0 4 = 0 ∧ fld (wordIn b 0) 5 1 = 0 ∧ fld (wordIn b 32) 63 1 = 0 ∧ fld (wordIn b 40) 63 1 = 0 ∧
  fld (wordIn b 8) 43 21 = 0 ∧ ∀ f, f < 16 → fld (wordIn b (0x1140 + 16 * f)) 62 2 ≠ 1

/-- CTXS and CTXL (R363, R384 to R386). In boosted mode they are class 2 SUB 3; while a handle, counter or operation of the warp is open
they wait, and then what its engines wrote has landed; a misaligned address, or a block of which a piece lies in pod space, is class 19 SUB
0x60. CTXS stores the block, with NV registers and 0 in sD, over its 64-byte pieces and leaves CBYTES = 0x1700 + 8 × NV × width in sD;
CTXL raises 0x61 for a block that does not fit the warp, and else restores it. CTXS and CTXL complete under the conditions named. -/
def ContextSaveAndLoad : Prop :=
  ∀ (s : State) (x : Ictx) (g : Guard) (d : Nat) (a : Operand), Issues s x → x.any g = true → 2 ≤ x.w.trap.level →
    let idle := x.w.pending = false ∧ x.w.work.ops = []
    let drain := x.s.setWarp x.c.warp (x.w.modPath x.c.path fun p => { p with hold := some .drain })
    let y : Ictx := { x with
      s := x.s.landWhich x.c.warp fun _ => true
      w := { x.w with work := { x.w.work with landing := [] } } }
    let A := y.uni .b64 a
    let n := 0x1700 + 8 * x.g.nv * x.w.width
    (x.w.boosted = true → Traps (exec (.ctxs g d a) s) x (Trap.all 2 3 x.act 0) ∧ Traps (exec (.ctxl g a) s) x (Trap.all 2 3 x.act 0)) ∧
    (x.w.boosted = false → ¬ idle → exec (.ctxs g d a) s = .next drain ∧ exec (.ctxl g a) s = .next drain) ∧
    (x.w.boosted = false → idle →
      (A.toNat % 64 ≠ 0 ∨ y.blockInPod A ((n + 63) / 64) = true → Traps (exec (.ctxs g d a) s) y (Trap.all 19 0x60 x.act 0)) ∧
      (A.toNat % 64 ≠ 0 ∨ y.blockInPod A 92 = true → Traps (exec (.ctxl g a) s) y (Trap.all 19 0x60 x.act 0)) ∧
      (A.toNat % 64 = 0 →
        (∀ ps s1, y.blockInPod A ((n + 63) / 64) = false → y.blockPlaces A Acc.write ((n + 63) / 64) A y.s = (.ok ps, s1) →
          (∀ p ∈ ps, s1.placeOpen x.v p.place = true) →
          let img := (x.advance (y.w.mergeDone.setS d 0)).context
            ⟨x.g.nv, 0, 0, false, y.w.stalled (cycSince (s1.cyc x.w.id.core))⟩
          exec (.ctxs g d a) s = .next ((((ps.map (·.place)).zip (chunks 64 ps.length img)).foldl
            (fun s e => s.storeAt e.1 e.2) s1).modWarp x.c.warp fun w => x.advance (w.mergeDone.setS d (BitVec.ofNat 64 n)))) ∧
        (∀ ps s1, y.blockInPod A 92 = false → y.blockPlaces A Acc.read 92 A y.s = (.ok ps, s1) →
          (∀ p ∈ ps, s1.placeOpen x.v p.place = true) →
          let fixed := ps.flatMap fun p => s1.readPlace p.place 64
          let k := (0x1700 + 8 * fld (wordIn fixed 0) 23 9 * x.w.width + 63) / 64
          (x.w.width ∈ [8, 16, 32, 64, 128] → ¬ blockFits x.w x.g.nv fixed → Traps (exec (.ctxl g a) s) y (Trap.all 19 0x61 x.act 0)) ∧
          (blockFits x.w x.g.nv fixed → ∀ qs s2, y.blockInPod A k = false → y.blockPlaces A Acc.read k A y.s = (.ok qs, s2) →
            (∀ p ∈ qs, s2.placeOpen x.v p.place = true) →
            let v := y.w.mergeDone.restore (qs.flatMap fun p => s2.readPlace p.place 64)
            exec (.ctxl g a) s = .next ((s2.setWarp x.c.warp { v with work := { v.work with mzTiles := [], mzPending := [] } }).settleWarp
              x.c.warp)))))

/-- A block restores what was saved (R224, R226): every scalar register, bank and vector register below NV, predicate, handle and path, and
the mode, flags, handler addresses, causes, %tmask, %taddr and %ximm read as they did. -/
def BlocksRestoreTheWarp : Prop :=
  ∀ (w : Warp) (nv : Nat), w.width ∈ [8, 16, 32, 64, 128] → nv ≤ 256 → w.id.first < 4 → w.trap.level ≤ 2 → w.task.st = .none →
    let v := w.restore (w.context ⟨nv, 0, 0, false, none⟩)
    (∀ n, n < 64 → v.sreg n = w.sreg n) ∧
    (∀ n, 56 ≤ n → n < 64 → KMap.get v.set.bank 0 n = KMap.get w.set.bank 0 n) ∧
    (∀ n l, n < nv → l < w.width → v.vreg n l = w.vreg n l) ∧
    (∀ p, p < 7 → v.pred p = w.pred p) ∧
    (∀ f, f < 16 → (w.handle f).status < 256 → (w.handle f).op < 16 → { v.handle f with fill := 0 } = { w.handle f with fill := 0 }) ∧
    (∀ k, k < 4 → (∀ p, w.path? k = some p → p.pc.toNat % 8 = 0 ∧ p.pc.toNat < 2 ^ 57 ∧ p.q ≤ 256 ∧ (∀ j, p.link = some j → j < 32)) →
      (v.path? k).map (fun p => (p.pc, p.mask, p.q, p.link)) =
        (w.path? k).map fun p => (p.pc, p.mask &&& ~~~w.exited, p.q, p.link)) ∧
    v.flags = w.flags ∧ v.mode = w.mode &&& 0x1F03 ∧ v.trap.level = w.trap.level ∧ v.trap.utvec = w.trap.utvec &&& 0x1FFFFFFFFFFFFF8 ∧
    v.trap.tpc1 = w.trap.tpc1 ∧ v.trap.tcause1 = w.trap.tcause1 ∧ v.trap.tpc2 = w.trap.tpc2 ∧ v.trap.tcause2 = w.trap.tcause2 ∧
    v.trap.tmask = w.trap.tmask ∧ (∀ l, l < 128 → KMap.get v.trap.taddr 0 l = KMap.get w.trap.taddr 0 l) ∧
    v.trap.ximm = w.trap.ximm ∧ (w.nseq < 2 ^ 16 → v.nseq = w.nseq) ∧
    v.id = w.id ∧ v.width = w.width ∧ v.work = w.work ∧ v.cnt = w.cnt

/-- CTXS, CTXL and the context block (R224 to R226, R383, R384): the two parts above. -/
def Obligations.ContextBlocks : Prop := ContextSaveAndLoad ∧ BlocksRestoreTheWarp

/-! ### Copies -/

/-- A form of a copy: its operands, kind, addresses, length, operand faults (R323, R340), and vault operands with their bytes. -/
structure CopyRow where
  i : Instr
  os : List Operand
  kind : CopyKind
  dst : Word
  src : Word
  len : Nat
  faults : List Nat
  ends : List (Word × Nat)

/-- The vault operands of one side of COPYS: its base, and every row of a copy that moves something (R135, R339). -/
def rowEnds (base : Word) (s1 s2 : Word) (n1 n2 row : Nat) : List (Word × Nat) :=
  (base, 0) :: if row * n1 * n2 = 0 ∨ 2 ^ 32 ≤ row * n1 * n2 then [] else
    (List.range n2).flatMap fun q => (List.range n1).map fun r => (base + BitVec.ofNat 64 q * s2 + BitVec.ofNat 64 r * s1, row)

def copyRows (x : Ictx) (g : Guard) (ext wide : Bool) (d : Nat) (a b c md : Operand) (bar : Option Operand) (e1 e2 e3 : Nat) : List CopyRow :=
  let A := x.uni .b64 a
  let B := x.uni .b64 b
  let C := (x.uni .b64 c).toNat
  let long (n : Nat) : List Nat := if 2 ^ 32 ≤ n then [7] else []
  let n1 := fld (x.w.sreg e3) 0 32
  let n2 := fld (x.w.sreg e3) 32 32
  let e := if wide then 2 else 1
  [ ⟨.copy g ext d a b c bar, [a, b, c] ++ bar.toList, .linear, A, B, C, long C, [(A, C), (B, C)]⟩,
    ⟨.copys g d a b c bar e1 e2 e3, [a, b, c] ++ bar.toList,
      .strided C (x.w.sreg e1).toInt (x.w.sreg (e1 + 1)).toInt (x.w.sreg e2).toInt (x.w.sreg (e2 + 1)).toInt n1 n2, A, B, C * n1 * n2,
      long (C * n1 * n2), rowEnds A (x.w.sreg e2) (x.w.sreg (e2 + 1)) n1 n2 C ++ rowEnds B (x.w.sreg e1) (x.w.sreg (e1 + 1)) n1 n2 C⟩,
    ⟨.copyx g wide d a b c bar md, [a, b, c, md] ++ bar.toList, .expand wide (x.uni .b64 md), A, B, 2 * C,
      (if A.toNat < 2 ^ 26 then [] else [3]) ++ long (2 * C) ++ (if C % (2 * e) = 0 then [] else [9]),
      [(A, 2 * C), (B, C), (x.uni .b64 md, (C / (2 * e) + 1) / 2)]⟩ ]

/-- Issue of COPY, COPYS and COPYX (R131, R132, R145, R323, R337 to R341): a PENDING handle or a copies counter at 31 leaves everything
as it stands; operand faults raise class 19 with the lowest SUB; a copy of length 0 is DONE at issue; any other makes its handle
PENDING, counts, and joins its channel with nothing translated. Vault operands lie in the gang's vault space whatever the length (the
model's reading, log entry 23). COPY, COPYS and COPYX complete under the conditions named. -/
def Obligations.CopiesIssue : Prop :=
  ∀ (s : State) (x : Ictx) (g : Guard) (ext wide : Bool) (d : Nat) (a b c md : Operand) (bar : Option Operand) (e1 e2 e3 : Nat) (r : CopyRow),
    r ∈ copyRows x g ext wide d a b c md bar e1 e2 e3 → Issues s x → x.any g = true → (privOf r.os = false ∨ 2 ≤ x.w.trap.level) →
    let h := x.w.handle d
    let bw := bar.map (x.uni .b64)
    let faults := r.faults ++ (if bw.any (fun w => w.toNat % 16 ≠ 0) then [1] else []) ++ (if bw = some 0 then [8] else [])
    let inside := (∀ e ∈ r.ends, e.1.toNat < 2 ^ 26 → ∃ t, x.g.vaultPlace e.1 e.2 = .ok t) ∧
      (∀ w, bw = some w → w.toNat < 2 ^ 26 ∧ ∃ t, x.g.vaultPlace w 16 = .ok t)
    let w := merged x.act x.w d
    (h.st = .pending → exec r.i s = .next s) ∧
    (h.st ≠ .pending → x.w.cnt.cp ≤ 30 → ∀ n ∈ faults, (∀ m ∈ faults, n ≤ m) →
      Traps (exec r.i s) x (Trap.all 19 n x.act 0)) ∧
    (h.st ≠ .pending → 31 ≤ x.w.cnt.cp → exec r.i s = .next s) ∧
    (h.st ≠ .pending → x.mergeTrap [d] = none → x.w.cnt.cp ≤ 30 → faults = [] → inside →
      (r.len = 0 → exec r.i s = .next (x.then' { w with handles := setAt w.handles d ⟨.done, 0, 0, 0, false, 0, 0⟩ })) ∧
      (r.len ≠ 0 → exec r.i s = .next
        (let id := x.s.work.nextCopy
        let t := x.then' { w with handles := setAt w.handles d ⟨.pending, 0, 0, 0, false, 0, 0⟩, cnt := { w.cnt with cp := w.cnt.cp + 1 } }
        { t with work := { t.work with
            copies := KMap.put t.work.copies id ⟨id, x.c.warp, d, x.w.id.core, x.s.streamOf x.w, x.v, x.g.words, x.g.wgs, r.kind, r.dst, r.src, r.len,
              0, bw, false, [], x.before ++ (if bw.isSome then (x.w.work.ops.filter fun o => o.kind.isBar).map (·.id) else []),
              x.w.work.xfence, false, 0, none, [], x.w.work.missed, x.w.work.nextOp⟩
            nextCopy := id + 1 } })))

/-- Address of a destination byte by linear index (R146, R339). -/
def dstAt (c : Copy) (i : Nat) : Word :=
  match c.kind with
  | .strided row _ _ d1 d2 n1 _ =>
    c.dst + BitVec.ofInt 64 (((i / row / n1 : Nat) : Int) * d2 + ((i / row % n1 : Nat) : Int) * d1) + BitVec.ofNat 64 (i % row)
  | _ => c.dst + BitVec.ofNat 64 i

/-- Bytes of the beat at a linear index: to a 64-byte destination boundary, the row's end or the copy's end (R146, R339). -/
def beatAt (c : Copy) (i : Nat) : Nat :=
  min (64 - (dstAt c i).toNat % 64) (match c.kind with | .strided row _ _ _ _ _ _ => row - i % row | _ => c.len - i)

/-- Destination byte `i` of COPYX from its value bytes and metadata bytes (R148): zero, and a metadata error, where the first
position is not below the second. -/
def expandAt (wide : Bool) (val nib : Nat → Byte) (i : Nat) : Byte × Bool :=
  let e := if wide then 2 else 1
  let grp := i / (4 * e)
  let n := (nib (grp / 2)).toNat / 16 ^ (grp % 2) % 16
  let el := i / e % 4
  (if n / 4 ≤ n % 4 then 0 else if el = n % 4 then val (2 * e * grp + i % e) else if el = n / 4 then val (2 * e * grp + e + i % e) else 0,
    decide (n / 4 ≤ n % 4))

/-- Copies at work (R145 to R149, R151, R294). A copy starts once it is the first of its channel and the warp's earlier accesses are done;
copies of gangs off their cores are not on it. A beat, the last one too, stores its bytes at its destination, but for words that have taken
their copied values early, and moves the fill pointer by its length, reading the source first where it has not: where the copy may miss an
earlier plain store, each word holds one of the values of R147; COPYX expands groups by their nibbles; the last beat ends the copy and
completes the handle with status 0, or 0x05 after a metadata error; an access that does not translate, or meets bad memory, ends the copy
with status 0x02 or 0x03 and the failing address. COPY_START, COPY_BEAT and COPY_FAULT complete under the conditions named. -/
def Obligations.CopiesDeliverInOrder : Prop :=
  ∀ (s : State) (id : Nat) (c : Copy) (w : Warp), KMap.find? s.work.copies id = some c → c.id = id → s.warp? c.warp = some w →
    w.allExited = false → KMap.rising s.work.copies = true →
    (c.started = false → (∀ e ∈ s.work.copies, e.1 < id → ¬ (e.2.core = c.core ∧ e.2.f % 4 = c.f % 4 ∧ s.warpResident e.2.warp = true)) → s.enginesRun c.slot = true →
      s.warpResident c.warp = true → s.copyMayRead c = true →
      exec (.copyStart id) s = .next ((s.landChannel (4 * c.core + c.f % 4)).setCopy { c with started := true })) ∧
    ((∃ e ∈ s.work.copies, e.1 < id ∧ e.2.core = c.core ∧ e.2.f % 4 = c.f % 4 ∧ s.warpResident e.2.warp = true) → exec (.copyStart id) s = .next s) ∧
    (c.started = true → c.err = none → s.enginesRun c.slot = true → s.warpResident c.warp = true → c.inPod = 0 → s.podBeats id < 32 →
      c.fill < c.len → c.barrier = none →
      let i := c.fill
      let n := beatAt c i
      let after (u : State) (p : Place) (bs : List Byte) (bad : Bool) (o : Host.Outcome State Fault Refusal) : Prop :=
        let put := if c.early = [] then u.engineStore c.warp (some (4 * c.core + c.f % 4)) c.f (i + n) p bs else u.beatStore c i p bs
        (i + n < c.len → ∃ a, o = .next
          ((put.setCopy { c with fill := i + n, ahead := a, metaErr := bad, early := c.early.filter fun e => i + n < e.1 + e.2 }).modWarp
            c.warp fun w => w.setHandle c.f { w.handle c.f with fill := i + n })) ∧
        (i + n = c.len → o = .next (((put.dropCopy id).modWarp c.warp fun w => { w with
          handles := setAt w.handles c.f
            { w.handle c.f with st := .done, status := if bad then 5 else 0, flags := 0, info := 0, merged := false, fill := c.len }
          cnt := { w.cnt with cp := w.cnt.cp - 1 } }).settleWarp c.warp))
      (∀ p q s1 s2, c.kind = .linear → c.ahead = [] → (c.src + BitVec.ofNat 64 i).toNat % 64 = (dstAt c i).toNat % 64 →
        (i = 0 ∨ (c.src + BitVec.ofNat 64 i).toNat % 64 = 0) →
        s.engResolve c.slot c.gang (c.src + BitVec.ofNat 64 i) n Acc.read = (.local p, s1) → s1.placeOpen c.slot p = true →
        let r := if c.past = [] then (s1.readPlace p n, s1) else s1.copyBytes c p n
        (r.2.setCopy { c with ahead := [(i, some r.1)] }).engResolve c.slot c.gang (dstAt c i) n Acc.write = (.local q, s2) →
        s2.placeOpen c.slot q = true → after s2 q r.1 c.metaErr (exec (.copyBeat id 0) s)) ∧
      (∀ q s2, c.ready i n = true → s.engResolve c.slot c.gang (dstAt c i) n Acc.write = (.local q, s2) → s2.placeOpen c.slot q = true →
        let out : List (Byte × Bool) := (List.range n).map fun k => match c.kind with
          | .expand wide _ => expandAt wide c.srcByte (fun j => c.srcByte (c.len + j)) (i + k)
          | _ => (c.srcByte (i + k), false)
        after s2 q (out.map (·.1)) (c.metaErr || out.any (·.2)) (exec (.copyBeat id 0) s)) ∧
      (∀ e r a, s.copyError c = some (r, a) → r.err? = some e → (e = .stage1 ∨ e = .uncorrectable) →
        exec (.copyFault id e) s = .next ((s.dropCopy id).setWarp c.warp { w with
          handles := setAt w.handles c.f { w.handle c.f with st := .done, status := if e = .stage1 then 2 else 3, flags := 0, info := a, merged := false }
          cnt := { w.cnt with cp := w.cnt.cp - 1 } }) ∧
        ∀ e', e' ≠ e → exec (.copyFault id e') s = .next s))

/-! ### Matrix instructions -/

/-- The path as it stands once the handle that an instruction names has been merged (R132). -/
def afterMerge (x : Ictx) (d : Nat) : Ictx := { x with w := merged x.act x.w d, s := x.s.setWarp x.c.warp (merged x.act x.w d) }

/-- The operation `o` joins the core's array: it counts on the tiles counter, its handle is PENDING with OP 1, and it becomes the last
writer of each of the workgroup's tiles that it writes (R131, R342, R352). -/
def joined (x : Ictx) (o : MatOp) (hd : Option Nat) (tiles : List Nat) : State :=
  let id := x.s.work.nextMat
  let hs := match hd with | none => x.w.handles | some f => setAt x.w.handles f ⟨.pending, 1, 0, 0, false, 0, 0⟩
  let t := x.then' { x.w with
    handles := hs, cnt := { x.w.cnt with tl := x.w.cnt.tl + 1 }
    work := { x.w.work with mzTiles := x.w.work.mzTiles ++ tiles.map fun t => (id, hd.getD 16, t) } }
  let u := t.modGang x.w.id.gang fun g => { g with writers := tiles.foldl (fun m t => KMap.put m (384 * x.w.id.wg + t) id) g.writers }
  { u with work := { t.work with
      nextMat := id + 1
      arrays := KMap.put t.work.arrays x.w.id.core (KMap.get t.work.arrays [] x.w.id.core ++ [{ o with id := id }]) } }

/-- A form of an array instruction: operands, operand faults (R345), vault operands with their bytes, the operation, the tiles it writes. -/
structure MatRow where
  i : Instr
  os : List Operand
  faults : List Nat
  ends : List (Word × Nat)
  op : MatOp
  tiles : List Nat

def faultIf (b : Prop) [Decidable b] (n : Nat) : List Nat := if b then [n] else []

/-- MTOPK, MZLD, MZST and MZCLR (R354, R356). -/
def arrayRows (x : Ictx) (g : Guard) (t : Ty) (max : Bool) (k d zt : Nat) (b c : Operand) : List MatRow :=
  let B := x.uni t b
  let C := x.uni t c
  let n := (x.uni .b64 b).toNat
  let engaged (k : MatKind) : MatOp := { x.blankOp d k zt with after := x.before, xfence := x.w.work.xfence }
  let odd : Prop := B.toNat % 16 ≠ 0 ∨ C.toNat % 16 ≠ 0
  let rows : List (Word × Nat) := (List.range 32).map fun m => (B + C * BitVec.ofNat 64 m, 32 * (t.width / 8))
  let tile := faultIf (x.g.zt ≤ zt) 0x29
  [ ⟨.mtopk g t max k d zt b c, [b, c], faultIf (B.toNat % 16 ≠ 0) 0x21 ++ faultIf (0xFFFFFFDF < C.toNat % 2 ^ 32) 0x25 ++ tile, [(B, 8192)],
      { engaged (.topk t max k) with a := B, c := BitVec.ofNat 64 (C.toNat % 2 ^ 32), undef := x.uncovered zt }, []⟩,
    ⟨.mzld g t d zt b c, [b, c], faultIf odd 0x21 ++ tile, rows, { engaged (.mzld t) with a := B, b := C }, [zt]⟩,
    ⟨.mzst g t d zt b c, [b, c], faultIf odd 0x21 ++ tile, rows, { engaged (.mzst t) with a := B, b := C, undef := x.uncovered zt }, []⟩,
    ⟨.mzclr g d zt b, [b], faultIf (x.g.zt < zt + n ∨ x.g.zt ≤ zt) 0x29, [], x.blankOp d (.mzclr n) zt, (List.range n).map fun i => zt + i⟩ ]

/-- Issue of MTOPK, MZLD, MZST, MZCLR, MZMV and MOPF (R131, R132, R220, R342, R344, R345, R352 to R356): a PENDING handle or a tiles
counter at 15 leaves all as it stands; a lane that takes no part is class 2 SUB 1; then come the operand faults, lowest first, and a
vault operand outside the gang's space, class 16 SUB 3 with its address; else the operation joins the array. MZCLR of no tile is
DONE at issue; MZMV needs width 32 and its registers hold undefined values out of a tile; MOPF waits for earlier loads and
fixes the registers that a later operation reads. MTOPK, MZLD, MZST, MZCLR, MZMV and MOPF complete under the conditions named. -/
def Obligations.ArrayInstructionsIssue : Prop :=
  ∀ (s : State) (x : Ictx) (g : Guard) (t : Ty) (max : Bool) (k d zt : Nat) (b c : Operand), Issues s x →
    (∀ r ∈ arrayRows (afterMerge x d) g t max k d zt b c, (privOf r.os = false ∨ 2 ≤ x.w.trap.level) →
      let full := x.lanes g = fullMask x.w.width
      let ready := (x.w.handle d).st ≠ .pending ∧ x.w.cnt.tl < 15
      (¬ ready → exec r.i s = .next s) ∧
      (ready → ¬ full → Traps (exec r.i s) x (Trap.all 2 1 x.act 0)) ∧
      (ready → full → ∀ n ∈ r.faults, (∀ m ∈ r.faults, n ≤ m) → Traps (exec r.i s) x (Trap.all 19 n x.act 0)) ∧
      (ready → full → r.faults = [] → ∀ e, r.ends.find? (fun e => !x.g.holds e.1 e.2) = some e →
        Traps (exec r.i s) x (Trap.all 16 3 x.act e.1)) ∧
      (ready → full → r.faults = [] → (∀ e ∈ r.ends, x.g.holds e.1 e.2 = true) → x.mergeTrap [d] = none →
        (r.op.kind ≠ .mzclr 0 → exec r.i s = .next (joined (afterMerge x d) r.op (some d) r.tiles)) ∧
        (r.op.kind = .mzclr 0 → exec r.i s = .next (x.then' { merged x.act x.w d with
          handles := setAt (merged x.act x.w d).handles d ⟨.done, 1, 0, 0, false, 0, 0⟩ })))) ∧
    (15 ≤ x.w.cnt.tl → ∀ into, exec (.mzmv g t into d zt) s = .next s) ∧
    (x.w.cnt.tl < 15 → x.lanes g ≠ fullMask x.w.width → ∀ into, Traps (exec (.mzmv g t into d zt) s) x (Trap.all 2 1 x.act 0)) ∧
    (x.lanes g = fullMask x.w.width → x.w.cnt.tl < 15 →
      let n := if t.width = 32 then 16 else 8
      (x.g.nv < d + n → ∀ into, Traps (exec (.mzmv g t into d zt) s) x (Trap.all 19 0x0C x.act 0)) ∧
      (d + n ≤ x.g.nv → x.w.width ≠ 32 → ∀ into, Traps (exec (.mzmv g t into d zt) s) x (Trap.all 19 0x20 x.act 0)) ∧
      (d + n ≤ x.g.nv → x.w.width = 32 → x.g.zt ≤ zt → ∀ into, Traps (exec (.mzmv g t into d zt) s) x (Trap.all 19 0x29 x.act 0)) ∧
      (d + n ≤ x.g.nv → x.w.width = 32 → zt < x.g.zt →
        exec (.mzmv g t true d zt) s = .next (joined x { x.blankOp 16 (.mzmv t true d) zt with
          regs := x.snap x.w.vr.v d n, mopf := x.snap x.w.work.mopf d n } none [zt]) ∧
        CompletesWith (exec (.mzmv g t false d zt) s) fun u => ∃ v : Warp,
          u = { (joined x { x.blankOp 16 (.mzmv t false d) zt with undef := x.uncovered zt } none []).setWarp x.c.warp v with
            free := x.s.free + 32 * n } ∧
          (joined x (x.blankOp 16 (.mzmv t false d) zt) none []).warp? x.c.warp = some { v with vr := { v.vr with v := x.w.vr.v } } ∧
          (KMap.rising x.w.vr.v = true → ∀ r l, l < 128 → ¬ (d ≤ r ∧ r < d + n ∧ l < 32) → v.vreg r l = x.w.vreg r l))) ∧
    (x.any g = true →
      let n := match x.p.hold with | some (.ops n) => n | _ => x.w.work.nextOp
      let done := ∀ o ∈ x.w.work.ops, o.id < n → o.dst = none ∨ o.scalar = true
      (done → exec (.mopf g) s = .next (x.then' { x.w with work := { x.w.work with mopf := x.w.vr.v } })) ∧
      (¬ done → exec (.mopf g) s = .next (x.s.setWarp x.c.warp (x.w.modPath x.c.path fun p => { p with hold := some (.ops n) }))))

/-- A multiply (R343): its instruction, whether it is MMAB or MDSQ, whether it zeroes its tile first, and whether it walks. -/
structure MulRow where
  i : Instr
  kind : MatKind
  mmab : Bool
  dsq : Bool
  walk : Bool

def mulRows (g : Guard) (av bt z walk : Bool) (d zt : Nat) (b c fb geo bstr tab : Operand) : List MulRow :=
  [ ⟨.mma g av bt d zt b c fb geo, .mul false false false false, false, false, false⟩,
    ⟨.mmaz g av bt d zt b c fb geo, .mul true false false false, false, false, false⟩,
    ⟨.mmab g av bt z walk d zt b c fb geo bstr tab, .mul z walk true false, true, false, walk⟩,
    ⟨.mdsq g av bt z d zt b c fb geo, .mul z false false true, false, true, false⟩ ]

/-- Issue of MMA, MMAZ, MMAB and MDSQ (R220, R242, R344 to R351). After the full mask: a format block that is misaligned or outside the
vault is SUB 0x10; one that fails its own checks is refused with its SUB; then come SUBs 0x20 to 0x29 as R345 gives them and the vault
checks; else the operation joins the array with its format, scales, block list and register operands as they stand. MMAB with no
block is DONE at issue. As the block, its codebooks and scales and the block table are read at issue, a multiply waits for earlier accesses
of the warp that go before it (R190, R191; log entry 95), and for operations in the core's array that are to write what it reads (R342); what
those in the array have written lands first. MMA, MMAZ, MMAB and MDSQ complete under the conditions named. -/
def Obligations.MultipliesIssue : Prop :=
  ∀ (s : State) (x : Ictx) (g : Guard) (av bt z walk : Bool) (d zt r : Nat) (b c fb geo bstr tab : Operand) (m : MulRow),
    m ∈ mulRows g av bt z walk d zt b c fb geo bstr tab → Issues s x → x.lanes g = fullMask x.w.width → x.w.cnt.tl < 15 →
    (x.w.handle d).st ≠ .pending → x.mergeTrap [d] = none → (privOf [b, c, fb, geo, bstr, tab] = false ∨ 2 ≤ x.w.trap.level) →
    (av = false → b = .v r ∧ r + 8 ≤ x.g.nv) →
    let y := (afterMerge x d).arrayLanded
    let u (o : Operand) : Word := y.uni .b64 o
    let G := u geo
    let args : MulArgs := ⟨m.kind, m.mmab, m.dsq, m.walk, d, zt, av, bt, regOf b, if av then u b else 0, u c, u fb, G,
      if m.mmab then u bstr else 0, if m.mmab then u tab else 0⟩
    let nk := fld G 0 12 + 1
    let tb : Nat × Nat × Nat × List Nat := if m.mmab then (y.s.readTable x.g (u tab)).getD (0, 1, 0, []) else (0, 1, 1, [0])
    let count := tb.2.2.1
    let list := tb.2.2.2
    let ta := if m.walk then count * nk else nk
    let bad (n : Nat) := Traps (exec m.i s) x.arrayLanded (Trap.all 19 n x.act 0)
    (y.mulReady args = false → exec m.i s = .next s) ∧
    (y.mulReady args = true → (((u fb).toNat % 32 ≠ 0 ∨ x.g.holds (u fb) 32 = false) → bad 0x10) ∧
    (∀ n, y.s.fmtFault x.g (u fb) (aScaleRuns ta) (bScaleRuns nk list) = some n → bad n) ∧
    (y.s.fmtFault x.g (u fb) (aScaleRuns ta) (bScaleRuns nk list) = none →
      let f := y.s.readFmt x.g (u fb)
      let aBytes := fmtBytes f.a.fmt (32 * ta)
      let faults :=
        faultIf (av = false ∧ (x.w.width ≠ 32 ∨ 64 < aBytes)) 0x20 ++
        faultIf ((av = true ∧ ((u b).toNat % 16 ≠ 0 ∨ fld G 32 16 % 16 ≠ 0)) ∨ (u c).toNat % 16 ≠ 0 ∨ fld G 48 16 % 16 ≠ 0 ∨
          (m.mmab = true ∧ ((u bstr).toNat % 16 ≠ 0 ∨ (u tab).toNat % 8 ≠ 0))) 0x21 ++
        faultIf (fld G 12 20 ≠ 0 ∨ tb.1 ≠ 0) 0x22 ++
        faultIf (m.mmab = true ∧ (y.s.readTable x.g (u tab)).isSome = true ∧ (1024 < count ∨ tb.2.1 = 0 ∨ (∃ e ∈ list, tb.2.1 ≤ e) ∨
          ¬ list.Pairwise (· < ·))) 0x23 ++
        faultIf (m.dsq = true ∧ (f.a.sk ≠ 0 ∨ f.b.sk ≠ 0)) 0x24 ++
        faultIf (x.g.zt ≤ zt ∨ (m.mmab = true ∧ m.walk = false ∧ x.g.zt < zt + count)) 0x29
      let inside := (m.mmab = true → x.g.holds (u tab) (8 + 2 * count) = true) ∧
        (av = true → 0 < ta → x.g.holds (u b) (31 * fld G 32 16 + aBytes) = true) ∧
        ∀ e ∈ list, let base := u c + (if m.mmab then u bstr else 0) * BitVec.ofNat 64 e
          x.g.holds base (if bt then 31 * fld G 48 16 + fmtBytes f.b.fmt (32 * nk) else (32 * nk - 1) * fld G 48 16 + fmtBytes f.b.fmt 32) = true
      (∀ n ∈ faults, (∀ k ∈ faults, n ≤ k) → bad n) ∧
      (faults = [] → inside → m.mmab = true → count = 0 → exec m.i s = .next (y.then' { y.w with
          handles := setAt y.w.handles d ⟨.done, 1, 0, 0, false, 0, 0⟩ })) ∧
      (faults = [] → inside → count ≠ 0 → exec m.i s = .next (joined y { y.blankOp d m.kind zt with
          a := if av then u b else 0, b := u c, geo := G, bstr := if m.mmab then u bstr else 0, tab := if m.mmab then u tab else 0, fbk := u fb
          av := av, bt := bt, iacc := f.iacc
          fa := y.s.readSide x.g f.a (aScaleRuns ta f), fb := y.s.readSide x.g f.b (bScaleRuns nk list f), list := list, nblk := tb.2.1
          regs := if av then [] else x.snap x.w.vr.v r 8, mopf := if av then [] else x.snap x.w.work.mopf r 8 } (some d)
        (if m.mmab && !m.walk then (List.range count).map fun i => zt + i else [zt])))))

/-- Issue of MVN (R153, R217, R345, R357). It waits for what goes before its reads (R190, R191; log entry 95). A faulty format block
raises its SUB; then come the faults of bases, geometry and placement, lowest first; a page of W outside local HBM or where near-memory
reads are not allowed is SUB 0x27, and so is an operand outside the gang's vault space (the model's reading, log entry 108); a page whose
table lies in host memory that the link die does not reach now is waited for (R27); bad lengths are SUB 0x28; of pages that do not translate
the one whose cause ranks highest is raised. Else it counts as a tiles operation with OP 2 and holds for each page its physical page, owner
and key. MVN completes under the conditions named. -/
def MatrixVectorIssues : Prop :=
  ∀ (s : State) (x : Ictx) (g : Guard) (acc : Bool) (d : Nat) (a b c fb geo pitch : Operand), Issues s x →
    x.lanes g = fullMask x.w.width → x.w.cnt.tl < 15 → (x.w.handle d).st ≠ .pending → x.mergeTrap [d] = none →
    (privOf [a, b, c, fb, geo, pitch] = false ∨ 2 ≤ x.w.trap.level) →
    let y := afterMerge x d
    let u (o : Operand) : Word := y.uni .b64 o
    let G := u geo
    let rows := fld G 0 20 + 1
    let klen := fld G 32 16
    let p := (u pitch).toNat
    let out := exec (.mvn g acc d a b c fb geo pitch) s
    let aRuns (f : FmtBlock) : List (Nat × Nat) := [(0, rows * (32 / f.a.block) * (klen / 32))]
    let bRuns (f : FmtBlock) : List (Nat × Nat) := [(0, (32 / f.b.block) * (klen / 32))]
    (y.engineReady = false → out = .next s) ∧
    (y.engineReady = true → ∀ n, y.s.fmtFault x.g (u fb) aRuns bRuns = some n → Traps out x (Trap.all 19 n x.act 0)) ∧
    (y.engineReady = true → y.s.fmtFault x.g (u fb) aRuns bRuns = none →
      let f := y.s.readFmt x.g (u fb)
      let row := fmtBytes f.a.fmt klen
      let meets (lo n lo' n' : Nat) : Prop := lo < lo' + n' ∧ lo' < lo + n
      let faults :=
        faultIf ((u a).toNat % 16 ≠ 0 ∨ (u b).toNat % 16 ≠ 0 ∨ (u c).toNat % 16 ≠ 0 ∨ p % 16 ≠ 0) 0x21 ++
        faultIf (fld G 48 16 ≠ 0 ∨ fld G 20 12 ≠ 0) 0x22 ++
        faultIf ((u a).toNat < 2 ^ 26 ∨ inPodWindow (u a) = true ∨ f.a.fmt = 1 ∨ (u a).toNat % 256 ≠ 0 ∨ p % 256 ≠ 0 ∨
          x.g.holds (u b) (fmtBytes f.b.fmt klen) = false ∨ x.g.holds (u c) (4 * rows) = false) 0x27
      let late := klen % 32 ≠ 0 ∨ klen < 32 ∨ 16384 < klen ∨ p < row ∨
        meets (u c).toNat (4 * rows) (u b).toNat (fmtBytes f.b.fmt klen) ∨ meets (u c).toNat (4 * rows) (u fb).toNat 32
      (∀ n ∈ faults, (∀ k ∈ faults, n ≤ k) → Traps out x (Trap.all 19 n x.act 0)) ∧
      (faults = [] → ∀ ps s1, y.s.pagesOf x.v (rowPages (u a) (u pitch) rows row) = (ps, s1) →
        let misplaced := ∃ e ∈ ps, ∃ t, e.2 = .ok t ∧ ¬ (t.nme = true ∧ ∃ pa o, t.place = .hbm pa o)
        let held := ∃ e ∈ ps, e.2 = .error .held
        (misplaced → Traps out x (Trap.all 19 0x27 x.act 0)) ∧
        (¬ misplaced → held → out = .next s) ∧
        (¬ misplaced → ¬ held → late → Traps out x (Trap.all 19 0x28 x.act 0)) ∧
        (¬ misplaced → ¬ held → ¬ late → ∀ cl before after q sub, ps = before ++ (q, .error (.fault cl sub)) :: after →
          (∀ e ∈ before, ∀ cl' sub', e.2 = .error (.fault cl' sub') → (XErr.fault cl sub).rank < (XErr.fault cl' sub').rank) →
          (∀ e ∈ after, ∀ cl' sub', e.2 = .error (.fault cl' sub') → (XErr.fault cl sub).rank ≤ (XErr.fault cl' sub').rank) →
          Traps out x (Trap.all cl sub x.act (BitVec.ofNat 64 (q * 4096)))) ∧
        (¬ misplaced → ¬ late → (∀ e ∈ ps, ∃ t, e.2 = .ok t) → CompletesWith out fun t =>
          let id := s1.work.nextMat
          let w := merged x.act x.w d
          let v := { w with handles := setAt w.handles d ⟨.pending, 2, 0, 0, false, 0, 0⟩, cnt := { x.w.cnt with tl := x.w.cnt.tl + 1 } }
          let v := v.modPath x.c.path fun q => q.goTo (q.pc + BitVec.ofNat 64 (lenOf x.c.w0)) (lpOf x.c.w0 == 1 && !x.c.sec)
          ∃ n : MvnOp, t = { s1.setWarp x.c.warp v with work := { (s1.setWarp x.c.warp v).work with
              nextMat := id + 1, mvns := KMap.put s1.work.mvns id n } } ∧
            (n.op.id, n.op.warp, n.op.f, n.rows, n.klen, n.pitch, n.acc, n.y) = (id, x.c.warp, d, rows, klen, p, acc, u c) ∧
            (n.op.a, n.op.b, n.op.c, n.op.geo, n.op.fbk, n.op.iacc) = (u a, u b, u c, G, u fb, f.iacc) ∧
            n.pages.map (fun e => e.1) = rowPages (u a) (u pitch) rows row ∧ n.err = none ∧
            ∀ (i q : Nat) (t : Target) (pa : Nat) (ow : Owner), ps[i]? = some (q, .ok t) → t.place = .hbm pa ow → n.pages[i]? = some (q, pa / 4096, ow))))

/-! ### The arrays at work -/

/-- Code of element `k` of a run of elements at a vault address (R232, R346). -/
def elemAt (s : State) (g : Gang) (fmt : Nat) (a : Word) (k : Nat) : Nat :=
  if fmt ≤ 1 then s.vaultNat g (a + BitVec.ofNat 64 (2 * k)) 2
  else if fmt = 2 then s.vaultNat g (a + BitVec.ofNat 64 k) 1
  else s.vaultNat g (a + BitVec.ofNat 64 (k / 2)) 1 / 16 ^ (k % 2) % 16

/-- The array's operation `o` has ended: it has left the queue, and its handle is DONE with status 0 and the flags `fl`. -/
def ended (u : State) (core : Nat) (w : Warp) (o : MatOp) (fl : Nat) : Prop :=
  (∀ p ∈ KMap.get u.work.arrays [] core, p.id ≠ o.id) ∧
  (o.f < 16 → ∃ v, u.warp? o.warp = some v ∧ v.handle o.f = { w.handle o.f with st := .done, status := 0, flags := BitVec.ofNat 5 fl, info := 0, merged := false } ∧
    v.cnt = { w.cnt with tl := w.cnt.tl - 1 })

/-- Is candidate `(v, i)` of a selection of i32 values by ascending order before or equal to `(v', i')` (R354)? -/
def noLater (a b : Nat × Nat) : Prop :=
  if a.2 = 0xFFFFFFFF ∨ b.2 = 0xFFFFFFFF then b.2 = 0xFFFFFFFF
  else if a.1 = b.1 then a.2 ≤ b.2
  else (BitVec.ofNat 32 a.1).slt (BitVec.ofNat 32 b.1) = true

/-- The array of a core performs its first operation (R139, R243, R244, R342, R347, R348, R354 to R356). A K-step takes every element of the
tile from the tile's element (or +0 in the first K-step of a zeroing form), the 32 elements of A's row and of B's column, and the
operation's scales; with INT8 and blocks of 32 it is the saturated sum of products. MZCLR clears the tiles; MZLD loads f32 and i32
elements unchanged; MTOPK with k = 1 puts the best candidate first in each row; a core with nothing queued does nothing. The operation
waits until what goes before its events has been performed (R190, R191), and reads the vault with the array's earlier results in it;
where the warp's engine writes land late (log entry 95) its own results come later. MATRIX_OP_COMPLETE completes under the conditions
named. -/
def Obligations.ArrayPerformsItsOperations : Prop :=
  ∀ (s : State) (core : Nat) (o : MatOp) (w : Warp) (g : Gang), s.arrayHead core = some (o, w, g) → s.arrayRuns g = true →
    (s.engineMayRead o.warp o.after o.xfence = false → exec (.matrixOpComplete core) s = .next s) ∧
    (s.engineMayRead o.warp o.after o.xfence = true → s.warp? o.warp = some w → w.allExited = false → w.handles.length = 16 → o.flags = 0 → o.undef = false →
    KMap.rising s.dies.z = true → KMap.rising s.work.arrays = true → Memory.wf s.dies.vault = true →
    let tile (i : Nat) := g.tile w (o.zt + i)
    let out := exec (.matrixOpComplete core) s
    let s := s.landChannel (arrayChannel core)
    (∀ n, o.kind = .mzclr n → CompletesWith out fun u => ended u core w o 0 ∧
      (∀ i m k, i < n → m < 32 → k < 32 → u.zElem (tile i) m k = 0) ∧
      (∀ t m k, (∀ i, i < n → t ≠ tile i) → m < 32 → k < 32 → u.zElem t m k = s.zElem t m k)) ∧
    (∀ t, o.kind = .mzld t → (t = .f32 ∨ t = .i32) → CompletesWith out fun u => ended u core w o 0 ∧
      (∀ m k, m < 32 → k < 32 → u.zElem (tile 0) m k = s.vaultNat g (o.a + o.b * BitVec.ofNat 64 m + BitVec.ofNat 64 (4 * k)) 4) ∧
      (∀ t m k, t ≠ tile 0 → m < 32 → k < 32 → u.zElem t m k = s.zElem t m k)) ∧
    (∀ zero dsq, o.kind = .mul zero false false dsq → fld o.geo 0 12 = 0 → o.list = [0] → o.kstep = 0 → o.block = 0 → o.av = true →
      o.fa.fmt ≤ 3 → o.fb.fmt ≤ 3 →
      (∀ m, m < 32 → g.holds (o.a + BitVec.ofNat 64 (m * fld o.geo 32 16)) (fmtBytes o.fa.fmt 32) = true) →
      (∀ m, m < 32 → g.holds (o.b + o.bstr * 0 + BitVec.ofNat 64 (m * fld o.geo 48 16)) (fmtBytes o.fb.fmt 32) = true) →
      let row (m : Nat) := (List.range 32).map fun k => elemAt s g o.fa.fmt (o.a + BitVec.ofNat 64 (m * fld o.geo 32 16)) k
      let col (n : Nat) := (List.range 32).map fun k => if o.bt then elemAt s g o.fb.fmt (o.b + o.bstr * 0 + BitVec.ofNat 64 (n * fld o.geo 48 16)) k
        else elemAt s g o.fb.fmt (o.b + o.bstr * 0 + BitVec.ofNat 64 (k * fld o.geo 48 16)) n
      let r (m n : Nat) := kStep dsq o.iacc o.fa o.fb (m * (32 / o.fa.blk)) (n * (32 / o.fb.blk))
        (if zero then 0 else s.zElem (tile 0) m n) (row m) (col n)
      CompletesWith out fun u => ∃ fl, ended u core w o fl ∧
        (∀ m n, m < 32 → n < 32 → u.zElem (tile 0) m n = (r m n).bits % 2 ^ 32) ∧
        (∀ t m n, t ≠ tile 0 → m < 32 → n < 32 → u.zElem t m n = s.zElem t m n) ∧
        (o.iacc = true → o.fa.blk = 32 → o.fb.blk = 32 → dsq = false → ∀ m n, m < 32 → n < 32 →
          let int8 (c : Nat) : Int := (BitVec.ofNat 8 c).toInt
          let sum := (BitVec.ofNat 32 (if zero then 0 else s.zElem (tile 0) m n)).toInt +
            (((row m).zip (col n)).map fun e => int8 e.1 * int8 e.2).sum
          (BitVec.ofNat 32 (u.zElem (tile 0) m n)).toInt = max (-(2 ^ 31)) (min (2 ^ 31 - 1) sum))) ∧
    (o.kind = .topk .i32 false 1 → g.holds o.a 8192 = true → CompletesWith out fun u => ended u core w o 0 ∧ u.dies.z = s.dies.z ∧
      (w.work.late = false → ∀ m, m < 32 →
        let entry (v : State) : Nat × Nat :=
          let x := leWord (v.vaultBytes g (o.a + BitVec.ofNat 64 (256 * m)) 8)
          (fld x 0 32, fld x 32 32)
        let cands := entry s :: (List.range 32).map fun n => (s.zElem (tile 0) m n, o.c.toNat + n)
        (o.c.toNat < 0xFFFFFFE0 → (∀ n, n < 32 → s.zElem (tile 0) m n < 2 ^ 32) → entry u ∈ cands ∧ ∀ e ∈ cands, noLater (entry u) e)))) ∧
    (∀ core', s.arrayHead core' = none → exec (.matrixOpComplete core') s = .next s)

/-- Near-memory products (R243, R357): with KLEN 32 each y(m) is one K-step of W's row m, read at the places translated at issue, with x,
from y(m) with ACC and from +0 without; the operation ends with its handle DONE. It ends too while its gang is being stopped (R105). One
that is to be reissued after a restore is (R358). Where the warp's engine writes land late (log entry 95) the results come later.
MVN_COMPLETE completes under the conditions named. -/
def MatrixVectorCompletes : Prop :=
  ∀ (s : State) (id : Nat) (n : MvnOp) (w : Warp) (g : Gang), KMap.find? s.work.mvns id = some n → s.warp? n.op.warp = some w →
    s.gangOf w = some g → (s.arrayRuns g = true ∨ (g.st = .stopping ∧ s.clocksRun = true)) → w.allExited = false → n.klen = 32 →
    Memory.wf s.dies.vault = true → n.op.f < w.handles.length → n.op.f < 16 →
    g.holds n.y (4 * n.rows) = true → n.y.toNat + 4 * n.rows < 2 ^ 64 →
    let o := n.op
    let result (m : Nat) := kStep false o.iacc o.fa o.fb (m * (32 / o.fa.blk)) 0 (if n.acc then s.vaultNat g (n.y + BitVec.ofNat 64 (4 * m)) 4 else 0)
      (s.weightCodes n m 0) (elemCodes o.fb.fmt (s.vaultNat g o.b (fmtBytes o.fb.fmt 32)))
    (n.err.isSome = true → s.arrayRuns g = true → exec (.mvnComplete id) s = .next (s.resumeMvn g.slot n)) ∧
    (n.err = none → CompletesWith (exec (.mvnComplete id) s) fun u => ∃ fl late past,
      u.warp? o.warp = some { w with
        handles := setAt w.handles o.f { w.handle o.f with st := .done, status := 0, flags := fl, info := 0, merged := false }
        cnt := { w.cnt with tl := w.cnt.tl - 1 }
        work := { w.work with landing := w.work.landing ++ late, past := past } } ∧
      past.map (fun e => (e.op, e.place)) = w.work.past.map (fun e => (e.op, e.place)) ∧
      (w.work.late = false → late = [] ∧ ∀ m, m < n.rows → u.vaultNat g (n.y + BitVec.ofNat 64 (4 * m)) 4 = (result m).bits % 2 ^ 32) ∧
      (w.work.late = true → u.dies.vault = s.dies.vault ∧ late.map (fun e => (e.f, e.bytes)) =
        (List.range n.rows).map fun m => (o.f, leBytes 4 (result m).bits)) ∧
      u.hbm = s.hbm ∧ u.dies.z = s.dies.z ∧ u.work.arrays = s.work.arrays)

/-- MVN (R357): the two parts above. -/
def Obligations.MatrixVectorInstruction : Prop := MatrixVectorIssues ∧ MatrixVectorCompletes

/-! ### Grids -/

/-- Vault offset of owned element (c, x, y, z) of a descriptor (R155, R159): OOFF + e × (c + NCOMP × (x + BX × (y + BY × z))). -/
def ownedAt (d : Desc) (c x y z : Nat) : Nat := d.ooff + d.ty.width / 8 * (c + d.ncomp * (x + d.b 0 * (y + d.b 1 * z)))

/-- A tag says that its buffer holds step `m` (R160). -/
def tagHolds (s : State) (b : Binding) (f p m : Nat) : Prop :=
  ∃ pl, s.bindPlace b (b.d.toff + 8 * (2 * f + p)) = some pl ∧ (s.readWord pl 8).getLsbD 63 = true ∧ fld (s.readWord pl 8) 0 24 = m

/-- Grid resolution and the grid instructions (R155 to R168, R361 to R368). A cell inside the owned block is its element; beyond one edge
face of rule 0 the value is +0 and of rule 1 the face's constant, cut to the element; a component at or above NCOMP and a step above 2^24 −
1 resolve to nothing. GBIND of an allowed descriptor binds, zeroes the tag block and announces; a bound slot is SUB 0x31 and a refused
descriptor 0x30; no binding is 0x33; a descriptor that does not lie in device memory of APER 0 or 2 is 0x32. LDG issues a load of every
lane's element once every ghost it reads carries the step, with the ghosts' values as read under their checks; it stalls while one has not
come, and is class 4 with SUB 2 past it and 1 under SPOL. STG issues one plain store. HWAIT goes on once every receiving face carries the
step. LDG and HWAIT acquire: the warp comes to know of the array operations that the tags tell of. HPUB out of sequence is 0x36; it waits
for the warp's earlier operations; with no face to deliver it is DONE at issue, else its faces are waited for. Engine writes that the path
has observed land before LDG reads and as HWAIT goes on, and before GBIND those where it reads and writes (R190). GBIND, LDG, STG, HWAIT and
HPUB complete under the conditions named. -/
def Obligations.GridInstructions : Prop :=
  ∀ (s : State) (x : Ictx) (g : Guard) (t : Ty) (d slot : Nat) (a b c : Operand), Issues s x →
    let bound := x.s.binding? x.g x.w.id.gang x.w.id.wg slot
    let y := x.acquires
    (∀ (bd : Binding) (cell : Word) (m : Nat),
      let q (k : Nat) : Int := if k < bd.d.ndim then (cell.extractLsb' (16 * k) 16).toInt else 0
      (bd.d.ncomp ≤ fld cell 48 16 ∨ 2 ^ 24 ≤ m → bd.resolve cell m = .none) ∧
      (fld cell 48 16 < bd.d.ncomp → m < 2 ^ 24 → bd.d.ndim ≤ 3 → (∀ k, k < 3 → 0 ≤ q k ∧ q k < bd.d.b k) →
        bd.resolve cell m = .cell (ownedAt bd.d (fld cell 48 16) (q 0).toNat (q 1).toNat (q 2).toNat)) ∧
      (fld cell 48 16 < bd.d.ncomp → m < 2 ^ 24 → 1 ≤ bd.d.ndim → bd.d.ndim ≤ 3 → q 0 < 0 → bd.d.atEdge bd.owner 0 = true →
        (bd.d.rule 0 = 0 → bd.resolve cell m = .value 0) ∧
        (bd.d.rule 0 = 1 → bd.resolve cell m = .value (BitVec.ofNat 64 ((recWord bd.desc 8).toNat % 2 ^ (8 * (bd.d.ty.width / 8))))))) ∧
    (x.any g = true → (Operand.priv a = false ∨ 2 ≤ x.w.trap.level) →
      let A := x.uni .b64 a
      let y := x.landedAt (match (x.s.deviceRead x.v A 2).1 with | .ok (_, ps) => ps.map fun p => (p, 64) | .error _ => [])
      let taken := bound.isSome ∨ 1024 ≤ (x.s.slot x.v).bindings.length
      let refused (a : Word) : Prop := a.toNat < 2 ^ 26 ∨ inPodWindow a = true ∨ y.s.stage1Aper x.v a = some 1 ∨ y.s.stage1Aper x.v a = some 3
      (A.toNat % 64 ≠ 0 ∨ refused A ∨ refused (A + 64) →
        (taken → Traps (exec (.gbind g slot a) s) y (Trap.all 19 0x31 x.act 0)) ∧
        (¬ taken → Traps (exec (.gbind g slot a) s) y (Trap.all 19 0x32 x.act 0))) ∧
      (A.toNat % 64 = 0 → ¬ refused A → ¬ refused (A + 64) →
        ∀ bs ps s1, y.s.deviceRead x.v A 2 = (.ok (bs, ps), s1) → y.mayRead ps 64 = true →
          let ws := bytesWords bs
          let e := Desc.of ws
          let own := y.s.ownerOf x.g x.w.id.wg e
          let members := ((y.s.vchip? x.v).map fun c => y.s.podSize c.guest).getD 0
          let bad := e.bad ws ((own.map (·.2)).getD 0) (x.g.vlt * 4096) = true ∨ own = none ∨ (e.okind = 1 ∧ x.g.podg = false) ∨
            (e.okind = 2 ∧ members < e.vbase + e.o 0 * e.o 1 * e.o 2)
          let clash := ∃ b ∈ (y.s.slot x.v).bindings, b.d.gridid = e.gridid ∧
            (if e.okind = 2 then b.d.okind = 2 else b.gang = x.w.id.gang ∧ b.wg = x.w.id.wg)
          (bad → Traps (exec (.gbind g slot a) s) y (Trap.all 19 0x30 x.act 0)) ∧
          (¬ bad → taken ∨ clash → Traps (exec (.gbind g slot a) s) y (Trap.all 19 0x31 x.act 0)) ∧
          (¬ bad → ¬ taken → ¬ clash → ∀ owner count, own = some (owner, count) →
            let bd : Binding := ⟨x.w.id.gang, x.w.id.wg, slot, ws, owner, s1.streamOf x.w, false⟩
            ∀ pl, s1.bindPlace bd e.toff = some pl →
            exec (.gbind g slot a) s = .next ((((List.range 6).filter fun f => e.receives owner f).foldl
              (fun s f => s.sendCredit x.v bd bd.stream f 1 false 0)
              (((s1.landOver x.c.warp x.act [(pl, 256)]).storeAt pl (List.replicate 256 0)).modSlot x.v fun y => { y with bindings := y.bindings ++ [bd] })).modWarp x.c.warp x.advance)))) ∧
    (bound = none → (privOf [b, c] = false ∨ 2 ≤ x.w.trap.level) → topOf [b, .v d] ≤ x.g.nv →
      (x.lanes g ≠ 0 → Traps (exec (.ldg g t d slot b c) s) x (Trap.all 19 0x33 x.act 0)) ∧
      (x.any g = true → Operand.priv b = false ∨ 2 ≤ x.w.trap.level → Traps (exec (.hwait g slot b) s) x (Trap.all 19 0x33 x.act 0))) ∧
    (∀ bd, y.s.binding? x.g x.w.id.gang x.w.id.wg slot = some bd → bd.tampered = false → (privOf [b, c] = false ∨ 2 ≤ x.w.trap.level) → (t.code = 0 ∨ t.code = bd.d.etype) →
      topOf [b, .v d] ≤ x.g.nv → x.lanes g ≠ 0 →
      let m := (x.src t 0 c).toNat
      let cell (l : Nat) := bd.resolve (x.src .b64 l b) m
      m < 2 ^ 24 → (∀ l, Mask.has (x.lanes g) l = true → cell l ≠ .none) →
      let cells := (Mask.lanes (x.lanes g)).map fun l => (l, cell l)
      let z := y.hears y.s (y.s.ghostTags bd cells)
      let at' (off : Nat) := z.s.bindPlace bd off
      let lane (l : Nat) : LaneOp := match cell l with
        | .value w => laneOp l 0 (.vault x.w.id.core 0) 0 [w] []
        | .cell off => match at' off with
          | some p => laneOp l 0 p (bd.d.ty.width / 8) [] []
          | none => laneOp l 0 (.vault x.w.id.core 0) 0 [0] []
        | .ghost _ _ off => laneOp l 0 ((at' off).getD (.vault x.w.id.core 0)) 0
            [((at' off).map fun p => z.s.readWord p (bd.d.ty.width / 8)).getD 0] []
        | .none => laneOp l 0 (.vault x.w.id.core 0) 0 [0] []
      let o : MemOp := { opOf (.load false) .plain false false (some d) false with lanes := (Mask.lanes (x.lanes g)).map lane }
      (x.w.cnt.ld < 63 → (∀ l f p off, Mask.has (x.lanes g) l = true → cell l = .ghost f p off → tagHolds y.s bd f p m) →
        y.mayRead (y.s.ghostPlaces bd cells) (bd.d.ty.width / 8) = true →
        z.s.requests x.w.id.core + o.charge x.w.id.core ≤ 1536 →
        exec (.ldg g t d slot b c) s = .next (queued z z.s o)) ∧
      (63 ≤ x.w.cnt.ld → exec (.ldg g t d slot b c) s = .next y.s) ∧
      (x.w.cnt.ld < 63 → bd.d.spol = false → x.p.stall = none → bd.d.stall ≠ 0 → ∀ w : Word, w.getLsbD 63 = false →
        (∀ l, Mask.has (x.lanes g) l = true → ∃ f p off pl, cell l = .ghost f p off ∧
          y.s.bindPlace bd (bd.d.toff + 8 * (2 * f + p)) = some pl ∧ y.s.readWord pl 8 = w) →
        exec (.ldg g t d slot b c) s = .next (y.s.setWarp x.c.warp
          (y.w.modPath x.c.path fun p => { p with stall := some (y.s.cyc x.w.id.core) }))) ∧
      (x.w.cnt.ld < 63 → ∀ w : Word, (w.getLsbD 63 = true ∧ m < fld w 0 24) ∨ (bd.d.spol = true ∧ w.getLsbD 63 = false) →
        (∀ l, Mask.has (x.lanes g) l = true → ∃ f p off pl, cell l = .ghost f p off ∧
          y.s.bindPlace bd (bd.d.toff + 8 * (2 * f + p)) = some pl ∧ y.s.readWord pl 8 = w) →
        Traps (exec (.ldg g t d slot b c) s) y ⟨4, if w.getLsbD 63 then 2 else 1, (Mask.lanes (x.lanes g)).map fun l => (l, 0), false, none⟩)) ∧
    (∀ bd, bound = some bd → (privOf [b, a] = false ∨ 2 ≤ x.w.trap.level) → (t.code = 0 ∨ t.code = bd.d.etype) → topOf [a, b] ≤ x.g.nv →
      x.lanes g ≠ 0 → bd.d.ndim ≤ 3 →
      let q (l k : Nat) : Int := if k < bd.d.ndim then ((x.src .b64 l b).extractLsb' (16 * k) 16).toInt else 0
      let comp (l : Nat) := fld (x.src .b64 l b) 48 16
      (∀ l, Mask.has (x.lanes g) l = true → comp l < bd.d.ncomp ∧ (∀ k, k < 3 → 0 ≤ q l k ∧ q l k < bd.d.b k) ∧
        (x.s.bindPlace bd (ownedAt bd.d (comp l) (q l 0).toNat (q l 1).toNat (q l 2).toNat)).isSome = true) →
      let o : MemOp := { opOf .store .plain false false none false with
        lanes := (Mask.lanes (x.lanes g)).map fun l => laneOp l 0
          ((x.s.bindPlace bd (ownedAt bd.d (comp l) (q l 0).toNat (q l 1).toNat (q l 2).toNat)).getD (.host 0))
          (bd.d.ty.width / 8) [x.src .b64 l a] [] }
      x.w.cnt.st < 63 → x.s.requests x.w.id.core + o.charge x.w.id.core ≤ 1536 →
      exec (.stg g t a slot b) s = .next (queued x x.s o)) ∧
    (∀ bd, bound = some bd → bd.tampered = false → x.any g = true → (Operand.priv b = false ∨ 2 ≤ x.w.trap.level) →
      let m := (x.index 0 b).toNat
      let faces := (List.range 6).filter fun f => bd.d.receives bd.owner f || bd.d.supplies bd.owner f
      let pub : Word := ((x.s.bindPlace bd (bd.d.toff + 144)).map fun p => x.s.readWord p 8).getD 0
      let inSeq := m < 2 ^ 24 ∧ (if pub.getLsbD 63 then m = fld pub 0 24 + bd.d.d else m = 0)
      ((2 ^ 24 ≤ m ∨ m % bd.d.d ≠ 0) → Traps (exec (.hwait g slot b) s) x (Trap.all 19 0x34 x.act 0)) ∧
      (m < 2 ^ 24 → m % bd.d.d = 0 → (∀ f ∈ faces, tagHolds x.s bd f (m / bd.d.d % 2) m) →
        let tags := faces.filterMap fun f => x.s.bindPlace bd (bd.d.toff + 8 * (2 * f + m / bd.d.d % 2))
        x.mayRead tags 8 = true →
        exec (.hwait g slot b) s = .next (((x.hears x.s tags).s.acquired x.c.warp x.act).modWarp x.c.warp x.advance)) ∧
      ((x.w.handle d).st = .idle → ¬ inSeq → Traps (exec (.hpub g d slot b) s) x (Trap.all 19 0x36 x.act 0)) ∧
      let since := match x.p.hold with | some (.ops n) => n | _ => x.w.work.nextOp
      ((x.w.handle d).st = .idle → inSeq → x.w.cnt.cp < 31 → (∃ o ∈ x.w.work.ops, o.id < since) →
        exec (.hpub g d slot b) s = .next (x.s.setWarp x.c.warp (x.w.modPath x.c.path fun p => { p with hold := some (.ops since) }))) ∧
      ((x.w.handle d).st = .idle → inSeq → x.w.cnt.cp < 31 → (∀ o ∈ x.w.work.ops, since ≤ o.id) →
        let s1 := x.s.setTag bd 18 (BitVec.ofNat 64 (2 ^ 63 + m))
        let s2 := ((List.range 6).filter fun f => bd.d.receives bd.owner f).foldl (fun s f => s.sendCredit x.v bd (x.s.streamOf x.w) f 2 true m) s1
        let s3 := ((List.range 6).filter fun f => bd.d.suppliedEdge bd.owner f).foldl
          (fun s f => (s.setTag bd (2 * f + m / bd.d.d % 2) (BitVec.ofNat 64 (2 ^ 63 + m))).tagTells bd (2 * f + m / bd.d.d % 2) x.told) s2
        let out := (List.range 6).filter fun f => bd.d.delivers bd.owner f
        (out = [] → exec (.hpub g d slot b) s = .next (s3.setWarp x.c.warp (x.advance { x.w with
          handles := setAt x.w.handles d ⟨.done, 3, 0, 0, false, 0, 0⟩ }))) ∧
        (out ≠ [] → exec (.hpub g d slot b) s = .next (
          let u := s3.setWarp x.c.warp (x.advance { x.w with
            handles := setAt x.w.handles d ⟨.pending, 3, 0, 0, false, 0, 0⟩, cnt := { x.w.cnt with cp := x.w.cnt.cp + 1 } })
          let id := s3.work.nextPublish
          { u with work := { u.work with
              nextPublish := id + 1
              publishes := KMap.put u.work.publishes id ⟨id, x.v, x.w.id.gang, x.w.id.wg, slot, x.c.warp, x.s.streamOf x.w, d, m, out, 0, 0, x.told⟩ } }))))

/-- Halo messages within a vchip, publishes and the time-out (R160, R162, R164, R165, R167). A message of its stream's turn is taken from
the Sound; with no binding of its name, or FACE 6 or 7 (the model's choice, log entry 107), it is discarded; data is stored in its buffer at
64 × BEAT, cut to the buffer, and the last packet sets the tag, which then tells of no array operation but for a publish of this vchip's
own; an announce raises the face's credit word and is answered with the publish word; a credit raises it. A face copy starts once it has its
credit and no lower face that waits has (R162), and sends its face in packets of 64 bytes. A path that has stalled at HWAIT for STALL × 256
cycles takes class 4 SUB 0. HALO_DATA, HALO_ANNOUNCE, HALO_CREDIT, FACE_COPY_START and STALE_HALO_TIMEOUT complete under the conditions
named. -/
def Obligations.HaloExchange : Prop :=
  ∀ (s : State), s.clocksRun = true →
    (∀ (n : Nat) (p : Packet) (o : Origin), s.fabric.arriving = some (.sound n) → s.fabric.sound[n]? = some (p, o) →
    (∀ e ∈ s.fabric.sound.take n, ¬ (e.1.sslot = p.sslot ∧ e.1.stream = p.stream)) → (∀ q f, o ≠ .face q f) →
    let s1 : State := { s with fabric := { s.fabric with sound := s.fabric.sound.eraseIdx n } }
    let kind := fld p.imm 27 2
    let face := fld p.imm 29 3
    let row (k : Nat) : Instr := if k = 0 then .haloData else if k = 1 then .haloAnnounce else .haloCredit
    (kind < 3 → s1.haloTarget p.dslot p.imm p.svch (some p.offset) p.aop = none → exec (row kind) s = .next s1) ∧
    (kind < 3 → 6 ≤ face → exec (row kind) s = .next s1) ∧
    (∀ k, k < 3 → k ≠ kind → exec (row k) s = .next s) ∧
    (∀ b, kind < 3 → face < 6 → s1.haloTarget p.dslot p.imm p.svch (some p.offset) p.aop = some b → b.tampered = false →
      let tag (i : Nat) : Word := ((s1.bindPlace b (b.d.toff + 8 * i)).map fun q => s1.readWord q 8).getD 0
      let put (u : State) (i : Nat) (v pf : Bool) (step : Nat) : State :=
        match u.bindPlace b (b.d.toff + 8 * i) with
        | none => u
        | some q => u.writePlace q (wordBytes (BitVec.ofNat 64 ((if v then 2 ^ 63 else 0) + (if pf then 2 ^ 62 else 0) + step)) 8)
      let credit := put s1 (12 + face) true ((tag (12 + face)).getLsbD 62 || p.imm.getLsbD 26)
        (max (fld (tag (12 + face)) 0 24) p.oparg)
      let par := p.oparg / b.d.d % 2
      (kind = 0 → ∀ q, s1.bindPlace b (b.d.buffer face par + 64 * fld p.imm 0 16) = some q →
        let u := s1.storeAt q (p.payload.take (b.d.frame face - 64 * fld p.imm 0 16))
        exec .haloData s = .next (if p.imm.getLsbD 26 then (put u (2 * face + par) true false p.oparg).tagTells b (2 * face + par) [] else u)) ∧
      (kind = 2 → exec .haloCredit s = .next credit) ∧
      (kind = 1 → exec .haloAnnounce s = .next (
        let w := ((credit.bindPlace b (b.d.toff + 144)).map fun q => credit.readWord q 8).getD 0
        credit.sendCredit p.dslot b b.stream face 2 (w.getLsbD 63) (fld w 0 24))))) ∧
    (∀ id f q b g, KMap.find? s.work.publishes id = some q → s.bindingOf q = some b → s.gang? q.gang = some g → b.tampered = false →
      let credit (f : Nat) : Word := ((s.bindPlace b (b.d.toff + 8 * (12 + f))).map fun q => s.readWord q 8).getD 0
      let hasCredit (f : Nat) : Prop := (credit f).getLsbD 63 = true ∧ (q.step = 0 ∨ (credit f).getLsbD 62 = true ∧ q.step ≤ fld (credit f) 0 24 + b.d.d)
      let has := hasCredit f ∧ ∀ e ∈ q.waiting, e < f → ¬ hasCredit e
      (f ∉ q.waiting ∨ ¬ has ∨ s.isFrozen q.slot = true → exec (.faceCopyStart id f) s = .next s) ∧
      (∀ nb, f ∈ q.waiting → has → g.st = .resident → s.isFrozen q.slot = false → b.d.neighbour b.owner f = some nb →
        let bs := s.faceBytes b f
        let parts := chunks 64 bs.length bs
        exec (.faceCopyStart id f) s = .next (parts.zipIdx.foldl
          (fun s e => s.sendHalo q.slot b q.stream nb (if f % 2 = 0 then f + 1 else f - 1) 0 (e.2 + 1 = parts.length) q.step e.2 e.1 (.face id f))
          (s.setPublish { q with waiting := q.waiting.filter fun h => h != f, pending := q.pending + 1 })))) ∧
    (∀ wid w i q g gu slot b w0 from', s.warp? wid = some w → s.gangOf w = some g → g.st = .resident → s.enginesRun g.slot = true →
      w.trap.level = 0 → w.runs q = true → w.livePaths = [(i, q)] → w.path? i = some q → q.stall = some from' → s.codeWord g q.pc = (.ok w0, s) → lpOf w0 = 0 →
      (decode w0 0).instr = .hwait gu slot b → Operand.priv b = false →
      ∀ x, Issues { s with cur := some ⟨wid, i, w0, 0, q.sec⟩ } x → x.any gu = true →
      ∀ bd, x.s.binding? g w.id.gang w.id.wg slot = some bd → bd.tampered = false → bd.d.spol = false →
        (x.index 0 b).toNat < 2 ^ 24 → (x.index 0 b).toNat % bd.d.d = 0 →
        ((List.range 6).any fun f => bd.d.receives bd.owner f || bd.d.supplies bd.owner f) = true →
        (∀ i, i < 12 → ∃ pl, x.s.bindPlace bd (bd.d.toff + 8 * i) = some pl ∧ (x.s.readWord pl 8).getLsbD 63 = false) →
        (bd.d.stall * 256 ≤ s.cyc w.id.core - from' →
          exec (.staleHaloTimeout wid) s = .next (x.take x.s (Trap.all 4 0 x.act 0))) ∧
        (s.cyc w.id.core - from' < bd.d.stall * 256 → exec (.staleHaloTimeout wid) s = .next x.s))

/-! ### Boosted tasks -/

/-- The task of `w` starts its abort: it drains with a cause and a value; a handler is left, with its bank returned from level 2 (R172, R178). -/
def aborting (w : Warp) (cause value : Nat) : Warp :=
  let w := if w.trap.level = 2 then w.swapBank else w
  { w with
    trap := { w.trap with level := 0, own1 := 0, own2 := 0 }
    task := { w.task with st := .drainA, cause := cause, value := value, pendingAbort := none, memos := [], miss := [], keyed := [] } }

/-- The code that an abort writes to sd (R179): cause, value and a retry count that stops at 65535. -/
def abortCode (t : Task) : Word := BitVec.ofNat 64 (t.cause + t.value * 2 ^ 8 + min t.retry 65535 * 2 ^ 16)

/-- The words of an undo record (R173). -/
def undoRecord (key a0 a1 : Word) (io : Int) (k lane : Nat) (first : Bool) : List Word :=
  [key, a0, a1, BitVec.ofNat 64 ((BitVec.ofInt 32 io).toNat * 2 ^ 32 + k * 2 ^ 26 + lane * 2 ^ 21 + (if first then 2 ^ 20 else 0))]

/-- Instructions of boosted tasks (R170 to R182, R370 to R375). BBEGIN at width 32 with one path and no region starts an ACTIVE task whose
age comes from its die's counter, or is kept at the target of the last abort; 0x40 without BOOST, 0x41 for a size above 64 or a misaligned
base. BOP without other tasks declares its keys, pushes a record per lane in lane order, moves SP and comes to know of the array operations
that the releases it acquires have told; a full stack aborts with cause 4; an older conflicting task aborts it with cause 1; an ACTIVE
younger one is asked with cause 2, and the path waits for the keys of each; a table miss is class 5 in its lane. BCOMMIT and BABORT start
their drains, BRET runs the next group or, once the inverses' accesses are done, ends the abort, BSTAT reads an item, BCTL judges a miss or
replaces the table once the tasks have gone; outside their states they are class 2 SUB 3. BBEGIN, BOP, BCOMMIT, BABORT, BRET, BSTAT,
BCTL_LOAD and BCTL_VERDICT complete under the conditions named. -/
def Obligations.BoostedInstructions : Prop :=
  ∀ (s : State) (x : Ictx) (g : Guard) (d vb kind u : Nat) (a b c : Operand) (disp : BitVec 26), Issues s x → x.any g = true →
    (privOf [a, b, c] = false ∨ 2 ≤ x.w.trap.level) →
    let t := x.w.task
    let target := x.p.pc + 8 * disp.signExtend 64
    let one (i : Instr) (sub : Nat) := Traps (exec i s) x (Trap.all 2 sub x.act 0)
    let fits := x.w.boosted = false ∧ x.w.width = 32 ∧ x.w.livePaths.length = 1 ∧ (∀ e ∈ x.w.stack, e = none)
    let base := x.uni .b64 a
    let kib := (x.index 0 b).toNat
    let size := if kib = 0 then 8 else kib
    (¬ fits → one (.bbegin g d a b vb disp) 3) ∧
    (fits → vb + 3 ≤ x.g.nv →
      (x.g.boost = false → Traps (exec (.bbegin g d a b vb disp) s) x (Trap.all 19 0x40 x.act 0)) ∧
      (x.g.boost = true → (64 < kib ∨ base.toNat % 32 ≠ 0) → Traps (exec (.bbegin g d a b vb disp) s) x (Trap.all 19 0x41 x.act 0)) ∧
      (x.g.boost = true → kib ≤ 64 → base.toNat % 32 = 0 → x.g.holds base (size * 1024) = true →
        let die := x.w.id.core / 512
        let again := t.lastTarget = some target
        let n := KMap.get x.s.dies.ageSeq 0 die
        exec (.bbegin g d a b vb disp) s = .next ((if again then x.s else
            { x.s with dies := { x.s.dies with ageSeq := KMap.set x.s.dies.ageSeq 0 die ((n + 1) % 2 ^ 60) } }).setWarp x.c.warp
          (x.advance { x.w with task := { t with
            st := .active, target := target, sd := d, ub := base, sp := base, size := size, vb := vb, age := if again then t.age else 8 * n + die
            retry := if again then t.retry + 1 else 0, lanes := x.act, glanes := 0, cause := 0, value := 0, pendingAbort := none
            lastTarget := none, memos := [], miss := [], tampered := false, keyed := [] } })))) ∧
    (t.st ≠ .active → one (.bop g kind a b c disp) 3 ∧ one (.babort g u) 3 ∧ one (.bcommit g) 3) ∧
    (t.st = .active → (∃ ws, x.p.bop = some ws ∧ ws ≠ []) → x.lanes g ≠ 0 → exec (.bop g kind a b c disp) s = .next s) ∧
    (t.st = .active → (∀ ws, x.p.bop = some ws → ws = []) → topOf [a, b, c] ≤ x.g.nv → (x.s.slot x.v).ctabLoads = [] → (∀ n, b ≠ .f n ∧ c ≠ .f n) →
      let io := (target - t.target).toInt / 8
      let ls := Mask.lanes (x.lanes g)
      let key (l : Nat) : Word := x.src .b64 l a
      let bop := exec (.bop g kind a b c disp) s
      io < 2 ^ 31 → -(2 ^ 31) ≤ io →
      ((x.findings kind (ls.map fun l => (l, key l)) = []) →
        (t.size * 1024 < (t.sp - t.ub).toNat + 32 * ls.length → bop = .next (x.s.setWarp x.c.warp (aborting x.w 4 0))) ∧
        ((t.sp - t.ub).toNat + 32 * ls.length ≤ t.size * 1024 → x.noRoom (x.newKeys (ls.map key)) = true →
          bop = .next (x.s.setWarp x.c.warp (aborting x.w 5 0))) ∧
        ((t.sp - t.ub).toNat + 32 * ls.length ≤ t.size * 1024 → x.noRoom (x.newKeys (ls.map key)) = false → kind < 64 → x.w.width ≤ 32 →
          Memory.wf x.s.dies.vault = true → x.g.holds t.ub (t.size * 1024) = true →
          CompletesWith bop fun v =>
            v.warp? x.c.warp = some (x.advance { x.w with
              task := { t with sp := t.sp + BitVec.ofNat 64 (32 * ls.length), memos := t.memos.filter (fun m => m.bop != x.bopId), keyed := [] }
              work := { x.w.work with known := (x.w.work.known ++ x.keyed (x.newKeys (ls.map key))).dedup } }) ∧
            (∀ l ∈ ls, v.holdsKey x.c.warp (key l) kind = true) ∧
            (∀ e ∈ x.s.dies.dirs, e.warp ≠ x.c.warp → e ∈ v.dies.dirs) ∧
            (∀ i l pl, ls[i]? = some l → x.g.vaultPlace (t.sp + BitVec.ofNat 64 (32 * i)) 32 = .ok pl →
              v.readPlace pl.place 32 = wordsBytes (undoRecord (key l) (x.src .b64 l b) (x.src .b64 l c) io kind l (i = 0))))) ∧
      (∀ h v j l, ls = [l] → x.s.otherTasks x.v x.c.warp = [(h, v)] → h ≠ x.c.warp → x.s.warp? h = some v → x.s.kindsOf h = [j] →
        let e := tableEntry (x.s.slot x.v).ctab kind j
        let hit := e = 2 ∨ (e = 1 ∧ x.s.holdsKey h (key l) j = true)
        (hit → v.task.age < t.age → bop = .next ((x.s.syncAges x.w v).setWarp x.c.warp (aborting x.w 1 j))) ∧
        (hit → t.age ≤ v.task.age → CompletesWith bop fun r =>
          r.warp? h = some (if v.task.st = .active ∧ v.task.pendingAbort = none then
            { v with task := { v.task with pendingAbort := some (2, kind) } } else v) ∧
          r.warp? x.c.warp = some (x.w.modPath x.c.path fun p => { p with bop := some [h] })) ∧
        (e = 3 → t.memos = [] → bop = .next (x.take (x.s.setWarp x.c.warp { x.w with task := { t with
            miss := ⟨x.bopId, kind, j, l, x.s.holdsKey h (key l) j, h, none, false⟩ :: t.miss } }) ⟨5, 0, [(l, 0)], false, none⟩)))) ∧
    (t.st = .active → exec (.babort g u) s = .next (x.s.setWarp x.c.warp (aborting x.w 3 u))) ∧
    (t.st = .active → (∀ l, l < 128 → t.lanes.getLsbD l = true → x.w.exited.getLsbD l = false → x.act.getLsbD l = true) →
      (∀ e ∈ x.w.stack, e = none) →
      exec (.bcommit g) s = .next (x.then' { x.w with task := { t with st := .drainC, pendingAbort := none, lastTarget := none } })) ∧
    ((t.st ≠ .replay ∨ x.act ≠ t.glanes) → one (.bret g) 3) ∧
    (t.st = .replay → x.act = t.glanes → t.sp ≠ t.ub → exec (.bret g) s = .next (x.s.nextGroup x.c.warp)) ∧
    (t.st = .replay → x.act = t.glanes → t.sp = t.ub →
      let since := match x.p.hold with | some (.ops n) => n | _ => x.w.work.nextOp
      ((∀ o ∈ x.w.work.ops, since ≤ o.id) → exec (.bret g) s = .next (x.s.endAbort x.c.warp)) ∧
      ((∃ o ∈ x.w.work.ops, o.id < since) →
        exec (.bret g) s = .next (x.s.setWarp x.c.warp (x.w.modPath x.c.path fun p => { p with hold := some (.ops since) })))) ∧
    (let item := (x.index 0 a).toNat
     WritesScalar (exec (.bstat g d a) s) x d (
      if item = 4 then t.lastCode
      else if t.st = .none then 0
      else if item = 0 then (match t.st with | .active => 1 | .replay => 3 | _ => 2)
      else if item = 1 then BitVec.ofNat 64 t.age
      else if item = 2 then BitVec.ofNat 64 ((t.sp - t.ub).toNat / 32)
      else if item = 3 then (match t.miss with
        | m :: _ => BitVec.ofNat 64 (m.k + m.j * 2 ^ 6 + m.lane * 2 ^ 12 + (if m.holds then 2 ^ 17 else 0))
        | [] => 0)
      else 0)) ∧
    (∀ m ms, x.w.trap.level = 1 → fld x.w.trap.tcause1 0 8 = 5 → t.miss = m :: ms → exec (.bctlVerdict g a) s = .next (x.then' { x.w with
      task := { t with miss := { m with verdict := some ((x.index 0 a).getLsbD 0) } :: ms } })) ∧
    ((x.w.trap.level ≠ 1 ∨ fld x.w.trap.tcause1 0 8 ≠ 5 ∨ t.miss = []) → one (.bctlVerdict g a) 3) ∧
    (x.w.boosted = true → one (.bctlLoad g a) 3) ∧
    (x.w.boosted = false → x.p.hold = some .table →
      ((∀ l ∈ (x.s.slot x.v).ctabLoads, ¬ (l.warp = x.c.warp ∧ l.path = x.c.path)) → GoesOn (exec (.bctlLoad g a) s) x) ∧
      ((∃ l ∈ (x.s.slot x.v).ctabLoads, l.warp = x.c.warp ∧ l.path = x.c.path) → exec (.bctlLoad g a) s = .next s)) ∧
    (x.w.boosted = false → x.p.hold ≠ some .table →
      let y := x.landed
      let out := exec (.bctlLoad g a) s
      ((base.toNat % 64 ≠ 0 ∨ inPodWindow base = true) → Traps out y (Trap.all 19 0x43 x.act 0)) ∧
      (base.toNat % 64 = 0 → inPodWindow base = false → isVaultAddr base = true →
        (x.g.holds base 1024 = false → Traps out y (Trap.all 16 3 x.act base)) ∧
        (∀ pl, x.g.vaultPlace base 1024 = .ok pl → y.mayRead ((List.range 16).map fun i => pl.place.add (64 * i)) 64 = true →
          let image := y.s.readPlace pl.place 1024
          (symmetric (tableOf image) = false → Traps out y (Trap.all 19 0x44 x.act 0)) ∧
          (symmetric (tableOf image) = true → y.s.otherTasks x.v x.c.warp = [] → out = .next ((y.s.modSlot x.v fun y => { y with
            ctabLoads := (y.ctabLoads.filter fun l => !(l.warp == x.c.warp && l.path == x.c.path)) ++ [⟨x.c.warp, x.c.path, image⟩] }).modWarp x.c.warp
              fun w => w.modPath x.c.path fun p => { p with hold := some .table })))))

/-- Events of boosted tasks (R172, R174, R175, R178 to R181). A due abort starts the drain; once every handle is DONE and every access done, a
task with no record ends its abort: keys released, sd gets the code, one path of the task's lanes stands at the target; with records
left the last group runs, its key and arguments in vb to vb + 2 of its lanes, at its inverse. A commit releases the keys
and ends the task. A table waits until no key of the vchip is held. BOOST_ABORT_TAKEN, BOOST_DRAIN_A_DONE, BOOST_COMMIT_DONE and
BCTL_TABLE_REPLACED complete under the conditions named. -/
def Obligations.BoostedEvents : Prop :=
  ∀ (s : State) (wid : Nat) (w : Warp) (g : Gang), s.warp? wid = some w → s.gangOf w = some g → g.st = .resident → s.enginesRun g.slot = true →
    (∀ p ws, some p ∈ w.paths → p.bop = some ws → wid ∉ ws) →
    let t := w.task
    let idle := w.pending = false ∧ w.work.ops = []
    (∀ c v, t.st = .active → w.trap.level < 2 → t.pendingAbort = some (c, v) →
      exec (.boostAbortTaken wid) s = .next (s.setWarp wid (aborting w c v))) ∧
    ((t.pendingAbort = none ∨ t.st ≠ .active) → exec (.boostAbortTaken wid) s = .next s) ∧
    (t.st = .drainA → ¬ idle → exec (.boostDrainADone wid) s = .next s) ∧
    (t.st = .drainA → idle → t.sp = t.ub → CompletesWith (exec (.boostDrainADone wid) s) fun u =>
      (∀ e ∈ u.dies.dirs, e.warp ≠ wid) ∧ (∀ e ∈ s.dies.dirs, e.warp ≠ wid → e ∈ u.dies.dirs) ∧
      ∃ v, u.warp? wid = some v ∧ v.task.st = .none ∧ v.task.lastTarget = some t.target ∧ v.task.lastCode = abortCode t ∧
        (v.path? 0).map (fun p => (p.pc, p.mask, p.link)) = some (t.target, t.lanes &&& ~~~w.exited, none) ∧ (∀ k, 0 < k → v.path? k = none) ∧
        (∀ e ∈ v.stack, e = none) ∧ (KMap.rising w.set.s = true → ∀ n, v.sreg n = if n = t.sd then abortCode t else w.sreg n) ∧
        v.vr = w.vr ∧ v.trap = w.trap ∧ v.flags = w.flags) ∧
    (t.st = .drainA → idle → t.sp = t.ub + 32 → t.tampered = false → KMap.rising w.vr.v = true → t.vb + 3 ≤ 320 →
      ∀ pl, g.vaultPlace t.ub 32 = .ok pl →
      let ws := bytesWords (s.readPlace pl.place 32)
      let lane := fld (recWord ws 3) 21 5
      CompletesWith (exec (.boostDrainADone wid) s) fun u => ∃ v, u = s.setWarp wid v ∧ v.task = { t with st := .replay, sp := t.ub, glanes := 1#128 <<< lane } ∧
        (v.path? 0).map (fun p => (p.pc, p.mask)) = some (t.target + 8 * ((recWord ws 3).extractLsb' 32 32).signExtend 64, 1#128 <<< lane) ∧
        v.vreg t.vb lane = recWord ws 0 ∧ v.vreg (t.vb + 1) lane = recWord ws 1 ∧ v.vreg (t.vb + 2) lane = recWord ws 2) ∧
    (t.st = .drainC → idle → CompletesWith (exec (.boostCommitDone wid) s) fun u =>
      (∀ e ∈ u.dies.dirs, e.warp ≠ wid) ∧ ∃ v, u.warp? wid = some v ∧ v.task.st = .none ∧ v.paths = w.paths ∧ v.set = w.set ∧ v.vr = w.vr) ∧
    (t.st = .drainC → ¬ idle → exec (.boostCommitDone wid) s = .next s) ∧
    (∀ slot l ls, (s.slot slot).ctabLoads = l :: ls →
      ((∃ e ∈ s.dies.dirs, e.slot = slot) → exec (.bctlTableReplaced slot) s = .next s) ∧
      ((∀ e ∈ s.dies.dirs, e.slot ≠ slot) → CompletesWith (exec (.bctlTableReplaced slot) s) fun u =>
        u = s.modSlot slot (fun y => { y with ctab := tableOf l.image, ctabLoads := ls }) ∧
        ∀ i j, i < 64 → j < 64 → tableEntry (tableOf l.image) i j =
          leNat ((l.image.drop (16 * i)).take 16) / 4 ^ j % 4))

/-! ### Pod messages and network posts -/

/-- PSEND, PRECV and NPOST (R53, R64, R376 to R379). PSEND of more than 960 bytes, or to a set above 255, is class 19 SUB 0x50; a
payload outside the vault is class 16 SUB 3, a guest vchip outside the pod SUB 4; a set with no other member ends the handle with
status 6; else one SEND joins the stream of each destination, its payload yet to be read. PRECV, an acquire, takes the oldest message, stores
what fits, moves the ring's head past it, and writes length, stream and truncation to sD; with no message it waits. NPOST makes a
post of the engine: 0x51 for an endpoint that is not the vchip's, 0x52 for a bad length. A post and a payload to be read follow
what the path has issued (R190, R191). PSEND, PRECV, NPOST_WRITE, NPOST_READ and NPOST_SEND complete under the conditions
named. -/
def Obligations.MessagesAndPosts : Prop :=
  ∀ (s : State) (x : Ictx) (g : Guard) (d : Nat) (a b c e0 e1 : Operand) (v : Vchip), Issues s x → x.any g = true →
    (privOf [a, b, c, e0, e1] = false ∨ 2 ≤ x.w.trap.level) → x.s.vchip? x.v = some v →
    let A := (x.uni .b64 a).toNat
    let B := x.uni .b64 b
    let C := (x.uni .b64 c).toNat
    let ready := (x.w.handle d).st = .idle
    let stream := x.s.streamOf x.w
    (ready → ∀ mc, (960 < C ∨ mc = true ∧ 255 < A) → Traps (exec (.psend g mc d a b c) s) x (Trap.all 19 0x50 x.act 0)) ∧
    (ready → C ≤ 960 → C ≠ 0 → ∀ e, x.g.vaultPlace B C = .error e → Traps (exec (.psend g false d a b c) s) x (Trap.all 16 3 x.act B)) ∧
    (∀ pl t, ready → C ≤ 960 → (if C = 0 then pl = .vault x.w.id.core 0 else x.g.vaultPlace B C = .ok t ∧ t.place = pl) →
      (x.s.podSize v.guest ≤ A → Traps (exec (.psend g false d a b c) s) x (Trap.all 16 4 x.act 0)) ∧
      (let send (mc : Bool) (dsts : List Nat) : State :=
        let u := x.s.setWarp x.c.warp { x.w with handles := setAt x.w.handles d ⟨.pending, 4, 0, 0, false, 0, 0⟩ }
        let u := { u with work := { u.work with psends := u.work.psends ++ [⟨x.c.warp, d, dsts.length, 0⟩] } }
        (dsts.foldl (fun (s : State) (m : Nat) => s.enqueueRequest ⟨x.v, m, stream⟩ ⟨6, 0, 0, 0, C, if mc then A else 0, mc, C, 0, [], .psend x.c.warp d,
          some ⟨pl, B, C, x.before, x.w.work.xfence⟩⟩) u).modWarp x.c.warp x.advance
      (A < x.s.podSize v.guest → exec (.psend g false d a b c) s = .next (send false [A])) ∧
      (A ≤ 255 → x.s.members v A ≠ [] → exec (.psend g true d a b c) s = .next (send true (x.s.members v A))) ∧
      (A ≤ 255 → x.s.members v A = [] → exec (.psend g true d a b c) s = .next (x.then' { x.w with
        handles := setAt x.w.handles d ⟨.done, 4, 6, 0, false, 0, 0⟩ })))) ∧
    (∀ cb pl t, (privOf [a, b] = false ∨ 2 ≤ x.w.trap.level) → x.s.validLog? x.v = some cb → (x.s.slot x.v).log.st = .running →
      let room := min B.toNat 960
      (if room = 0 then pl = .vault x.w.id.core 0 else x.g.vaultPlace (x.uni .b64 a) room = .ok t ∧ t.place = pl) →
      let r := x.s.msgRing cb
      (x.s.oldest? x.v r = none → exec (.precv g d a b) s = .next s) ∧
      (∀ pos, x.s.oldest? x.v r = some pos → x.w.work.ops = [] → x.s.placeOpen x.v pl = true →
        let ws := x.s.recordAt x.v r pos
        let n := fld (recWord ws 2) 46 10
        let k := min n room
        let bs := x.s.hbmRead (x.s.logOwner x.v) (r.base + pos % 2 ^ r.log2 + 64) k
        let mc := (recWord ws 2).getLsbD 37
        let y := x.s.acquired x.c.warp x.act
        exec (.precv g d a b) s = .next ((((if k = 0 then y else y.storeAt pl bs).hbmWrite Owner.hv (cb + 16)
          (wordBytes (BitVec.ofNat 64 (pos + 64 * (1 + fld (recWord ws 0) 54 4))) 8)).modWarp x.c.warp fun w => x.advance (w.setS d (BitVec.ofNat 64
            ((if B.toNat < n then 2 ^ 42 else 0) + (if mc then 2 ^ 41 else 0) + (if mc then fld (recWord ws 2) 38 8 * 2 ^ 33 else 0) +
              fld (recWord ws 0) 44 10 * 2 ^ 23 + n)))))) ) ∧
    (ready →
      let rows : List (NpostOp × Instr) := [(.write, .npostWrite g d a b c e0 e1), (.read, .npostRead g d a b c e0 e1), (.send, .npostSend g d a b c e0 e1)]
      ∀ r ∈ rows,
        ((15 < A ∨ A ∉ (x.s.slot x.v).endpoints) → Traps (exec r.2 s) x (Trap.all 19 0x51 x.act 0)) ∧
        (A ≤ 15 → A ∈ (x.s.slot x.v).endpoints → (C = 0 ∨ 2 ^ 32 ≤ C) → Traps (exec r.2 s) x (Trap.all 19 0x52 x.act 0)) ∧
        (A ≤ 15 → A ∈ (x.s.slot x.v).endpoints → C ≠ 0 → C < 2 ^ 32 → (2 ^ 26 ≤ B.toNat ∨ ∃ t, x.g.vaultPlace B C = .ok t) →
          exec r.2 s = .next (
            let u := x.then' { x.w with handles := setAt x.w.handles d ⟨.pending, 5, 0, 0, false, 0, 0⟩ }
            let id := x.s.work.nextPost
            { u with work := { u.work with
                nextPost := id + 1
                posts := KMap.put u.work.posts id ⟨id, x.c.warp, d, r.1, A, B, C, x.uni .b64 e0, x.uni .b64 e1, 0, false, [], [], none, x.v, stream,
                  x.g.words, x.g.wgs, x.before, x.w.work.xfence⟩ } })))

/-- A packet that comes to the network engine with a nonce and the tag of a key over its header and bytes (R41). -/
def etherIn (m : EtherMsg) (key : BitVec 256) (nonce : BitVec 96) : Instr :=
  .ethernetPacketReceive ⟨m, nonce, Config.gcmTag key nonce (etherHeader m) (etherBytes m)⟩

/-- The network engine (R18, R41, R42, R379): a post completes with status 0 once its count has reached its length, with 7 where its
transfer fails; its first packet leaves under the endpoint's key; a read's bytes are stored at their offset and counted; acknowledged bytes
are counted; a packet asked for again goes out again, a read's request too, but not of a frozen vchip; a peer's bytes are placed through the
vchip's stage 2 or in its vaults, and are dropped where the endpoint is not the vchip's or the vchip is frozen. What arrives carries the tag
under its endpoint's key and is dropped with another (the header's layout is the model's choice, log entry 112). NPOST_COMPLETE,
NETWORK_TRANSFER_FAILED and ETHERNET_PACKET_RECEIVE complete under the conditions named. -/
def Obligations.NetworkEngine : Prop :=
  ∀ (s : State), s.fabricRuns = true →
    (∀ (id : Nat) (p : Post) (w : Warp), s.post? id = some p → p.id = id → p.err = none → s.warp? p.warp = some w → w.allExited = false →
      KMap.rising s.work.posts = true →
      let over' (status : Nat) : State := { s.setWarp p.warp { w with
          handles := setAt w.handles p.f { w.handle p.f with st := .done, status := status, flags := 0, info := BitVec.ofNat 64 p.count, merged := false } } with
        work := { (s.setWarp p.warp { w with
          handles := setAt w.handles p.f { w.handle p.f with st := .done, status := status, flags := 0, info := BitVec.ofNat 64 p.count, merged := false } }).work with
          posts := KMap.erase s.work.posts id } }
      (p.count < p.len → exec (.npostComplete id) s = .next s) ∧
      (p.len ≤ p.count → exec (.npostComplete id) s = .next (over' 0)) ∧
      (p.sent = true → exec (.networkTransferFailed id) s = .next (over' 7)) ∧
      (p.sent = false → exec (.networkTransferFailed id) s = .next s) ∧
      (s.enginesRun p.slot = true → s.postHere p = true →
        (p.sent = false → p.op = .read → s.postMayRead p = true →
          ∀ n mac, exec (.ethernetPacketReceive ⟨.sent id, n, mac⟩) s = .next ((s.setPost { p with sent := true }).sendEther p 0 [])) ∧
        (p.sent = false → p.op ≠ .read → s.postMayRead p = true → 1 ≤ p.len → p.len ≤ 64 - p.addr.toNat % 64 →
          ∀ pl s1, s.engResolve p.slot p.gang p.addr p.len Acc.read = (.local pl, s1) →
          let bs := s1.warpBytes p.warp pl p.len
          ∀ n mac, exec (.ethernetPacketReceive ⟨.sent id, n, mac⟩) s =
            .next ((s1.sendEther p 0 bs).setPost { p with sent := true, data := p.data ++ [(0, bs)] })) ∧
        (p.sent = false → s.postMayRead p = false → ∀ n mac, exec (.ethernetPacketReceive ⟨.sent id, n, mac⟩) s = .next s) ∧
        (p.sent = true → p.op = .read → ∀ c n off bs, KMap.find? (s.slot p.slot).netcfg p.endpoint = some c → bs ≠ [] → off + bs.length ≤ p.len → p.count + bs.length ≤ p.len →
          bs.length ≤ 64 - (p.addr + BitVec.ofNat 64 off).toNat % 64 →
          ∀ pl s1, s.engResolve p.slot p.gang (p.addr + BitVec.ofNat 64 off) bs.length Acc.write = (.local pl, s1) →
          s1.warp? p.warp = some w → (pl.isVault = false ∨ s1.gangOnCore w.id.gang = true) →
          exec (etherIn (.readData id off bs) c.key n) s =
            .next ((s1.engineStore p.warp none p.f 1 pl bs).setPost { p with count := p.count + bs.length }))) ∧
      (∀ c n off, KMap.find? (s.slot p.slot).netcfg p.endpoint = some c →
        (s.isFrozen p.slot = true → exec (etherIn (.resend id off) c.key n) s = .next s) ∧
        (s.isFrozen p.slot = false → p.op = .read → p.sent = true →
          exec (etherIn (.resend id off) c.key n) s = .next (s.sendEther p 0 [])) ∧
        (∀ bs, s.isFrozen p.slot = false → p.op ≠ .read → p.data.find? (fun e => e.1 == off) = some (off, bs) →
          exec (etherIn (.resend id off) c.key n) s = .next (s.sendEther p off bs)) ∧
        (p.sent = true → p.op ≠ .read → ∀ k, exec (etherIn (.acked id k) c.key n) s =
          .next (s.setPost { p with count := min p.len (p.count + k) })))) ∧
    (∀ m n mac, (∀ id, m ≠ .sent id) → (∀ key, s.etherKey? m = some key → mac ≠ Config.gcmTag key n (etherHeader m) (etherBytes m)) →
      exec (.ethernetPacketReceive ⟨m, n, mac⟩) s = .next s) ∧
    (∀ v ep (a : Word) (bs : List Byte) (c : Vchip), s.vchip? v = some c →
      ((ep ∉ (s.slot v).endpoints ∨ s.isFrozen v = true) → ∀ n mac, exec (.ethernetPacketReceive ⟨.place v ep a bs, n, mac⟩) s = .next s ∧
        ∀ core off, exec (.ethernetPacketReceive ⟨.placeVault v ep core off bs, n, mac⟩) s = .next s) ∧
      (∀ nc n, ep ∈ (s.slot v).endpoints → s.isFrozen v = false → KMap.find? (s.slot v).netcfg ep = some nc →
        (s.placeHeld v a.toNat bs.length = true → exec (etherIn (.place v ep a bs) nc.key n) s = .next s) ∧
        (s.placeHeld v a.toNat bs.length = false → bs ≠ [] → bs.length ≤ 4096 - a.toNat % 4096 →
          (∀ h, s.stage2 v a.toNat Acc.write = .ok h → exec (etherIn (.place v ep a bs) nc.key n) s = .next (s.storeAt h.place bs)) ∧
          (∀ gpa acc, s.stage2 v a.toNat Acc.write = .error (.violation gpa acc) →
            exec (etherIn (.place v ep a bs) nc.key n) s = .next (s.freezeMaster v gpa acc))) ∧
        ∀ core off, exec (etherIn (.placeVault v ep core off bs) nc.key n) s =
          .next (if core < c.cores ∧ off + bs.length ≤ 2 ^ 22 ∧ (s.slot v).sched.switchedIn = true then
            s.storeAt (.vault (c.coreAt core) off) bs else s)))

/-! ### Pod gangs -/

/-- The GANG packets (R101, R102), once checked. A reserve whose release has come already is forgotten with it, one that has its claim changes
nothing, a bad or never fitting record is refused in the ack with status 2 or 3, and any other claims its place. An ack to a commit is
noted; the last ack to a reserve in time commits the gang, and a refusal gives it up with its status. A commit is acked and starts the
claim. A release says that a member is done or has failed, frees a claim that was not committed, discards one that was, and is
remembered where its reserve has not come. A member of the vchip's own done or failed claim forgets its release. GANG_RESERVE, GANG_ACK,
GANG_COMMIT and GANG_RELEASE complete under the conditions named. -/
def GangPackets : Prop :=
  ∀ (s : State) (port : Nat) (p : Packet) (s1 s2 : State), s.arrival = some (port, p, s1) → s1.check p = (none, s2) → p.typ = 0x21 → p.rev = false →
    let v := p.dslot
    let lid := fld p.imm 0 32
    let st := fld p.imm 32 8
    let key := (p.svch, lid)
    let claim := (s2.slot v).claimOf p.svch lid
    let mine := (s2.slot v).coordinated lid
    (p.oparg % 4 = 0 →
      ((s2.slot v).sched.droppedReserves.contains key = true → exec .gangReserve s =
        .next (s2.modSched v fun c => { c with droppedReserves := c.droppedReserves.erase key })) ∧
      ((s2.slot v).sched.droppedReserves.contains key = false → claim.isSome = true → exec .gangReserve s = .next s2) ∧
      ((s2.slot v).sched.droppedReserves.contains key = false → claim = none →
        let ws := bytesWords (p.payload.take 256)
        let s2 := s2.modSched v fun c => { c with doneReserves := c.doneReserves.filter (· != key) }
        let members := sortNat (p.svch :: (((s2.podOthers v ws).getD []).filter (· != p.svch) ++ [p.dvch]))
        let l : Launch := ⟨0, 64, ws, [], none, none, 0, 0, false, true, none, [], some ⟨p.svch, members, [], none, false, [], [], s2.now, 0, 0, false⟩, none⟩
        let bad := p.payload.length < 256 ∨ l.podg = false ∨ l.lid ≠ lid ∨ s2.badRecord v ws = true
        (bad ∨ s2.neverFits v l = true → exec .gangReserve s = .next ((s2.modSched v fun c => { c with
          refusedReserves := c.refusedReserves ++ [key] }).sendControl v p.svch 0x21 1
            (BitVec.ofNat 64 (lid + (if bad then 2 else 3) * 2 ^ 32)) 0 0 [])) ∧
        (¬ bad → s2.neverFits v l = false → exec .gangReserve s = .next ((s2.addLaunch v l).tryReserve v)))) ∧
    (p.oparg % 4 = 1 → ∀ l q, mine = some l → l.pod = some q → q.members.contains p.svch = true →
      let add (xs : List Nat) := if xs.contains p.svch then xs else xs ++ [p.svch]
      (p.imm.getLsbD 40 = true → exec .gangAck s = .next (s2.modLaunch v l.id fun l => { l with pod := l.pod.map fun q => { q with
        commitAcked := add q.commitAcked } })) ∧
      (p.imm.getLsbD 40 = false → q.committed = false → q.lost = false → st ≠ 0 → exec .gangAck s = .next (s2.abortPod v l.id st)) ∧
      (p.imm.getLsbD 40 = false → q.committed = false → q.lost = false → st = 0 → s2.now < q.began + 200 →
        let u := s2.modLaunch v l.id fun l => { l with pod := l.pod.map fun q => { q with acked := add q.acked } }
        (s2.launch? v l.id = some l → KMap.rising s2.slots = true →
          (q.members.all (add q.acked).contains = true → exec .gangAck s = .next (u.commitPod v l.id)) ∧
          (q.members.all (add q.acked).contains = false → exec .gangAck s = .next u))) ∧
      (p.imm.getLsbD 40 = false → (q.committed = true ∨ q.lost = true) → exec .gangAck s = .next s2)) ∧
    (p.oparg % 4 = 1 → mine = none → exec .gangAck s = .next s2) ∧
    (p.oparg % 4 = 2 →
      let u := s2.sendControl v p.svch 0x21 1 (BitVec.ofNat 64 (lid + 2 ^ 40)) 0 0 []
      ((u.slot v).claimOf p.svch lid = none → exec .gangCommit s = .next u) ∧
      (∀ l, (u.slot v).claimOf p.svch lid = some l → exec .gangCommit s = .next
        ((u.modLaunch v l.id fun l => { l with pod := l.pod.map fun q => { q with committed := true } }).startHeld v l.id))) ∧
    (p.oparg % 4 = 3 →
      (st ≠ 0 → mine = none → exec .gangRelease s = .next s2) ∧
      (∀ l q, st ≠ 0 → mine = some l → l.pod = some q → q.members.contains p.svch = true →
        (st = 1 → exec .gangRelease s = .next (((s2.modLaunch v l.id fun l => { l with pod := l.pod.map fun q => { q with
          doneBy := if q.doneBy.contains p.svch then q.doneBy else q.doneBy ++ [p.svch] } }).settleLaunch v l.id).noteEligible v)) ∧
        (st ≠ 1 → exec .gangRelease s = .next ((s2.podFail v l.id (some p.svch)).noteEligible v))) ∧
      (∀ l q, st = 0 → claim = some l → l.pod = some q →
        (q.committed = true ∨ q.lost = true → exec .gangRelease s = .next (s2.discardLaunch v l.id)) ∧
        (q.committed = false → q.lost = false → exec .gangRelease s = .next ((s2.freeClaim v l.id).dropLaunch v l.id))) ∧
      (st = 0 → claim = none → exec .gangRelease s = .next (s2.modSched v fun c =>
        if c.refusedReserves.contains key then { c with refusedReserves := c.refusedReserves.erase key }
        else if c.doneReserves.contains key then { c with doneReserves := c.doneReserves.erase key }
        else { c with droppedReserves := c.droppedReserves ++ [key] }))) ∧
    (∀ k, k < 4 → k ≠ p.oparg % 4 → ∀ i, (k, i) ∈ [(0, Instr.gangReserve), (1, .gangAck), (2, .gangCommit), (3, .gangRelease)] → exec i s = .next s)

/-- The time limits of a pod gang at its coordinator (R101, R102): 200 us after the reserve it is given up with status 6, every 50 us the
commit goes again to the members that have not acked it, and after 1 ms such a member has failed; before, nothing happens.
POD_GANG_RESERVE_TIMEOUT, POD_GANG_COMMIT_RESEND and POD_GANG_COMMIT_TIMEOUT complete under the conditions named. -/
def PodGangTimeLimits : Prop :=
  ∀ (s : State) (v id : Nat) (l : Launch) (q : PodGang), s.launch? v id = some l → l.pod = some q → l.isReserve = false →
    q.coordinator = s.vchNum v → q.failed = none → q.lost = false →
    (q.committed = false → q.began + 200 ≤ s.now → exec (.podGangReserveTimeout v id) s =
      .next ((((s.releaseAll v q l.lid none).freeClaim v id).completeLaunch v id 6).noteEligible v)) ∧
    ((q.committed = true ∨ s.now < q.began + 200) → exec (.podGangReserveTimeout v id) s = .next s) ∧
    (q.committed = true → q.resent + 50 ≤ s.now →
      let u := (q.members.filter fun m => m != q.coordinator && !q.commitAcked.contains m).foldl
        (fun s m => s.sendControl v m 0x21 2 (BitVec.ofNat 64 l.lid) 0 0 []) s
      exec (.podGangCommitResend v id) s = .next (u.modLaunch v id fun l => { l with pod := l.pod.map fun q => { q with resent := u.now } })) ∧
    ((q.committed = false ∨ s.now < q.resent + 50) → exec (.podGangCommitResend v id) s = .next s) ∧
    (q.committed = true → q.commitAt + 1000 ≤ s.now → q.members.all q.commitAcked.contains = false →
      exec (.podGangCommitTimeout v id) s = .next (((s.releaseAll v q l.lid none).discardLaunch v id).noteEligible v)) ∧
    ((q.committed = false ∨ s.now < q.commitAt + 1000 ∨ q.members.all q.commitAcked.contains = true) →
      exec (.podGangCommitTimeout v id) s = .next s)

/-- Pod gangs (R101, R102): the two parts above. -/
def Obligations.PodGangs : Prop := GangPackets ∧ PodGangTimeLimits

/-! ### Receive logs, hypervisor commands, rewrites -/

/-- Receive logs (R60, R63 to R65, R69). Replay executes the oldest deferral record and moves the head past it, answering a fault with its
code and a REPL record; a remote operation's accesses follow one at a time; replay stands while the vchip is frozen; with the ring empty and
no thermal halt the log runs and every stream frozen with code 8 resumes; before, the streams that the deferral ring refused resume once it
is empty, those that the message ring refused once a quarter of it is free; after 200 us streams that append further are frozen. RLOGBASE is
ignored unless the log of the slot's vchip is RUNNING with both rings empty; else it is written, the four counters start at 0, W0 and W1
that nothing has written hold their reset values, and the log is resumed or reported; a control block takes W0 and W1 before its first run,
and a log that ceases to be valid by them is reported. LOG_REPLAY_RECORD, LOG_REPLAY_DONE, LOG_REPLAY_LIMIT, LOG_SPACE_RESUME,
RLOGBASE_WRITE and CONTROL_BLOCK_WRITE complete under the conditions named. -/
def Obligations.ReceiveLogEvents : Prop :=
  ∀ (s : State) (v : Nat),
    (∀ cb, s.validLog? v = some cb →
      let r := s.defRing cb
      let head (u : State) (n : Nat) : State := u.hbmWrite Owner.hv (cb + 32) (wordBytes (BitVec.ofNat 64 n) 8)
      ((s.slot v).log.st ≠ .replaying ∨ s.isFrozen v = true → exec (.logReplayRecord v) s = .next s ∧ exec (.logReplayDone v) s = .next s) ∧
      ((s.slot v).log.st = .replaying → s.isFrozen v = false → s.fabricRuns = true → (s.slot v).log.job = none → ∀ pos, s.oldest? v r = some pos →
        let ws := s.recordAt v r pos
        let n := 64 * (1 + fld (recWord ws 0) 54 4)
        let p := s.recordPacket v ws (s.hbmRead (s.logOwner v) (r.base + pos % 2 ^ r.log2 + 64) (n - 64))
        (s.homeHeld v p = true → exec (.logReplayRecord v) s = .next s) ∧
        (s.homeHeld v p = false →
          (∀ t, s.homeExec v p = .done t → exec (.logReplayRecord v) s = .next (head t (pos + n))) ∧
          (∀ c, s.homeExec v p = .fault c → exec (.logReplayRecord v) s = .next (head (s.replayFault v p c) (pos + n))) ∧
          (∀ k t, s.homeExec v p = .work k t → exec (.logReplayRecord v) s =
            .next (t.modSlot v fun x => { x with log := { x.log with job := some k } })) ∧
          (s.homeExec v p = .wait → exec (.logReplayRecord v) s = .next s))) ∧
      ((s.slot v).log.job ≠ none → exec (.logReplayRecord v) s = .next s) ∧
      ((s.slot v).log.st = .replaying → s.isFrozen v = false → s.power.thalt = false → r.head = r.tail →
        exec (.logReplayDone v) s = .next ((s.setLogSt v .running).resumeFull v)) ∧
      ((s.slot v).log.st = .replaying → r.head ≠ r.tail → exec (.logReplayDone v) s = .next s) ∧
      (let m := s.msgRing cb
       let room := 2 ^ m.log2 / 4 ≤ 2 ^ m.log2 - (m.tail - m.head)
       exec (.logSpaceResume v) s = .next (s.resumeWhere v fun z => if z.msg then decide room else decide (r.head = r.tail)))) ∧
    ((s.slot v).log.st = .replaying → (s.slot v).log.since + 200 ≤ s.now →
      exec (.logReplayLimit v) s = .next (s.modSlot v fun x => { x with log := { x.log with limit := true } })) ∧
    (((s.slot v).log.st ≠ .replaying ∨ s.now < (s.slot v).log.since + 200) → exec (.logReplayLimit v) s = .next s) ∧
    (∀ w : Word, s.answers = true → v < 64 →
      let busy := (s.slot v).log.st ≠ .running ∨ ∃ cb, s.validLog? v = some cb ∧
        ((s.msgRing cb).head ≠ (s.msgRing cb).tail ∨ (s.defRing cb).head ≠ (s.defRing cb).tail)
      let u := s.modSlot v fun x => { x with blk := { x.blk with rlogbase := BitVec.ofNat 64 (fld w 6 46 * 2 ^ 6 + fld w 0 1) } }
      let u' := match u.logBase? v with
        | some cb => (if u.cbWord cb 0 = 0 ∧ u.cbWord cb 1 = 0 then u.hbmWrite Owner.hv cb (wordsBytes [20, 22]) else u).hbmWrite Owner.hv (cb + 16)
          (List.replicate 32 0)
        | none => u
      ((s.vchip? v).isSome = true → busy → exec (.rlogbaseWrite v w) s = .next s) ∧
      ((s.vchip? v).isSome = true → ¬ busy → (u'.vchip? v).isSome = true →
        let t := u'.setLogSt v (u'.slot v).log.st
        exec (.rlogbaseWrite v w) s = .next (if t.logValid v then t.resumeFull v else t.reportInvalidLog v)) ∧
      ((s.vchip? v).isSome = false → (u'.vchip? v).isSome = false → u'.logValid v = true →
        exec (.rlogbaseWrite v w) s = .next (u'.resumeFull v))) ∧
    (∀ (w0 w1 : Word) cb, s.logBase? v = some cb → s.answers = true →
      ((s.slot v).log.ran = true → exec (.controlBlockWrite v w0 w1) s = .next s) ∧
      ((s.slot v).log.ran = false →
        let u := s.hbmWrite Owner.hv cb (wordsBytes [w0, w1])
        (u.logValid v = true → exec (.controlBlockWrite v w0 w1) s = .next (u.resumeFull v)) ∧
        (u.logValid v = false → exec (.controlBlockWrite v w0 w1) s = .next (if s.logValid v then u.reportInvalidLog v else u))))

/-- Hypervisor commands and table rewrites (R19, R40, R44, R54, R55, R87). A command while BUSY ends with RESULT 4, one on an
unknown token with 1, and one on a token of the other kind with 2, keeping it. A resumed master is frozen no longer, and its
stopped copies and posts complete; a stream frozen at its destination sends RESUME or RESUME-abandon with its SEQ, one frozen with
code 7 is refused with 3, at either end; at its source it goes on, building its request anew for code 1 and retransmitting for the
others, or is abandoned; the token then goes. A rewrite starts its load, or is refused with 3 while one runs; the load fails with
its result or pauses the guest; the pause ends within 50 us once drained, or undrained after 45 us. HVCMD_RESUME_MASTER,
HVCMD_RESUME_STREAM, HVCMD_ABANDON_STREAM, TABLE_REWRITE, REWRITE_SHADOW_LOAD_DONE, REWRITE_DRAIN_DONE and REWRITE_DRAIN_LIMIT
complete under the conditions named. -/
def Obligations.HvCommandsAndRewrites : Prop :=
  ∀ (s : State), s.answers = true →
    (∀ (k : BitVec 16),
      let res (u : State) (r : Nat) : State := { u with host := { u.host with hvResult := r } }
      let cmds : List Instr := [.hvcmdResumeMaster k, .hvcmdResumeStream k, .hvcmdAbandonStream k]
      (s.host.hvBusy = true → ∀ i ∈ cmds, exec i s = .next (res s 4)) ∧
      (s.host.hvBusy = false →
        let gone (u : State) : State := res (u.dropToken k.toNat) 0
        let tok := KMap.find? s.evq.tokens k.toNat
        (tok = none → ∀ i ∈ cmds, exec i s = .next (res s 1)) ∧
        (∀ v, tok = some (.master v) →
          exec (.hvcmdResumeStream k) s = .next (res s 2) ∧ exec (.hvcmdAbandonStream k) s = .next (res s 2) ∧
          let u := (s.modSlot v fun x => { x with frozen := none }).resumeEngines v
          let c := (u.slot v).sched
          exec (.hvcmdResumeMaster k) s = .next (gone (if c.switchedIn && (!c.preempting || c.grace) && (u.slot v).log.st == .logging
            then u.setLogSt v .replaying else u))) ∧
        (∀ v, tok = some (.tdi v) → exec (.hvcmdResumeMaster k) s = .next (gone s) ∧
          exec (.hvcmdResumeStream k) s = .next (res s 2) ∧ exec (.hvcmdAbandonStream k) s = .next (res s 2)) ∧
        (∀ id fz p, tok = some (.dst id) → (s.dstStream id).frozen = some fz → (s.dstStream id).last = some p →
          exec (.hvcmdResumeMaster k) s = .next (res s 2) ∧
          (fz.code = 7 → exec (.hvcmdResumeStream k) s = .next (res s 3)) ∧
          (fz.code ≠ 7 → exec (.hvcmdResumeStream k) s =
            .next (gone ((s.setDst { s.dstStream id with frozen := none }).sendResume p false fz.seq))) ∧
          exec (.hvcmdAbandonStream k) s = .next (gone (s.sendResume p true fz.seq))) ∧
        (∀ id fz, tok = some (.src id) → (s.srcStream id).frozen = some fz →
          exec (.hvcmdResumeMaster k) s = .next (res s 2) ∧
          (fz.code = 7 → exec (.hvcmdResumeStream k) s = .next (res s 3)) ∧
          (fz.code ≠ 1 → fz.code ≠ 7 → exec (.hvcmdResumeStream k) s = .next (gone (s.resendFrom id fz.seq))) ∧
          (fz.code = 1 → exec (.hvcmdResumeStream k) s = .next (gone (s.setSrc { s.srcStream id with frozen := none }))) ∧
          exec (.hvcmdAbandonStream k) s = .next (gone (s.abandonStream id))))) ∧
    (let r := s.tables.rewrite
     let set (u : State) (r : Rewrite) : State := { u with tables := { u.tables with rewrite := r } }
     (∀ w : Word, (r.phase ≠ .idle → exec (.tableRewrite w) s = .next (set s { r with result := 3 })) ∧
       (r.phase = .idle → exec (.tableRewrite w) s = .next (set s { r with phase := .loading, daddr := fld w 6 58 * 2 ^ 6, ndesc := fld w 0 4 + 1 }))) ∧
     (r.phase ≠ .loading → exec .rewriteShadowLoadDone s = .next s) ∧
     (r.phase = .loading →
       let ds := s.readDescs r.daddr r.ndesc
       let g := ((ds.head?).map fun e => e.1.guest).getD 0
       (s.loadResult ds ≠ 0 → exec .rewriteShadowLoadDone s =
         .next (set s { r with phase := .idle, result := s.loadResult ds, guest := g, drained := false, pause := 0 })) ∧
       (s.loadResult ds = 0 → exec .rewriteShadowLoadDone s = .next (set s { r with phase := .paused, guest := g, shadow := ds, since := s.runUs }))) ∧
     (r.phase = .paused →
       let drained := (∀ x ∈ s.fabric.src, x.guest ∈ r.guests → x.sent = [] ∨ x.frozen.isSome = true) ∧
         (∀ d ∈ s.fabric.dst, d.guest ∈ r.guests → d.held = [])
       let ended (ok : Bool) (us : Nat) : State :=
         let u := s.swapTables r.shadow
         set u { u.tables.rewrite with phase := .idle, shadow := [], drained := ok, pause := us % 2 ^ 16, result := 0 }
       (∀ us, drained → us ≤ 50 → exec (.rewriteDrainDone us) s = .next (ended true us)) ∧
       (∀ us, ¬ drained ∨ 50 < us → exec (.rewriteDrainDone us) s = .next s) ∧
       (¬ drained → r.since + 45 ≤ s.runUs → exec .rewriteDrainLimit s = .next (ended false (s.runUs - r.since))) ∧
       (drained ∨ s.runUs < r.since + 45 → exec .rewriteDrainLimit s = .next s)))

/-! ### Scheduling -/

/-- The launch scheduler (R27, R67, R68, R89 to R96, R100, R406). The port takes a submission while fewer than 256 stand and the vchip can run,
else it sets REFUSED; outside RUN the host's write does not arrive. The oldest record is read once: a failure is a launch fault of
kind 1, a bad record completes with status 2, a good one joins its queue with its dependences as they stand. A head's flag word
satisfies its dependence once it equals, or reaches, the value, and completes the launch with status 5 where it cannot be read. Where the
translation's stage-1 tables stand in host memory and the TDI is not in RUN, record and flag word wait. The picked
head is placed where it fits at once, or completes with status 3 where it never can; a gang with no warp left is retired.
LAUNCH_PORT_WRITE, LAUNCH_RECORD_READ, FLAG_DEPENDENCE_POLL, GANG_PLACE and GANG_RETIRE complete under the conditions named. -/
def SchedulerEvents : Prop :=
  ∀ (s : State) (v : Nat),
    (∀ w : Word, s.answers = true →
      let x := s.slot v
      let bad := 256 ≤ x.win.port.length ∨ s.power.start ≠ .operational ∨ x.blk.flr.begun = true ∨ fld w 6 2 ≠ 0 ∨ x.gen = 0
      (x.tdi = some .run → bad → exec (.launchPortWrite v w) s = .next (s.modSlot v fun x => { x with win := { x.win with refused := true } })) ∧
      (x.tdi = some .run → ¬ bad → exec (.launchPortWrite v w) s = .next (s.modSlot v fun x => { x with win := { x.win with
        port := x.win.port ++ [⟨BitVec.ofNat 64 (fld w 8 56 * 2 ^ 8), fld w 0 6, none⟩] } })) ∧
      (∀ t, x.tdi = some t → t ≠ .run → exec (.launchPortWrite v w) s = .next { s with signals := s.signals ++ [.unsupported v] }) ∧
      (x.tdi = none → exec (.launchPortWrite v w) s = .next s)) ∧
    (∀ sub rest, (s.slot v).win.port = sub :: rest → (s.schedRuns v = false ∨ s.submitted sub = false) → exec (.launchRecordRead v) s = .next s) ∧
    ((s.slot v).win.port = [] → exec (.launchRecordRead v) s = .next s) ∧
    (∀ sub rest, (s.slot v).win.port = sub :: rest → s.schedHeld v sub.addr Acc.read = true → exec (.launchRecordRead v) s = .next s) ∧
    (∀ sub rest, (s.slot v).win.port = sub :: rest → s.schedRuns v = true → s.submitted sub = true → s.schedHeld v sub.addr Acc.read = false →
      let s1 := s.modSlot v fun x => { x with win := { x.win with port := rest } }
      (∀ s2, s1.schedPlace v sub.addr 256 Acc.read = (none, s2) → exec (.launchRecordRead v) s = .next (s2.launchFault v sub.addr 1)) ∧
      (∀ p s2, s1.schedPlace v sub.addr 256 Acc.read = (some p, s2) → s2.placeOpen v p = true →
        let ws := bytesWords (s2.readPlace p 256)
        let n := (s2.slot v).sched.nextLaunch
        let taken (qs : List Launch) : State := s2.modSlot v fun x => { x with sched := { x.sched with
          queues := x.sched.queues ++ qs, nextLaunch := n + 1, lastOf := KMap.put x.sched.lastOf sub.queue n } }
        (s2.badRecord v ws = true → exec (.launchRecordRead v) s = .next ((taken []).writeCompletion v ws 2)) ∧
        (s2.badRecord v ws = false → exec (.launchRecordRead v) s = .next (
          let deps := (List.range 8).map fun i => s2.depOf v (recWord ws (8 + 2 * i), recWord ws (9 + 2 * i))
          (taken [⟨n, sub.queue, ws, deps, none, none, 0, 0, false, false, KMap.find? (s2.slot v).sched.lastOf sub.queue, [], none, none⟩]).noteEligible v)))) ∧
    (∀ id dep l eq addr value, s.launch? v id = some l → l.deps[dep]? = some (.flag eq addr value) → s.schedRuns v = true → l.isReserve = false →
      ((s.slot v).head? l.queue).map (·.id) = some id →
      (s.schedHeld v addr Acc.read = true → exec (.flagDependencePoll v id dep) s = .next s) ∧
      (s.schedHeld v addr Acc.read = false → (∀ s1, s.schedPlace v addr 8 Acc.read = (none, s1) →
        exec (.flagDependencePoll v id dep) s = .next ((s1.completeLaunch v id 5).noteEligible v)) ∧
      (∀ p s1, s.schedPlace v addr 8 Acc.read = (some p, s1) → s1.placeOpen v p = true →
        let w := s1.readWord p 8
        let met := if eq then w = value else value.toNat ≤ w.toNat
        (met → exec (.flagDependencePoll v id dep) s =
          .next ((s1.modLaunch v id fun l => { l with deps := setAt l.deps dep .done }).noteEligible v)) ∧
        (¬ met → exec (.flagDependencePoll v id dep) s = .next s1)))) ∧
    (s.tryReserve v = s →
      (s.mayPlace v = false → exec (.gangPlace v) s = .next s) ∧
      (s.mayPlace v = true → (s.slot v).pick s.now = none → exec (.gangPlace v) s = .next s) ∧
      (∀ l, s.mayPlace v = true → (s.slot v).pick s.now = some l →
        (l.placed = 0 → s.neverFits v l = true → exec (.gangPlace v) s = .next ((s.completeLaunch v l.id 3).noteEligible v)) ∧
        (¬ (l.placed = 0 ∧ s.neverFits v l = true) → s.fitLaunch v l (s.claims v) (s.saveClaimed v) = none → exec (.gangPlace v) s = .next s) ∧
        (∀ ps, ¬ (l.placed = 0 ∧ s.neverFits v l = true) → l.podg = false → s.fitLaunch v l (s.claims v) (s.saveClaimed v) = some ps →
          exec (.gangPlace v) s = .next ((s.placeGangs v l .resident ps).noteEligible v)) ∧
        (∀ ps, ¬ (l.placed = 0 ∧ s.neverFits v l = true) → l.podg = true → s.fitLaunch v l (s.claims v) (s.saveClaimed v) = some ps →
          exec (.gangPlace v) s = .next ((s.placeGangs v l .held ps).startPod v l)))) ∧
    (∀ gid g, s.gang? gid = some g → s.clocksRun = true →
      (s.warpsOf gid ≠ [] → exec (.gangRetire gid) s = .next s) ∧
      (s.warpsOf gid = [] → (g.st = .resident ∨ g.st = .stopping) → exec (.gangRetire gid) s = .next ((s.retireGang gid false).noteEligible g.slot)))

/-- Where a workgroup's claim may lie (R99, R100): a placement found for a core keeps to it, its warp slots and vault units lie within the
core's 16 and 1024 beside those held there, slots at a multiple of min(4, p), and its z tiles are as many as asked and held by nobody. -/
def PlacementsDoNotOverlap : Prop :=
  ∀ (held : List Held') (core : Nat) (n : Need) (c : WgClaim), fitCore held core n = some c → 1 ≤ n.nwarp → n.nwarp ≤ 16 →
    c.core = core ∧ c.slot + n.nwarp ≤ 16 ∧ c.slot % (if n.nwarp = 1 then 1 else if n.nwarp = 2 then 2 else 4) = 0 ∧
    c.vault % 4096 = 0 ∧ c.vault + n.vlt * 4096 ≤ 1024 * 4096 ∧ c.ztiles.length = n.zt ∧ (∀ t ∈ c.ztiles, t < 384) ∧
    (∀ h ∈ held, h.2.core = core → h.1.nwarp ≠ 0 →
      (c.slot + n.nwarp ≤ h.2.slot ∨ h.2.slot + h.1.nwarp ≤ c.slot) ∧ (∀ t ∈ c.ztiles, t ∉ h.2.ztiles)) ∧
    (∀ h ∈ held, h.2.core = core → n.vlt ≠ 0 → h.1.vlt ≠ 0 → h.2.vault % 4096 = 0 →
      c.vault + n.vlt * 4096 ≤ h.2.vault ∨ h.2.vault + h.1.vlt * 4096 ≤ c.vault)

/-- The scheduler (R89 to R100, R104): the two parts above. -/
def Obligations.SchedulingAndPlacement : Prop := SchedulerEvents ∧ PlacementsDoNotOverlap

/-- Sharing in time and pre-emption (R58, R59, R97, R98, R104, R105, R109, R110). A slice that is over, or a vchip without work or frozen, makes
way for the next member of its group; where there is none, a slice that is over, or one without work for which SCHED was written, is followed
by a new one, which is announced: SCHED as written takes effect with it, and takes the vchip off its cores where its group or dedication
changes; a slice's end waits for a rewrite's
pause (R55); a vchip that is out is offered its cores. A write of SCHED outside its ranges sets REFUSED, of a dedicated vchip's it takes
effect at once, or after the pre-emption that clearing DEDIC starts. PREEMPT sets the vchip aside: at once where it is
out, refused where the save area is short, else BUSY until it is out; its resumption offers the cores again. A grace window ends after
200 us or once every warp of its gangs has yielded; a pre-emption is complete once every stopping gang may be saved. A hint is kept for a
time-sliced vchip in place of the sender's last, and goes when it is descheduled or cancelled. SLICE_END, SCHED_WRITE, PREEMPT_GO,
PREEMPT_RESUME, GRACE_WINDOW_END, PREEMPTION_COMPLETE, HINT_NEXT_WINDOW, HINT_DESCHEDULED and HINT_CANCEL complete under the conditions
named. -/
def Obligations.SharingAndPreemption : Prop :=
  ∀ (s : State) (v : Nat) (c : Vchip), (s.slot v).vchip = some c → v < 64 → s.answers = true → s.clocksRun = true → KMap.rising s.slots = true →
    let x := s.slot v
    let r := x.sch.now
    (s.paused c.guest = true → exec (.sliceEnd v) s = .next s) ∧
    (s.paused c.guest = false → (x.sched.switchedIn = false → exec (.sliceEnd v) s = .next (s.offerCores v)) ∧
    (x.sched.switchedIn = true → (x.sched.preempting = true ∨ r.dedic = true) → exec (.sliceEnd v) s = .next s) ∧
    (x.sched.switchedIn = true → x.sched.preempting = false → r.dedic = false →
      (let idle := (s.hasWork v = false ∨ s.isFrozen v = true) ∧ x.sch.next.isSome = true
       let again (sch : SchedRegs) : Prop := exec (.sliceEnd v) s = .next ((s.modSlot v fun x => { x with sch := sch, sched := { x.sched with
          inAt := s.now, runs := (x.sched.runs ++ [(x.sched.inAt, s.now)]).filter fun r => s.now < r.2 + 100000 } }).announce v)
       (s.nextOf r.group = none ∨ s.nextOf r.group = some v) →
        ((x.sched.inAt + r.slice ≤ s.now ∨ idle) →
          (x.sch.next = none → again x.sch) ∧
          (∀ n, x.sch.next = some n → n.dedic = r.dedic → n.group = r.group → again { x.sch with now := n, next := none }) ∧
          (∀ n, x.sch.next = some n → (n.dedic ≠ r.dedic ∨ n.group ≠ r.group) → exec (.sliceEnd v) s = .next (s.beginPreempt v false))) ∧
        (s.now < x.sched.inAt + r.slice → ¬ idle → exec (.sliceEnd v) s = .next s)) ∧
      (∀ n, s.nextOf r.group = some n → n ≠ v → (x.sched.inAt + r.slice ≤ s.now ∨ s.hasWork v = false ∨ s.isFrozen v = true) →
        exec (.sliceEnd v) s = .next (s.beginPreempt v false)))) ∧
    (∀ w : Word, fld w 1 1 = 0 →
      let n : SchedReg := ⟨fld w 32 16, fld w 16 8, fld w 8 6, w.getLsbD 0⟩
      ((n.slice < 100 ∨ 10000 < n.slice ∨ s.schedRefused v n = true) →
        exec (.schedWrite v w) s = .next (s.modSlot v fun x => { x with sch := { x.sch with refused := true } })) ∧
      (s.schedRefused v n = false → n.dedic = true → r.dedic = true → exec (.schedWrite v w) s =
        .next ((s.modSlot v fun x => { x with sch := { x.sch with now := n, next := none } }).reclaim v)) ∧
      (s.schedRefused v n = false → n.dedic = false → r.dedic = true → x.sched.switchedIn = true → exec (.schedWrite v w) s =
        .next ((s.modSlot v fun x => { x with sch := { x.sch with next := some n } }).beginPreempt v false)) ∧
      (s.schedRefused v n = false → r.dedic = false → x.sched.switchedIn = true → exec (.schedWrite v w) s =
        .next (s.modSlot v fun x => { x with sch := { x.sch with next := some n } }))) ∧
    (∀ w : Word, fld w 2 1 = 0 → fld w 5 1 = 0 →
      let pre (f : SchedRegs → SchedRegs) : State := s.modSlot v fun x => { x with sch := f x.sch }
      (w.getLsbD 0 = false → exec (.preemptGo v w) s = .next (pre fun r => r)) ∧
      (w.getLsbD 0 = true → x.sched.switchedIn = false → exec (.preemptGo v w) s = .next (pre fun r => { r with heldOut := true, preDone := true })) ∧
      (w.getLsbD 0 = true → x.sched.switchedIn = true → r.dedic = true → s.saveShort v = true →
        exec (.preemptGo v w) s = .next (pre fun r => { r with preRefused := true })) ∧
      (w.getLsbD 0 = true → x.sched.switchedIn = true → (r.dedic = false ∨ s.saveShort v = false) → exec (.preemptGo v w) s =
        .next ((pre fun r => { r with heldOut := true, preBusy := true }).beginPreempt v (w.getLsbD 3)))) ∧
    exec (.preemptResume v) s = .next ((s.modSlot v fun x => { x with sch := { x.sch with heldOut := false } }).offerCores v) ∧
    (x.sched.grace = false → exec (.graceWindowEnd v) s = .next s) ∧
    (x.sched.grace = true → (x.sched.graceAt + 200 ≤ s.runUs ∨ ∀ e ∈ s.graceGangs v, ∀ u ∈ s.warpsOf e.1, u.2.work.yielded.isSome = true) →
      exec (.graceWindowEnd v) s = .next (s.endGrace v)) ∧
    (x.sched.grace = true → s.runUs < x.sched.graceAt + 200 → (∃ e ∈ s.graceGangs v, ∃ u ∈ s.warpsOf e.1, u.2.work.yielded = none) →
      exec (.graceWindowEnd v) s = .next s) ∧
    ((x.sched.preempting = false ∨ x.sched.grace = true) → exec (.preemptionComplete v) s = .next s) ∧
    (x.sched.preempting = true → x.sched.grace = false → (∀ e ∈ s.work.gangs, e.2.slot = v → e.2.st ≠ .ending) →
      let gs := s.work.gangs.filter fun e => e.2.slot == v && e.2.st == .stopping
      (∀ e ∈ gs, s.canSave v e.1 = true ∧ s.warpsOf e.1 ≠ []) →
      exec (.preemptionComplete v) s = .next ((gs.foldl (fun s e => s.saveGang e.1 (s.saveBaseOf v e.1)) s).switchOut v)) ∧
    (∀ port p s1 s2, s.arrival = some (port, p, s1) → s1.check p = (none, s2) → p.typ = 0x20 → p.rev = false →
      let other (u : State) : State := u.modSlot p.dslot fun x => { x with sched := { x.sched with hints := x.sched.hints.filter fun h => h.1 != p.svch } }
      let mhz := if p.oparg / 256 % 2 = 1 then 1200 else 1600
      (p.oparg % 256 = 0 → (s2.slot p.dslot).sch.now.dedic = true → exec .hintNextWindow s = .next s2) ∧
      (p.oparg % 256 = 0 → (s2.slot p.dslot).sch.now.dedic = false → exec .hintNextWindow s = .next ((other s2).modSlot p.dslot fun x =>
        { x with sched := { x.sched with hints := x.sched.hints ++ [(p.svch, s2.now + fld p.imm 32 32 / mhz, fld p.imm 0 32 / mhz)] } })) ∧
      (p.oparg % 256 = 1 → exec .hintDescheduled s = .next (other s2)) ∧
      (p.oparg % 256 = 2 → exec .hintCancel s = .next (other s2)))

/-! ### The host's registers and services -/

/-- Invalidation, the event ring, TDISP and the host as a master (R18, R27, R76, R77, R86). A TINVN or S2INVN of an extent that is not empty
sets BUSY and joins the vchip's queue, while BUSY it sets REFUSED, and an empty extent does nothing; the head of the queue ends, and BUSY
falls, once what was in flight is done, but not while the module is halted. EVQHEAD makes room, and EVQBASE starts a ring at 0 with the
unread records of kinds 1 and 2 first and the others lost. Back in RUN a TDI lets held completion words go, in their order, with vector 0
where the record asks for it; one whose translation waited is translated then. A host access through a TDI in RUN that no range covers posts
a record of kind 1 with its address, is answered with Completer Abort, and puts the TDI in ERROR. TINVN_WRITE, S2INVN_WRITE,
INVALIDATION_DRAIN_DONE, EVQHEAD_WRITE, EVQBASE_WRITE and TDISP_STATE_CHANGE complete under the conditions named. -/
def InvalidationAndEventRing : Prop :=
  ∀ (s : State) (v : Nat) (w : Word), s.answers = true → v < 64 →
    let x := s.slot v
    let inv (src : InvFrom) (addr : Word) : Inv := ⟨src, fld addr 12 52, fld w 0 32, w.getLsbD 63, false, []⟩
    let none' := w.getLsbD 63 = false ∧ fld w 0 32 = 0
    (x.tdi = some .run →
      (x.win.tinvBusy = true → exec (.tinvnWrite v w) s = .next (s.modSlot v fun x => { x with win := { x.win with tinvRefused := true } })) ∧
      (x.win.tinvBusy = false → none' → exec (.tinvnWrite v w) s = .next s) ∧
      (x.win.tinvBusy = false → ¬ none' → exec (.tinvnWrite v w) s = .next
        ((s.modSlot v fun x => { x with win := { x.win with tinvBusy := true } }).addInv v (inv .tinv x.win.tinva)))) ∧
    (x.blk.s2Busy = true → exec (.s2invnWrite v w) s = .next (s.modSlot v fun x => { x with blk := { x.blk with s2Refused := true } })) ∧
    (x.blk.s2Busy = false → none' → exec (.s2invnWrite v w) s = .next s) ∧
    (x.blk.s2Busy = false → ¬ none' → exec (.s2invnWrite v w) s = .next
      ((s.modSlot v fun x => { x with blk := { x.blk with s2Busy := true } }).addInv v (inv .s2inv x.blk.s2inva))) ∧
    (s.invsOf v = [] → exec (.invalidationDrainDone v) s = .next s) ∧
    (∀ i is, s.invsOf v = i :: is →
      (i.begun = false → exec (.invalidationDrainDone v) s = .next (s.beginInv v)) ∧
      (i.begun = true → (s.power.thalt = true ∨ ∃ d ∈ i.items, s.itemDone d = false) → exec (.invalidationDrainDone v) s = .next s) ∧
      (i.begun = true → s.power.thalt = false → (∀ d ∈ i.items, s.itemDone d = true) →
        (i.src = .tinv → exec (.invalidationDrainDone v) s = .next
          (((s.modSlot v fun x => { x with win := { x.win with tinvBusy := false } }).setInvs v is).beginInv v)) ∧
        (i.src = .s2inv → exec (.invalidationDrainDone v) s = .next
          (((s.modSlot v fun x => { x with blk := { x.blk with s2Busy := false } }).setInvs v is).beginInv v)) ∧
        (∀ a b, i.src = .tlbi a b → exec (.invalidationDrainDone v) s = .next ((s.setInvs v is).beginInv v)))) ∧
    exec (.evqheadWrite w) s = .next ({ s with evq := { s.evq with head := w.setWidth 16 } }).evSettle ∧
    (let keep := s.unread.filter fun r => r.kind ≤ 2
     let lost := s.unread.length - keep.length
     exec (.evqbaseWrite w) s = .next ({ s with evq := { s.evq with
       base := fld w 12 52 * 2 ^ 12, log2n := fld w 0 5, head := 0, tail := 0, held := keep ++ s.evq.held
       lost := BitVec.ofNat 32 (min (2 ^ 32 - 1) (s.evq.lost.toNat + lost)), ovf := s.evq.ovf || decide (lost ≠ 0) } }).evSettle) ∧
    (x.tdi = none → ∀ t, exec (.tdispStateChange v t) s = .next s) ∧
    (∀ t t', x.tdi = some t' →
      let u := s.modSlot v fun x => { x with tdi := some t }
      (t ≠ .run → exec (.tdispStateChange v t) s = .next u) ∧
      (t = .run → exec (.tdispStateChange v t) s = .next ((u.slot v).sched.heldWrites.foldl (fun o e =>
        match e with
        | .host a word true => let o := o.hostWrite a (wordBytes word 8); { o with signals := o.signals ++ [.vf v 0] }
        | .host a word false => o.hostWrite a (wordBytes word 8)
        | .walk ws st => o.writeCompletion v ws st) (u.modSlot v fun x => { x with sched := { x.sched with heldWrites := [] } })))) ∧
    (∀ addr len wr acc e, x.tdi = some .run → 1 ≤ (wr.map List.length).getD len → acc = (if wr.isSome then Acc.write else Acc.read) →
      s.stage2 v addr acc = .error e →
      let tok := s.newToken (.tdi v)
      let u := tok.2.modSlot v fun x => { x with tdi := some .error }
      s.hostAccess v addr len wr = ({ u with signals := u.signals ++ [Signal.completerAbort v] } : State).post
        { kind := 1, slot := v, token := tok.1, guest := ((s.vchip? v).map fun c => c.guest).getD 0, addr := addr, acc := acc.bits } none) ∧
    (∀ addr len wr t, x.tdi = some t → t ≠ .run → s.hostAccess v addr len wr = { s with signals := s.signals ++ [.unsupported v] })

/-- Certificates, registers and generations (R5, R6, R27, R66 to R69, R76, R80, R84, R85, R97, R104). A challenge on a slot above 7 is
answered as invalid, one whose slot has a rewrite waits behind it, and a pending one is answered with the slot's chain, the measurements and
a signature; a certificate for slot 0 or above 7 is invalid, and any other replaces the chain at once unless a challenge is pending; after 2
ms the pending challenges end as busy. A register write sets its RW fields, clears W1C bits written as 1, and ignores the rest; a register
read gives its fields, and zero for reserved ones and for offsets that name no register. A scrubber pass zeroes lines that no owner holds,
returns the values that had retired before it began, and gives slots with value 0 one of them. A packet of no listed type freezes its
stream, and one that is frozen takes at most the record of a bad key. SPDM_CHALLENGE, SET_CERTIFICATE, CHALLENGE_BUSY_TIMEOUT,
REGISTER_WRITE, SCRUBBER_PASS_END, GENERATION_ASSIGNED and HEADER_ERROR complete under the conditions named. -/
def HostServices : Prop :=
  ∀ (s : State),
    (s.answers = true → ∀ mb cs chain,
      let say (p : Spdm) (a : SpdmAnswer) : Spdm := { p with answers := p.answers ++ [a] }
      (7 < cs → exec (.spdmChallenge mb cs) s = .next { s with spdm := say s.spdm (.invalid mb) } ∧
        exec (.setCertificate mb cs chain) s = .next { s with spdm := say s.spdm (.invalid mb) }) ∧
      exec (.setCertificate mb 0 chain) s = .next { s with spdm := say s.spdm (.invalid mb) } ∧
      (cs ≤ 7 → (⟨mb, cs⟩ : Challenge) ∉ s.spdm.challenges →
        ((∃ r ∈ s.spdm.rewrites, r.cslot = cs) → exec (.spdmChallenge mb cs) s =
          .next { s with spdm := { s.spdm with deferred := s.spdm.deferred ++ [⟨mb, cs⟩] } }) ∧
        ((∀ r ∈ s.spdm.rewrites, r.cslot ≠ cs) → exec (.spdmChallenge mb cs) s =
          .next { s with spdm := { s.spdm with challenges := s.spdm.challenges ++ [⟨mb, cs⟩] } })) ∧
      (cs ≤ 7 → s.spdm.challenges = [⟨mb, cs⟩] → (∀ r ∈ s.spdm.rewrites, r.cslot ≠ cs) → (∀ c ∈ s.spdm.deferred, c.cslot ≠ cs) →
        let chain := if cs = 0 then Config.deviceChain else KMap.get s.spdm.certs [] cs
        let ms := s.measured mb
        let sig := (List.range 1280).map (Config.signature (chain ++ ms.flatten))
        exec (.spdmChallenge mb cs) s = .next { s with spdm := say { s.spdm with challenges := [] } (.response mb cs chain ms sig) }) ∧
      (0 < cs → cs ≤ 7 → (∀ c ∈ s.spdm.challenges, c.cslot ≠ cs) → (∀ r ∈ s.spdm.rewrites, r.cslot ≠ cs) → (∀ c ∈ s.spdm.deferred, c.cslot ≠ cs) →
        exec (.setCertificate mb cs chain) s = .next { s with spdm := say { s.spdm with certs := KMap.set s.spdm.certs [] cs chain } (.certSet mb cs) }) ∧
      ((∀ r ∈ s.spdm.rewrites, r.cslot = cs → s.now < r.since + 2000) → exec (.challengeBusyTimeout cs) s = .next s) ∧
      (∀ r, s.spdm.rewrites = [r] → r.cslot = cs → r.since + 2000 ≤ s.now → s.spdm.challenges = [⟨mb, cs⟩] → s.spdm.deferred = [] →
        exec (.challengeBusyTimeout cs) s = .next { s with spdm := { s.spdm with
          challenges := [], rewrites := [], certs := KMap.set s.spdm.certs [] cs r.chain
          answers := s.spdm.answers ++ [.busy mb] ++ [.certSet r.mailbox cs] } })) ∧
    (∀ v (w : Word), s.answers = true → v < 64 →
      let blk (f : Block → Block) : State := s.modSlot v fun x => { x with blk := f x.blk }
      let win (f : Window → Window) : State := s.modSlot v fun x => { x with win := f x.win }
      let root : Word := BitVec.ofNat 64 (fld w 13 39 * 2 ^ 13 + fld w 0 1)
      let range : Word := BitVec.ofNat 64 (fld w 13 39 * 2 ^ 13 + fld w 0 9)
      exec (.registerWrite (.perSlot v 0x00) w) s = .next (blk fun b => { b with s2root := root }) ∧
      exec (.registerWrite (.perSlot v 0x08) w) s = .next (blk fun b => { b with s2range := range }) ∧
      exec (.registerWrite (.perSlot v 0x10) w) s = .next (blk fun b => { b with s2inva := BitVec.ofNat 64 (fld w 12 52 * 2 ^ 12) }) ∧
      (fld w 1 1 = 1 → exec (.registerWrite (.perSlot v 0x20) w) s = .next (blk fun b => { b with s2Refused := false })) ∧
      exec (.registerWrite (.perSlot v 0x48) w) s = .next (s.modSlot v fun x => { x with sch := { x.sch with saveBase := fld w 16 36, saveSize := fld w 0 16 } }) ∧
      exec (.registerWrite (.perSlot v 0x58) w) s = .next (blk fun b => { b with phvec := BitVec.ofNat 64 (fld w 3 54 * 2 ^ 3 + fld w 0 1) }) ∧
      exec (.registerWrite (.perSlot v 0x60) w) s = .next (blk fun b => { b with defmode := w &&& 0x1F03 }) ∧
      ((s.slot v).tdi = some .run →
        exec (.registerWrite (.vf v 0x10) w) s = .next (win fun b => { b with refused := b.refused && decide (fld w 1 1 = 0), lfovf := b.lfovf && decide (fld w 2 1 = 0) }) ∧
        exec (.registerWrite (.vf v 0x18) w) s = .next (win fun b => { b with s1root := root }) ∧
        exec (.registerWrite (.vf v 0x20) w) s = .next (win fun b => { b with s1range := range }) ∧
        exec (.registerWrite (.vf v 0x28) w) s = .next (win fun b => { b with tinva := BitVec.ofNat 64 (fld w 12 52 * 2 ^ 12) }) ∧
        (fld w 1 1 = 1 → exec (.registerWrite (.vf v 0x38) w) s = .next (win fun b => { b with tinvRefused := false })) ∧
        (fld w 0 1 = 1 → exec (.registerWrite (.vf v 0x40) w) s = .next (win fun b => { b with lfault := 0 }))) ∧
      ((s.slot v).tdi = none → ∀ o, exec (.registerWrite (.vf v o) w) s = .next s) ∧
      (∀ o, o ∉ [0x00, 0x08, 0x10, 0x20, 0x48, 0x58, 0x60] → exec (.registerWrite (.perSlot v o) w) s = .next s)) ∧
    (∀ v, s.answers = true → v < 64 →
      let x := s.slot v
      let b (f : Bool) (n : Nat) : Nat := if f then n else 0
      let bits (n : Nat) : Option Word := some (BitVec.ofNat 64 n)
      s.readReg (.perSlot v 0x00) = some x.blk.s2root ∧ s.readReg (.perSlot v 0x08) = some x.blk.s2range ∧
      s.readReg (.perSlot v 0x20) = bits (b x.blk.s2Refused 2 + b x.blk.s2Busy 1) ∧
      s.readReg (.perSlot v 0x30) = bits (b x.blk.flrRcpt 4 + b x.blk.flrTmo 2 + b (x.blk.flr != .idle) 1) ∧
      s.readReg (.perSlot v 0x38) = some (x.gen.setWidth 64) ∧
      s.readReg (.perSlot v 0x50) = bits (b x.sch.preRefused 32 + b x.sch.preDone 4 + b (x.sched.preempting || x.sch.preBusy) 2) ∧
      s.readReg (.perSlot v 0x58) = some x.blk.phvec ∧ s.readReg (.perSlot v 0x60) = some x.blk.defmode ∧
      s.readReg (.perSlot v 0x68) = some x.blk.rlogbase ∧
      (∀ o, o ∉ [0x00, 0x08, 0x10, 0x20, 0x30, 0x38, 0x40, 0x48, 0x50, 0x58, 0x60, 0x68] → s.readReg (.perSlot v o) = some 0) ∧
      (x.tdi = some .run →
        s.readReg (.vf v 0x10) = bits (b x.win.lfovf 4 + b x.win.refused 2 + b (decide (256 ≤ x.win.port.length)) 1) ∧
        s.readReg (.vf v 0x18) = some x.win.s1root ∧ s.readReg (.vf v 0x38) = bits (b x.win.tinvRefused 2 + b x.win.tinvBusy 1) ∧
        s.readReg (.vf v 0x40) = some x.win.lfault ∧
        (∀ o, o ∉ [0x00, 0x10, 0x18, 0x20, 0x28, 0x38, 0x40] → s.readReg (.vf v o) = some 0)) ∧
      (x.tdi ≠ some .run → ∀ o, s.readReg (.vf v o) = none)) ∧
    (s.answers = false → ∀ r, s.readReg r = none) ∧
    (s.power.start = .operational → s.power.cur.toNat < 2 → s.power.thalt = false →
      let held (line : Nat) : Bool := (s.hbm.tagOf line).toNat = 0xFE || (s.hbm.tagOf line).toNat = 0xFF ||
        (KMap.find? s.gens.current (s.hbm.tagOf line).toNat).isSome
      ∃ t : State, exec .scrubberPassEnd s = .next (t.slots.foldl (fun u e => u.assignGen e.1) t) ∧
        t.slots = s.slots ∧ t.work = s.work ∧ t.hostMem = s.hostMem ∧ t.dies = s.dies ∧
        t.gens.current = s.gens.current ∧ t.gens.draining = (s.gens.draining.filter fun e => !e.2).map (fun e => (e.1, true)) ∧
        (KMap.rising s.hbm.bytes = true → ∀ a, Memory.byte t.hbm.bytes a = if held (a / 64) then Memory.byte s.hbm.bytes a else 0)) ∧
    (∀ v c, (s.slot v).vchip = some c → s.answers = true →
      ((s.slot v).gen ≠ 0 → exec (.generationAssigned v) s = .next s) ∧
      ((s.slot v).gen = 0 →
        (s.gens.available = [] → exec (.generationAssigned v) s = .next s) ∧
        (s.gens.available ≠ [] → CompletesWith (exec (.generationAssigned v) s) fun u => ∃ n ∈ s.gens.available,
          u = ((({ s with free := s.free + 1, gens := { s.gens with current := KMap.put s.gens.current n v } }).modSlot v fun x =>
            { x with gen := BitVec.ofNat 8 n }).post { kind := 5, slot := v, guest := c.guest, addr := n } none)))) ∧
    (∀ port p s1 code s2, s.arrival = some (port, p, s1) → (p.listed = false ∨ p.typ = 7 ∧ fld p.imm 27 2 = 3 ∨ p.typ = 4 ∧ p.aop ∈ [13, 14, 15]) →
      s1.check p = (some code, s2) →
      ((s2.dstStream p.dstId).frozen.isSome = true → exec .headerError s = .next (if s2.keyFails p then s2.notifyKey p p.stream p.seq else s2)) ∧
      ((s2.dstStream p.dstId).frozen = none →
        let t := s2.finishJob 10 p.dstId
        exec .headerError s = .next (t.freezeDst p code (t.dstStream p.dstId).expected)))

/-- The host interface (R26, R27, R76, R84 to R87): the two parts above. -/
def Obligations.HostRegistersAndServices : Prop := InvalidationAndEventRing ∧ HostServices

/-! ### Resets, creation and destruction -/

/-- A reset begins: a pre-emption under way stops and the drain starts, or it waits for the pause of its guest (R55, R83). -/
def resetStarts (u : State) (v : Nat) (c : Vchip) (d : Bool) : State :=
  if u.paused c.guest then u.modSlot v fun x => { x with blk := { x.blk with flr := .waitPause d } }
  else (u.stopPreempt v).modSlot v fun x => { x with blk := { x.blk with flr := .draining d u.runUs, flrTmo := false, flrRcpt := false } }

/-- Function-level resets, creation and destruction (R55, R80 to R83, R88). A reset starts its drain, or waits for the pause of its guest; a
second start is ignored, while FLRCMD still names the receipt buffer. The drain ends at once when nothing is outstanding, and after 2 ms in
any case: the vchip's gangs, copies, posts and bindings are gone, its freeze is lifted, its queues and ranges are empty, its window is as at
reset, and its old value leaves use. A create whose checks pass puts the vchip into its slot with a value of the pool and cleared windows,
else gives its RESULT (the order of the checks is the model's, log entry 62, and the key index too, log entry 83); a destroy of a free slot
is RESULT 2, and any other starts the reset that ends in it. VF_FLR, FLRCMD_GO, FLR_DRAIN_DONE, FLR_DRAIN_TIMEOUT, VCHIP_CREATE and
VCHIP_DESTROY complete under the conditions named. -/
def Obligations.ResetsAndCreation : Prop :=
  ∀ (s : State), s.answers = true →
    (∀ v c, (s.slot v).vchip = some c → v < 64 →
      let idle := (s.slot v).blk.flr = .idle
      (¬ idle → exec (.vfFlr v) s = .next s) ∧ (idle → exec (.vfFlr v) s = .next (resetStarts s v c false)) ∧
      (∀ w : Word,
        let u := s.modSlot v fun x => { x with blk := { x.blk with rbuf := some (BitVec.ofNat 64 (fld w 13 51 * 2 ^ 13)) } }
        (w.getLsbD 0 = true → ¬ idle → exec (.flrcmdGo v w) s = .next s) ∧
        (w.getLsbD 0 = true → idle → exec (.flrcmdGo v w) s = .next (resetStarts u v c false)) ∧
        (w.getLsbD 0 = false → exec (.flrcmdGo v w) s = .next u))) ∧
    (∀ v c d since, (s.slot v).vchip = some c → (s.slot v).blk.flr = .draining d since → s.power.thalt = false →
      let after (tmo : Bool) (o : Host.Outcome State Fault Refusal) : Prop := o = .next (s.finishReset v c d since tmo)
      (s.outstanding v = 0 → after false (exec (.flrDrainDone v) s) ∧ exec (.flrDrainTimeout v) s = .next s) ∧
      (s.outstanding v ≠ 0 → exec (.flrDrainDone v) s = .next s ∧
        (since + 2000 ≤ s.runUs → after true (exec (.flrDrainTimeout v) s)) ∧
        (s.runUs < since + 2000 → exec (.flrDrainTimeout v) s = .next s)) ∧
      (KMap.rising s.slots = true → KMap.rising s.work.gangs = true → (s.slot v).sched.switchedIn = true → (s.slot v).sch.now.dedic = true →
        (s.slot v).sched.preempting = false → (s.slot v).sch.heldOut = false → (s.slot v).sch.next = none → s.power.target ≠ some 2 →
        d = false → ∀ tmo,
        let u := s.finishReset v c d since tmo
        (∀ e ∈ u.work.gangs, e.2.slot ≠ v) ∧ (∀ e ∈ u.work.copies, e.2.slot ≠ v) ∧ (∀ e ∈ u.work.posts, e.2.slot ≠ v) ∧
        (u.slot v).frozen = none ∧ (u.slot v).sched.queues = [] ∧ (u.slot v).sched.ranges = [] ∧ (u.slot v).bindings = [] ∧
        (u.slot v).win = Window.reset ∧ (u.slot v).tlb = [] ∧ (u.slot v).blk.flr = .idle ∧ (u.slot v).blk.flrRcpt = true ∧
        (u.slot v).blk.flrTmo = tmo ∧ (u.slot v).vchip = some c)) ∧
    (∀ w : Word,
      let d := s.readDesc w
      let res (u : State) (r : Nat) : State := { u with host := { u.host with vchResult := r } }
      (d.op ≠ 2 → s.host.vchBusy = true → exec (.vchipCreate w) s = .next (res s 7)) ∧
      (d.op ≠ 2 → s.host.vchBusy = false → s.power.start = .operational → s.power.cur ≠ 3 → s.power.target ≠ some 3 →
        (d.op ≠ 1 ∨ d.reserved = true → exec (.vchipCreate w) s = .next (res s 1)) ∧
        (d.op = 1 → d.reserved = false → (s.slot d.slot).vchip.isSome = true → exec (.vchipCreate w) s = .next (res s 2)) ∧
        (d.op = 1 → d.reserved = false → (s.slot d.slot).vchip = none → s.guest? d.guest = none → exec (.vchipCreate w) s = .next (res s 6)) ∧
        (d.op = 1 → d.reserved = false → (s.slot d.slot).vchip = none → (s.guest? d.guest).isSome = true →
          let bad := s.podSize d.guest ≤ d.vch ∨ d.clusters = [] ∨ s.vchTaken d.guest d.vch = true
          (bad → exec (.vchipCreate w) s = .next (res s 1)) ∧
          (¬ bad → s.clusterConflict d.slot d.clusters d.dedic d.group = true → exec (.vchipCreate w) s = .next (res s 3)) ∧
          (¬ bad → s.clusterConflict d.slot d.clusters d.dedic d.group = false → s.gens.available = [] → exec (.vchipCreate w) s = .next (res s 4)) ∧
          (¬ bad → s.clusterConflict d.slot d.clusters d.dedic d.group = false → s.gens.available ≠ [] → KMap.rising s.slots = true →
            CompletesWith (exec (.vchipCreate w) s) fun u =>
              (u.slot d.slot).vchip = some ⟨d.guest, d.vch, d.clusters, d.slot + 1⟩ ∧ (∃ n ∈ s.gens.available, (u.slot d.slot).gen = BitVec.ofNat 8 n) ∧
              (u.slot d.slot).win = Window.reset ∧ (u.slot d.slot).sch.now = ⟨2000, 0, d.group, d.dedic⟩ ∧ (u.slot d.slot).sched.queues = [] ∧
              (u.slot d.slot).tdi = some .unlocked ∧ u.host.vchResult = 0 ∧ ∀ k, k ≠ d.slot → u.slot k = s.slot k))) ∧
      (d.op = 2 → s.host.vchBusy = true → exec (.vchipDestroy w) s = .next (res s 7)) ∧
      (d.op = 2 → s.host.vchBusy = false → s.power.start = .operational → s.power.cur ≠ 3 →
        (d.reserved = true → exec (.vchipDestroy w) s = .next (res s 1)) ∧
        (d.reserved = false → (s.slot d.slot).vchip = none → exec (.vchipDestroy w) s = .next (res s 2)) ∧
        (∀ c, d.reserved = false → (s.slot d.slot).vchip = some c →
          let u : State := { s with host := { s.host with vchBusy := true } }
          let flr (p : FlrPhase) : State := u.modSlot d.slot fun x => { x with blk := { x.blk with flr := p } }
          ((s.slot d.slot).blk.flr = .idle → exec (.vchipDestroy w) s = .next (resetStarts u d.slot c true)) ∧
          (∀ b t, (s.slot d.slot).blk.flr = .draining b t → exec (.vchipDestroy w) s = .next (flr (.draining true t))) ∧
          (∀ b, (s.slot d.slot).blk.flr = .waitPause b → exec (.vchipDestroy w) s = .next (flr (.waitPause true))))))

/-! ### Decoding, reset and the step -/

/-- Decode and encode agree (R262 to R279): for every well-formed program instruction, the words that the encoder writes decode to it, with
every operand at every value that the encoding admits. Events have no words. -/
def Obligations.DecodeInvertsEncode : Prop :=
  ∀ i : Instr, i.wf = true → encode i ≠ [] → decodeWords (encode i) = some i

/-- Words written out from the tables of 14_encoding.md (R262 to R274), bits 63 first: LP, MAJOR, GP, GS, D, A, B, C, TY, FUNC; and one
word each of the forms B, WAIT, L and E. -/
def Obligations.SpecWordsDecode : Prop :=
  decodeWords [(0 : BitVec 2) ++ (0 : BitVec 8) ++ (7 : BitVec 3) ++ (0 : BitVec 1) ++ (0 : BitVec 50)] = some (.nop .always) ∧
  -- SCMP is 0x01; s6, s4, 64 as IMM: FUNC [9] is 1, COND lt is 2
  decodeWords [(0 : BitVec 2) ++ (1 : BitVec 8) ++ (7 : BitVec 3) ++ (0 : BitVec 1) ++ (326 : BitVec 9) ++ (324 : BitVec 9) ++
    (64 : BitVec 18) ++ (7 : BitVec 4) ++ (0x272 : BitVec 10)] = some (.scmp .always .i64 .lt 6 (.s 4) (.imm 64)) ∧
  -- BRC is 0x0A: JD, TD, BP = 1, BS = 0
  decodeWords [(0 : BitVec 2) ++ (10 : BitVec 8) ++ (7 : BitVec 3) ++ (0 : BitVec 1) ++ (4 : BitVec 18) ++ (3 : BitVec 18) ++
    (1 : BitVec 3) ++ (0 : BitVec 1) ++ (0 : BitVec 10)] = some (.brc .always 1 false 3 4) ∧
  -- VFMA is 0x23: v4, v5, v6, v7 as f32
  decodeWords [(0 : BitVec 2) ++ (0x23 : BitVec 8) ++ (7 : BitVec 3) ++ (0 : BitVec 1) ++ (4 : BitVec 9) ++ (5 : BitVec 9) ++
    (6 : BitVec 9) ++ (7 : BitVec 9) ++ (11 : BitVec 4) ++ (0 : BitVec 10)] = some (.vfma .always .f32 4 (.v 5) (.v 6) (.v 7)) ∧
  -- COPY is 0xA0: f0, s4, s5, s6
  decodeWords [(0 : BitVec 2) ++ (0xA0 : BitVec 8) ++ (7 : BitVec 3) ++ (0 : BitVec 1) ++ (480 : BitVec 9) ++ (324 : BitVec 9) ++
    (325 : BitVec 9) ++ (326 : BitVec 9) ++ (0 : BitVec 14)] = some (.copy .always false 0 (.s 4) (.s 5) (.s 6) none) ∧
  -- WAIT is 0x11: LDN, STN, CPN, TLN
  decodeWords [(0 : BitVec 2) ++ (0x11 : BitVec 8) ++ (7 : BitVec 3) ++ (0 : BitVec 1) ++ (63 : BitVec 6) ++ (62 : BitVec 6) ++
    (1 : BitVec 5) ++ (15 : BitVec 4) ++ (0 : BitVec 29)] = some (.wait .always 63 62 1 15) ∧
  -- SLI is 0x02, LP = 0b10, and its second word the value
  decodeWords [(2 : BitVec 2) ++ (2 : BitVec 8) ++ (7 : BitVec 3) ++ (0 : BitVec 1) ++ (383 : BitVec 9) ++ (0 : BitVec 41),
    0xFFFFFFFFFFFFFFFF] = some (.sli .always 63 0xFFFFFFFFFFFFFFFF) ∧
  -- MMA is 0xB1, FUNC [9] AV, with the extension MARK, E0 to E3, LIT: f1, z2, s4, s5, s6, s7
  decodeWords [(2 : BitVec 2) ++ (0xB1 : BitVec 8) ++ (7 : BitVec 3) ++ (0 : BitVec 1) ++ (481 : BitVec 9) ++ (2 : BitVec 9) ++
      (324 : BitVec 9) ++ (325 : BitVec 9) ++ (0 : BitVec 4) ++ (0x200 : BitVec 10),
    (3 : BitVec 2) ++ (326 : BitVec 9) ++ (327 : BitVec 9) ++ (0 : BitVec 9) ++ (0 : BitVec 9) ++ (0 : BitVec 26)] =
    some (.mma .always true false 1 2 (.s 4) (.s 5) (.s 6) (.s 7)) ∧
  -- TRAP is 0xD0
  decodeWords [(0 : BitVec 2) ++ (0xD0 : BitVec 8) ++ (7 : BitVec 3) ++ (0 : BitVec 1) ++ (0 : BitVec 40) ++ (5 : BitVec 10)] =
    some (.trap .always 5)

/-- What reset leaves where the spec gives it (R14, R15, R21, R23, R25, R26, R29, R45 to R50, R71, R79, R80, R86 to R88,
R97): the module is OFF with CUR 0b11 and REQ 0b10 and no flag set, MODCFG 0, 0xFF, 0xFF, no guest, key, vchip, warp, gang, copy or record,
HBM reads zero with tag 0, DEFMODE, PHVEC and the roots are 0, SCHED has a slice of 2000 us and DEDIC, and every core's cycle count is 0. -/
def Obligations.ResetValues : Prop :=
  let s := State.reset
  (s.power.start = .off ∧ s.power.cur = 3 ∧ s.power.req = 2 ∧ s.power.busy = false ∧ s.power.refused = false ∧ s.power.twarn = false ∧
    s.power.thalt = false ∧ s.power.mcmdBusy = false ∧ s.power.mcmdRefused = false ∧ s.power.records = List.replicate 3 (List.replicate 8 0)) ∧
  (s.links.coord = 0 ∧ s.links.sp30 = 0xFF ∧ s.links.sp31 = 0xFF ∧ s.links.refused = false) ∧
  (∀ g, s.guest? g = none) ∧ s.vchips = [] ∧ s.work.warps = [] ∧ s.work.gangs = [] ∧ s.work.copies = [] ∧
  (s.evq.base = 0 ∧ s.evq.head = 0 ∧ s.evq.tail = 0 ∧ s.evq.lost = 0 ∧ s.evq.ovf = false ∧ s.evq.tokens = []) ∧
  (∀ v, (s.slot v).gen = 0 ∧ (s.slot v).frozen = none ∧ (s.slot v).blk.defmode = 0 ∧ (s.slot v).blk.phvec = 0 ∧ (s.slot v).blk.s2root = 0 ∧
    (s.slot v).blk.s2range = 0 ∧ (s.slot v).win.s1root = 0 ∧ (s.slot v).win.s1range = 0 ∧ (s.slot v).win.port = [] ∧
    (s.slot v).sch.now = ⟨2000, 0, 0, true⟩) ∧
  (∀ a, Memory.byte s.hbm.bytes a = 0 ∧ s.hbm.tagOf a = 0) ∧ s.gens.current = [] ∧ s.dies.cyc = [] ∧ s.dies.ticks = 0 ∧ s.Canonical

/-- A reset waits only while its guest's rewrite pause lasts (R55, R83). -/
def ResetsWaitOnlyForPauses (s : State) : Prop :=
  ∀ v c d, (s.slot v).vchip = some c → (s.slot v).blk.flr = .waitPause d → s.paused c.guest = true

/-- Every step keeps it: no reset waits for the pause of a guest that is not paused (R55, R83). -/
def Obligations.ResetsNeverLate : Prop :=
  ResetsWaitOnlyForPauses State.reset ∧
  ∀ s t : State, ResetsWaitOnlyForPauses s → step s = .next t → ResetsWaitOnlyForPauses t

/-- The word at the PC of a path, decoded, executed with the path as its issuer, answers `t`. -/
def RunsItsWord (s : State) (wid i : Nat) (t : State) : Prop :=
  ∃ w p g w0 w1 v, s.warp? wid = some w ∧ w.path? i = some p ∧ s.gangOf w = some g ∧
    s.fetchHeld g p.pc p.sec = false ∧ s.fetch g p.pc = (.words w0 w1, v) ∧
    exec (decode w0 w1).instr { v with cur := some ⟨wid, i, w0, w1, p.sec⟩ } = .next t

/-- The path stands at the second word of a legal pair whose first word it ran (R130, R277). -/
def SecondOfPair (s t : State) (wid i : Nat) : Prop :=
  ∃ a b, s.peek wid i = some a ∧ t.peek wid i = some b ∧ s.atSecond wid i = false ∧ t.atSecond wid i = true ∧ legalPair a b = true

/-- Core `c` issues next, from the state `u`: its turn is the first that is not withheld, or there is no such turn. -/
def IssuesNext (s u : State) (c : Nat) : Prop :=
  (∃ rest, s.nextTurn s.agenda = some (.issue c, rest) ∧ u = { s with agenda := rest }) ∨
  (s.nextTurn s.agenda = none ∧ s.nextCore = some c ∧ u = { s with rotor := c + 1 })

/-- A step runs the decoded instruction (R103, R127, R130, R262, R263). When core `c` issues, the first of its warps that is ready issues
its path: the word at the path's PC, decoded, is executed, then the second word of a legal pair; the core's cycle count goes up and what
follows at once happens (`settle`). An event of the agenda is executed alone; a remote abandon is taken on the warp's next path to issue
(R218). -/
def Obligations.StepRunsTheDecodedInstruction : Prop :=
  (∀ (s u t : State) (c wid i : Nat) (w : Warp) (many : Bool) (before after : List (Nat × Warp)),
    IssuesNext s u c → u.candidates c = before ++ (wid, w) :: after →
    (∀ e ∈ before, u.boundary e.1 e.2 = none ∧ u.choosePath e.1 e.2 = none) →
    u.boundary wid w = none → u.choosePath wid w = some (i, many) →
    let n := u.noteIssue wid w i many
    RunsItsWord n wid i t →
    (¬ SecondOfPair n t wid i → step s = .next (s.settle (t.addCyc c 1))) ∧
    (∀ t', SecondOfPair n t wid i → RunsItsWord t wid i t' → step s = .next (s.settle (t'.addCyc c 1)))) ∧
  (∀ (s t : State) (i : Instr) (rest : List Turn), s.nextTurn s.agenda = some (.event i, rest) → exec i ({ s with agenda := rest }.forEvent i) = .next t →
    step s = .next (s.settle t)) ∧
  (∀ (s t : State) (src : PktSrc) (i : Instr) (rest : List Turn), s.nextTurn s.agenda = some (.packet src i, rest) →
    exec i { s with agenda := rest, fabric := { s.fabric with arriving := some src } } = .next t → step s = .next (s.settle t)) ∧
  (∀ s : State, s.nextTurn s.agenda = none → s.nextCore = none → step s = .next s)

/-! ### Two rules in their own words -/

/-- NOP and SLI (R284). NOP has no effect, whatever its guard, and is class S, which pairs with V, M and A. SLI writes the second word to sD;
a type other than b64 is an illegal encoding; every second word is the value, none is decoded. -/
def Obligations.NopAndSli : Prop :=
  (∀ (s : State) (x : Ictx) (g : Guard), Issues s x → GoesOn (exec (.nop g) s) x) ∧
  (∀ (g : Guard) (w : Word), encode (.nop g) = [w] → pairClass (Raw.ofWords w 0) = .s) ∧
  (PairClass.pairs .s .v = true ∧ PairClass.pairs .s .m = true ∧ PairClass.pairs .s .a = true) ∧
  (∀ (s : State) (x : Ictx) (g : Guard) (d : Nat) (k : Word), Issues s x → x.any g = true → WritesScalar (exec (.sli g d k) s) x d k) ∧
  (∀ (g : Guard) (d : Nat) (k : Word), g.wf = true → d < 64 →
    ∃ w, encode (.sli g d k) = [w, k] ∧ ∀ k', (decode w k').instr = .sli g d k' ∧ (decode w k').words = 2) ∧
  (∀ w0 w1 : Word, w0.extractLsb' 54 8 = (0x02 : BitVec 8) → w0.extractLsb' 62 2 = (2 : BitVec 2) → w0.extractLsb' 10 4 ≠ (0 : BitVec 4) →
    ∃ sub p, (decode w0 w1).instr = .illegalInstruction sub p)

/-- VSEL (R306): in each lane that takes part vD becomes a where pC holds and b otherwise, all 64 bits; no other lane and no other register
changes; the type matters only for constants; p7 always holds.
The rule's own word decodes to its line. -/
def Obligations.VselSelects : Prop :=
  decodeWords [0x0A78020201812C00] = some (.vsel .always .f32 1 (.v 2) (.v 3) 4) ∧
  ∀ (s : State) (x : Ictx) (g : Guard) (t t' : Ty) (d p : Nat) (a b : Operand), VecFrame s x d [a, b] →
    WritesLanes (exec (.vsel g t d a b p) s) x d (x.lanes g) (fun l => if Mask.has (x.w.pred p) l = true then x.src t l a else x.src t l b) ∧
    ((∀ o ∈ [a, b], (∃ n, o = .v n ∨ o = .s n) ∨ ∃ r, o = .spec r) → exec (.vsel g t d a b p) s = exec (.vsel g t' d a b p) s) ∧
    (p = 7 → WritesLanes (exec (.vsel g t d a b p) s) x d (x.lanes g) (fun l => x.src t l a))
end

