-- ==== Sys2Proof/Laws/State.lean ====
section
/-! SUPPORT. What each update of the state and of a warp leaves alone, field by field. -/

namespace Sys2Proof.Machine


/-! ### State.setSlot -/

@[simp] theorem State.setSlot_power (s : State) (v : Nat) (x : Slot) : (s.setSlot v x).power = s.power := rfl
@[simp] theorem State.setSlot_links (s : State) (v : Nat) (x : Slot) : (s.setSlot v x).links = s.links := rfl
@[simp] theorem State.setSlot_fabric (s : State) (v : Nat) (x : Slot) : (s.setSlot v x).fabric = s.fabric := rfl
@[simp] theorem State.setSlot_tables (s : State) (v : Nat) (x : Slot) : (s.setSlot v x).tables = s.tables := rfl
@[simp] theorem State.setSlot_evq (s : State) (v : Nat) (x : Slot) : (s.setSlot v x).evq = s.evq := rfl
@[simp] theorem State.setSlot_host (s : State) (v : Nat) (x : Slot) : (s.setSlot v x).host = s.host := rfl
@[simp] theorem State.setSlot_spdm (s : State) (v : Nat) (x : Slot) : (s.setSlot v x).spdm = s.spdm := rfl
@[simp] theorem State.setSlot_gens (s : State) (v : Nat) (x : Slot) : (s.setSlot v x).gens = s.gens := rfl
@[simp] theorem State.setSlot_hbm (s : State) (v : Nat) (x : Slot) : (s.setSlot v x).hbm = s.hbm := rfl
@[simp] theorem State.setSlot_hostMem (s : State) (v : Nat) (x : Slot) : (s.setSlot v x).hostMem = s.hostMem := rfl
@[simp] theorem State.setSlot_dies (s : State) (v : Nat) (x : Slot) : (s.setSlot v x).dies = s.dies := rfl
@[simp] theorem State.setSlot_work (s : State) (v : Nat) (x : Slot) : (s.setSlot v x).work = s.work := rfl
@[simp] theorem State.setSlot_signals (s : State) (v : Nat) (x : Slot) : (s.setSlot v x).signals = s.signals := rfl
@[simp] theorem State.setSlot_now (s : State) (v : Nat) (x : Slot) : (s.setSlot v x).now = s.now := rfl
@[simp] theorem State.setSlot_agenda (s : State) (v : Nat) (x : Slot) : (s.setSlot v x).agenda = s.agenda := rfl
@[simp] theorem State.setSlot_cur (s : State) (v : Nat) (x : Slot) : (s.setSlot v x).cur = s.cur := rfl
@[simp] theorem State.setSlot_rotor (s : State) (v : Nat) (x : Slot) : (s.setSlot v x).rotor = s.rotor := rfl
@[simp] theorem State.setSlot_free (s : State) (v : Nat) (x : Slot) : (s.setSlot v x).free = s.free := rfl

/-! ### State.modSlot -/

@[simp] theorem State.modSlot_power (s : State) (v : Nat) (f : Slot → Slot) : (s.modSlot v f).power = s.power := rfl
@[simp] theorem State.modSlot_links (s : State) (v : Nat) (f : Slot → Slot) : (s.modSlot v f).links = s.links := rfl
@[simp] theorem State.modSlot_fabric (s : State) (v : Nat) (f : Slot → Slot) : (s.modSlot v f).fabric = s.fabric := rfl
@[simp] theorem State.modSlot_tables (s : State) (v : Nat) (f : Slot → Slot) : (s.modSlot v f).tables = s.tables := rfl
@[simp] theorem State.modSlot_evq (s : State) (v : Nat) (f : Slot → Slot) : (s.modSlot v f).evq = s.evq := rfl
@[simp] theorem State.modSlot_host (s : State) (v : Nat) (f : Slot → Slot) : (s.modSlot v f).host = s.host := rfl
@[simp] theorem State.modSlot_spdm (s : State) (v : Nat) (f : Slot → Slot) : (s.modSlot v f).spdm = s.spdm := rfl
@[simp] theorem State.modSlot_gens (s : State) (v : Nat) (f : Slot → Slot) : (s.modSlot v f).gens = s.gens := rfl
@[simp] theorem State.modSlot_hbm (s : State) (v : Nat) (f : Slot → Slot) : (s.modSlot v f).hbm = s.hbm := rfl
@[simp] theorem State.modSlot_hostMem (s : State) (v : Nat) (f : Slot → Slot) : (s.modSlot v f).hostMem = s.hostMem := rfl
@[simp] theorem State.modSlot_dies (s : State) (v : Nat) (f : Slot → Slot) : (s.modSlot v f).dies = s.dies := rfl
@[simp] theorem State.modSlot_work (s : State) (v : Nat) (f : Slot → Slot) : (s.modSlot v f).work = s.work := rfl
@[simp] theorem State.modSlot_signals (s : State) (v : Nat) (f : Slot → Slot) : (s.modSlot v f).signals = s.signals := rfl
@[simp] theorem State.modSlot_now (s : State) (v : Nat) (f : Slot → Slot) : (s.modSlot v f).now = s.now := rfl
@[simp] theorem State.modSlot_agenda (s : State) (v : Nat) (f : Slot → Slot) : (s.modSlot v f).agenda = s.agenda := rfl
@[simp] theorem State.modSlot_cur (s : State) (v : Nat) (f : Slot → Slot) : (s.modSlot v f).cur = s.cur := rfl
@[simp] theorem State.modSlot_rotor (s : State) (v : Nat) (f : Slot → Slot) : (s.modSlot v f).rotor = s.rotor := rfl
@[simp] theorem State.modSlot_free (s : State) (v : Nat) (f : Slot → Slot) : (s.modSlot v f).free = s.free := rfl

/-! ### State.setWarp -/

@[simp] theorem State.setWarp_power (s : State) (w : Nat) (x : Warp) : (s.setWarp w x).power = s.power := rfl
@[simp] theorem State.setWarp_links (s : State) (w : Nat) (x : Warp) : (s.setWarp w x).links = s.links := rfl
@[simp] theorem State.setWarp_fabric (s : State) (w : Nat) (x : Warp) : (s.setWarp w x).fabric = s.fabric := rfl
@[simp] theorem State.setWarp_tables (s : State) (w : Nat) (x : Warp) : (s.setWarp w x).tables = s.tables := rfl
@[simp] theorem State.setWarp_evq (s : State) (w : Nat) (x : Warp) : (s.setWarp w x).evq = s.evq := rfl
@[simp] theorem State.setWarp_host (s : State) (w : Nat) (x : Warp) : (s.setWarp w x).host = s.host := rfl
@[simp] theorem State.setWarp_spdm (s : State) (w : Nat) (x : Warp) : (s.setWarp w x).spdm = s.spdm := rfl
@[simp] theorem State.setWarp_slots (s : State) (w : Nat) (x : Warp) : (s.setWarp w x).slots = s.slots := rfl
@[simp] theorem State.setWarp_gens (s : State) (w : Nat) (x : Warp) : (s.setWarp w x).gens = s.gens := rfl
@[simp] theorem State.setWarp_hbm (s : State) (w : Nat) (x : Warp) : (s.setWarp w x).hbm = s.hbm := rfl
@[simp] theorem State.setWarp_hostMem (s : State) (w : Nat) (x : Warp) : (s.setWarp w x).hostMem = s.hostMem := rfl
@[simp] theorem State.setWarp_dies (s : State) (w : Nat) (x : Warp) : (s.setWarp w x).dies = s.dies := rfl
@[simp] theorem State.setWarp_signals (s : State) (w : Nat) (x : Warp) : (s.setWarp w x).signals = s.signals := rfl
@[simp] theorem State.setWarp_now (s : State) (w : Nat) (x : Warp) : (s.setWarp w x).now = s.now := rfl
@[simp] theorem State.setWarp_agenda (s : State) (w : Nat) (x : Warp) : (s.setWarp w x).agenda = s.agenda := rfl
@[simp] theorem State.setWarp_cur (s : State) (w : Nat) (x : Warp) : (s.setWarp w x).cur = s.cur := rfl
@[simp] theorem State.setWarp_rotor (s : State) (w : Nat) (x : Warp) : (s.setWarp w x).rotor = s.rotor := rfl
@[simp] theorem State.setWarp_free (s : State) (w : Nat) (x : Warp) : (s.setWarp w x).free = s.free := rfl

/-! ### State.modWarp -/

@[simp] theorem State.modWarp_power (s : State) (w : Nat) (f : Warp → Warp) : (s.modWarp w f).power = s.power := by unfold State.modWarp; split <;> rfl
@[simp] theorem State.modWarp_links (s : State) (w : Nat) (f : Warp → Warp) : (s.modWarp w f).links = s.links := by unfold State.modWarp; split <;> rfl
@[simp] theorem State.modWarp_fabric (s : State) (w : Nat) (f : Warp → Warp) : (s.modWarp w f).fabric = s.fabric := by unfold State.modWarp; split <;> rfl
@[simp] theorem State.modWarp_tables (s : State) (w : Nat) (f : Warp → Warp) : (s.modWarp w f).tables = s.tables := by unfold State.modWarp; split <;> rfl
@[simp] theorem State.modWarp_evq (s : State) (w : Nat) (f : Warp → Warp) : (s.modWarp w f).evq = s.evq := by unfold State.modWarp; split <;> rfl
@[simp] theorem State.modWarp_host (s : State) (w : Nat) (f : Warp → Warp) : (s.modWarp w f).host = s.host := by unfold State.modWarp; split <;> rfl
@[simp] theorem State.modWarp_spdm (s : State) (w : Nat) (f : Warp → Warp) : (s.modWarp w f).spdm = s.spdm := by unfold State.modWarp; split <;> rfl
@[simp] theorem State.modWarp_slots (s : State) (w : Nat) (f : Warp → Warp) : (s.modWarp w f).slots = s.slots := by unfold State.modWarp; split <;> rfl
@[simp] theorem State.modWarp_gens (s : State) (w : Nat) (f : Warp → Warp) : (s.modWarp w f).gens = s.gens := by unfold State.modWarp; split <;> rfl
@[simp] theorem State.modWarp_hbm (s : State) (w : Nat) (f : Warp → Warp) : (s.modWarp w f).hbm = s.hbm := by unfold State.modWarp; split <;> rfl
@[simp] theorem State.modWarp_hostMem (s : State) (w : Nat) (f : Warp → Warp) : (s.modWarp w f).hostMem = s.hostMem := by unfold State.modWarp; split <;> rfl
@[simp] theorem State.modWarp_dies (s : State) (w : Nat) (f : Warp → Warp) : (s.modWarp w f).dies = s.dies := by unfold State.modWarp; split <;> rfl
@[simp] theorem State.modWarp_signals (s : State) (w : Nat) (f : Warp → Warp) : (s.modWarp w f).signals = s.signals := by unfold State.modWarp; split <;> rfl
@[simp] theorem State.modWarp_now (s : State) (w : Nat) (f : Warp → Warp) : (s.modWarp w f).now = s.now := by unfold State.modWarp; split <;> rfl
@[simp] theorem State.modWarp_agenda (s : State) (w : Nat) (f : Warp → Warp) : (s.modWarp w f).agenda = s.agenda := by unfold State.modWarp; split <;> rfl
@[simp] theorem State.modWarp_cur (s : State) (w : Nat) (f : Warp → Warp) : (s.modWarp w f).cur = s.cur := by unfold State.modWarp; split <;> rfl
@[simp] theorem State.modWarp_rotor (s : State) (w : Nat) (f : Warp → Warp) : (s.modWarp w f).rotor = s.rotor := by unfold State.modWarp; split <;> rfl
@[simp] theorem State.modWarp_free (s : State) (w : Nat) (f : Warp → Warp) : (s.modWarp w f).free = s.free := by unfold State.modWarp; split <;> rfl

/-! ### State.dropWarp -/

@[simp] theorem State.dropWarp_power (s : State) (w : Nat) : (s.dropWarp w).power = s.power := rfl
@[simp] theorem State.dropWarp_links (s : State) (w : Nat) : (s.dropWarp w).links = s.links := rfl
@[simp] theorem State.dropWarp_fabric (s : State) (w : Nat) : (s.dropWarp w).fabric = s.fabric := rfl
@[simp] theorem State.dropWarp_tables (s : State) (w : Nat) : (s.dropWarp w).tables = s.tables := rfl
@[simp] theorem State.dropWarp_evq (s : State) (w : Nat) : (s.dropWarp w).evq = s.evq := rfl
@[simp] theorem State.dropWarp_host (s : State) (w : Nat) : (s.dropWarp w).host = s.host := rfl
@[simp] theorem State.dropWarp_spdm (s : State) (w : Nat) : (s.dropWarp w).spdm = s.spdm := rfl
@[simp] theorem State.dropWarp_slots (s : State) (w : Nat) : (s.dropWarp w).slots = s.slots := rfl
@[simp] theorem State.dropWarp_gens (s : State) (w : Nat) : (s.dropWarp w).gens = s.gens := rfl
@[simp] theorem State.dropWarp_hbm (s : State) (w : Nat) : (s.dropWarp w).hbm = s.hbm := rfl
@[simp] theorem State.dropWarp_hostMem (s : State) (w : Nat) : (s.dropWarp w).hostMem = s.hostMem := rfl
@[simp] theorem State.dropWarp_dies (s : State) (w : Nat) : (s.dropWarp w).dies = s.dies := rfl
@[simp] theorem State.dropWarp_signals (s : State) (w : Nat) : (s.dropWarp w).signals = s.signals := rfl
@[simp] theorem State.dropWarp_now (s : State) (w : Nat) : (s.dropWarp w).now = s.now := rfl
@[simp] theorem State.dropWarp_agenda (s : State) (w : Nat) : (s.dropWarp w).agenda = s.agenda := rfl
@[simp] theorem State.dropWarp_cur (s : State) (w : Nat) : (s.dropWarp w).cur = s.cur := rfl
@[simp] theorem State.dropWarp_rotor (s : State) (w : Nat) : (s.dropWarp w).rotor = s.rotor := rfl
@[simp] theorem State.dropWarp_free (s : State) (w : Nat) : (s.dropWarp w).free = s.free := rfl

/-! ### State.setGang -/

@[simp] theorem State.setGang_power (s : State) (g : Nat) (x : Gang) : (s.setGang g x).power = s.power := rfl
@[simp] theorem State.setGang_links (s : State) (g : Nat) (x : Gang) : (s.setGang g x).links = s.links := rfl
@[simp] theorem State.setGang_fabric (s : State) (g : Nat) (x : Gang) : (s.setGang g x).fabric = s.fabric := rfl
@[simp] theorem State.setGang_tables (s : State) (g : Nat) (x : Gang) : (s.setGang g x).tables = s.tables := rfl
@[simp] theorem State.setGang_evq (s : State) (g : Nat) (x : Gang) : (s.setGang g x).evq = s.evq := rfl
@[simp] theorem State.setGang_host (s : State) (g : Nat) (x : Gang) : (s.setGang g x).host = s.host := rfl
@[simp] theorem State.setGang_spdm (s : State) (g : Nat) (x : Gang) : (s.setGang g x).spdm = s.spdm := rfl
@[simp] theorem State.setGang_slots (s : State) (g : Nat) (x : Gang) : (s.setGang g x).slots = s.slots := rfl
@[simp] theorem State.setGang_gens (s : State) (g : Nat) (x : Gang) : (s.setGang g x).gens = s.gens := rfl
@[simp] theorem State.setGang_hbm (s : State) (g : Nat) (x : Gang) : (s.setGang g x).hbm = s.hbm := rfl
@[simp] theorem State.setGang_hostMem (s : State) (g : Nat) (x : Gang) : (s.setGang g x).hostMem = s.hostMem := rfl
@[simp] theorem State.setGang_dies (s : State) (g : Nat) (x : Gang) : (s.setGang g x).dies = s.dies := rfl
@[simp] theorem State.setGang_signals (s : State) (g : Nat) (x : Gang) : (s.setGang g x).signals = s.signals := rfl
@[simp] theorem State.setGang_now (s : State) (g : Nat) (x : Gang) : (s.setGang g x).now = s.now := rfl
@[simp] theorem State.setGang_agenda (s : State) (g : Nat) (x : Gang) : (s.setGang g x).agenda = s.agenda := rfl
@[simp] theorem State.setGang_cur (s : State) (g : Nat) (x : Gang) : (s.setGang g x).cur = s.cur := rfl
@[simp] theorem State.setGang_rotor (s : State) (g : Nat) (x : Gang) : (s.setGang g x).rotor = s.rotor := rfl
@[simp] theorem State.setGang_free (s : State) (g : Nat) (x : Gang) : (s.setGang g x).free = s.free := rfl

/-! ### State.modGang -/

@[simp] theorem State.modGang_power (s : State) (g : Nat) (f : Gang → Gang) : (s.modGang g f).power = s.power := by unfold State.modGang; split <;> rfl
@[simp] theorem State.modGang_links (s : State) (g : Nat) (f : Gang → Gang) : (s.modGang g f).links = s.links := by unfold State.modGang; split <;> rfl
@[simp] theorem State.modGang_fabric (s : State) (g : Nat) (f : Gang → Gang) : (s.modGang g f).fabric = s.fabric := by unfold State.modGang; split <;> rfl
@[simp] theorem State.modGang_tables (s : State) (g : Nat) (f : Gang → Gang) : (s.modGang g f).tables = s.tables := by unfold State.modGang; split <;> rfl
@[simp] theorem State.modGang_evq (s : State) (g : Nat) (f : Gang → Gang) : (s.modGang g f).evq = s.evq := by unfold State.modGang; split <;> rfl
@[simp] theorem State.modGang_host (s : State) (g : Nat) (f : Gang → Gang) : (s.modGang g f).host = s.host := by unfold State.modGang; split <;> rfl
@[simp] theorem State.modGang_spdm (s : State) (g : Nat) (f : Gang → Gang) : (s.modGang g f).spdm = s.spdm := by unfold State.modGang; split <;> rfl
@[simp] theorem State.modGang_slots (s : State) (g : Nat) (f : Gang → Gang) : (s.modGang g f).slots = s.slots := by unfold State.modGang; split <;> rfl
@[simp] theorem State.modGang_gens (s : State) (g : Nat) (f : Gang → Gang) : (s.modGang g f).gens = s.gens := by unfold State.modGang; split <;> rfl
@[simp] theorem State.modGang_hbm (s : State) (g : Nat) (f : Gang → Gang) : (s.modGang g f).hbm = s.hbm := by unfold State.modGang; split <;> rfl
@[simp] theorem State.modGang_hostMem (s : State) (g : Nat) (f : Gang → Gang) : (s.modGang g f).hostMem = s.hostMem := by unfold State.modGang; split <;> rfl
@[simp] theorem State.modGang_dies (s : State) (g : Nat) (f : Gang → Gang) : (s.modGang g f).dies = s.dies := by unfold State.modGang; split <;> rfl
@[simp] theorem State.modGang_signals (s : State) (g : Nat) (f : Gang → Gang) : (s.modGang g f).signals = s.signals := by unfold State.modGang; split <;> rfl
@[simp] theorem State.modGang_now (s : State) (g : Nat) (f : Gang → Gang) : (s.modGang g f).now = s.now := by unfold State.modGang; split <;> rfl
@[simp] theorem State.modGang_agenda (s : State) (g : Nat) (f : Gang → Gang) : (s.modGang g f).agenda = s.agenda := by unfold State.modGang; split <;> rfl
@[simp] theorem State.modGang_cur (s : State) (g : Nat) (f : Gang → Gang) : (s.modGang g f).cur = s.cur := by unfold State.modGang; split <;> rfl
@[simp] theorem State.modGang_rotor (s : State) (g : Nat) (f : Gang → Gang) : (s.modGang g f).rotor = s.rotor := by unfold State.modGang; split <;> rfl
@[simp] theorem State.modGang_free (s : State) (g : Nat) (f : Gang → Gang) : (s.modGang g f).free = s.free := by unfold State.modGang; split <;> rfl

/-! ### State.modWork -/

@[simp] theorem State.modWork_power (s : State) (f : Work → Work) : (s.modWork f).power = s.power := rfl
@[simp] theorem State.modWork_links (s : State) (f : Work → Work) : (s.modWork f).links = s.links := rfl
@[simp] theorem State.modWork_fabric (s : State) (f : Work → Work) : (s.modWork f).fabric = s.fabric := rfl
@[simp] theorem State.modWork_tables (s : State) (f : Work → Work) : (s.modWork f).tables = s.tables := rfl
@[simp] theorem State.modWork_evq (s : State) (f : Work → Work) : (s.modWork f).evq = s.evq := rfl
@[simp] theorem State.modWork_host (s : State) (f : Work → Work) : (s.modWork f).host = s.host := rfl
@[simp] theorem State.modWork_spdm (s : State) (f : Work → Work) : (s.modWork f).spdm = s.spdm := rfl
@[simp] theorem State.modWork_slots (s : State) (f : Work → Work) : (s.modWork f).slots = s.slots := rfl
@[simp] theorem State.modWork_gens (s : State) (f : Work → Work) : (s.modWork f).gens = s.gens := rfl
@[simp] theorem State.modWork_hbm (s : State) (f : Work → Work) : (s.modWork f).hbm = s.hbm := rfl
@[simp] theorem State.modWork_hostMem (s : State) (f : Work → Work) : (s.modWork f).hostMem = s.hostMem := rfl
@[simp] theorem State.modWork_dies (s : State) (f : Work → Work) : (s.modWork f).dies = s.dies := rfl
@[simp] theorem State.modWork_signals (s : State) (f : Work → Work) : (s.modWork f).signals = s.signals := rfl
@[simp] theorem State.modWork_now (s : State) (f : Work → Work) : (s.modWork f).now = s.now := rfl
@[simp] theorem State.modWork_agenda (s : State) (f : Work → Work) : (s.modWork f).agenda = s.agenda := rfl
@[simp] theorem State.modWork_cur (s : State) (f : Work → Work) : (s.modWork f).cur = s.cur := rfl
@[simp] theorem State.modWork_rotor (s : State) (f : Work → Work) : (s.modWork f).rotor = s.rotor := rfl
@[simp] theorem State.modWork_free (s : State) (f : Work → Work) : (s.modWork f).free = s.free := rfl

/-! ### State.modFabric -/

@[simp] theorem State.modFabric_power (s : State) (f : Fabric → Fabric) : (s.modFabric f).power = s.power := rfl
@[simp] theorem State.modFabric_links (s : State) (f : Fabric → Fabric) : (s.modFabric f).links = s.links := rfl
@[simp] theorem State.modFabric_tables (s : State) (f : Fabric → Fabric) : (s.modFabric f).tables = s.tables := rfl
@[simp] theorem State.modFabric_evq (s : State) (f : Fabric → Fabric) : (s.modFabric f).evq = s.evq := rfl
@[simp] theorem State.modFabric_host (s : State) (f : Fabric → Fabric) : (s.modFabric f).host = s.host := rfl
@[simp] theorem State.modFabric_spdm (s : State) (f : Fabric → Fabric) : (s.modFabric f).spdm = s.spdm := rfl
@[simp] theorem State.modFabric_slots (s : State) (f : Fabric → Fabric) : (s.modFabric f).slots = s.slots := rfl
@[simp] theorem State.modFabric_gens (s : State) (f : Fabric → Fabric) : (s.modFabric f).gens = s.gens := rfl
@[simp] theorem State.modFabric_hbm (s : State) (f : Fabric → Fabric) : (s.modFabric f).hbm = s.hbm := rfl
@[simp] theorem State.modFabric_hostMem (s : State) (f : Fabric → Fabric) : (s.modFabric f).hostMem = s.hostMem := rfl
@[simp] theorem State.modFabric_dies (s : State) (f : Fabric → Fabric) : (s.modFabric f).dies = s.dies := rfl
@[simp] theorem State.modFabric_work (s : State) (f : Fabric → Fabric) : (s.modFabric f).work = s.work := rfl
@[simp] theorem State.modFabric_signals (s : State) (f : Fabric → Fabric) : (s.modFabric f).signals = s.signals := rfl
@[simp] theorem State.modFabric_now (s : State) (f : Fabric → Fabric) : (s.modFabric f).now = s.now := rfl
@[simp] theorem State.modFabric_agenda (s : State) (f : Fabric → Fabric) : (s.modFabric f).agenda = s.agenda := rfl
@[simp] theorem State.modFabric_cur (s : State) (f : Fabric → Fabric) : (s.modFabric f).cur = s.cur := rfl
@[simp] theorem State.modFabric_rotor (s : State) (f : Fabric → Fabric) : (s.modFabric f).rotor = s.rotor := rfl
@[simp] theorem State.modFabric_free (s : State) (f : Fabric → Fabric) : (s.modFabric f).free = s.free := rfl

/-! ### State.modDies -/

@[simp] theorem State.modDies_power (s : State) (f : Dies → Dies) : (s.modDies f).power = s.power := rfl
@[simp] theorem State.modDies_links (s : State) (f : Dies → Dies) : (s.modDies f).links = s.links := rfl
@[simp] theorem State.modDies_fabric (s : State) (f : Dies → Dies) : (s.modDies f).fabric = s.fabric := rfl
@[simp] theorem State.modDies_tables (s : State) (f : Dies → Dies) : (s.modDies f).tables = s.tables := rfl
@[simp] theorem State.modDies_evq (s : State) (f : Dies → Dies) : (s.modDies f).evq = s.evq := rfl
@[simp] theorem State.modDies_host (s : State) (f : Dies → Dies) : (s.modDies f).host = s.host := rfl
@[simp] theorem State.modDies_spdm (s : State) (f : Dies → Dies) : (s.modDies f).spdm = s.spdm := rfl
@[simp] theorem State.modDies_slots (s : State) (f : Dies → Dies) : (s.modDies f).slots = s.slots := rfl
@[simp] theorem State.modDies_gens (s : State) (f : Dies → Dies) : (s.modDies f).gens = s.gens := rfl
@[simp] theorem State.modDies_hbm (s : State) (f : Dies → Dies) : (s.modDies f).hbm = s.hbm := rfl
@[simp] theorem State.modDies_hostMem (s : State) (f : Dies → Dies) : (s.modDies f).hostMem = s.hostMem := rfl
@[simp] theorem State.modDies_work (s : State) (f : Dies → Dies) : (s.modDies f).work = s.work := rfl
@[simp] theorem State.modDies_signals (s : State) (f : Dies → Dies) : (s.modDies f).signals = s.signals := rfl
@[simp] theorem State.modDies_now (s : State) (f : Dies → Dies) : (s.modDies f).now = s.now := rfl
@[simp] theorem State.modDies_agenda (s : State) (f : Dies → Dies) : (s.modDies f).agenda = s.agenda := rfl
@[simp] theorem State.modDies_cur (s : State) (f : Dies → Dies) : (s.modDies f).cur = s.cur := rfl
@[simp] theorem State.modDies_rotor (s : State) (f : Dies → Dies) : (s.modDies f).rotor = s.rotor := rfl
@[simp] theorem State.modDies_free (s : State) (f : Dies → Dies) : (s.modDies f).free = s.free := rfl

/-! ### State.modPower -/

@[simp] theorem State.modPower_links (s : State) (f : Power → Power) : (s.modPower f).links = s.links := rfl
@[simp] theorem State.modPower_fabric (s : State) (f : Power → Power) : (s.modPower f).fabric = s.fabric := rfl
@[simp] theorem State.modPower_tables (s : State) (f : Power → Power) : (s.modPower f).tables = s.tables := rfl
@[simp] theorem State.modPower_evq (s : State) (f : Power → Power) : (s.modPower f).evq = s.evq := rfl
@[simp] theorem State.modPower_host (s : State) (f : Power → Power) : (s.modPower f).host = s.host := rfl
@[simp] theorem State.modPower_spdm (s : State) (f : Power → Power) : (s.modPower f).spdm = s.spdm := rfl
@[simp] theorem State.modPower_slots (s : State) (f : Power → Power) : (s.modPower f).slots = s.slots := rfl
@[simp] theorem State.modPower_gens (s : State) (f : Power → Power) : (s.modPower f).gens = s.gens := rfl
@[simp] theorem State.modPower_hbm (s : State) (f : Power → Power) : (s.modPower f).hbm = s.hbm := rfl
@[simp] theorem State.modPower_hostMem (s : State) (f : Power → Power) : (s.modPower f).hostMem = s.hostMem := rfl
@[simp] theorem State.modPower_dies (s : State) (f : Power → Power) : (s.modPower f).dies = s.dies := rfl
@[simp] theorem State.modPower_work (s : State) (f : Power → Power) : (s.modPower f).work = s.work := rfl
@[simp] theorem State.modPower_signals (s : State) (f : Power → Power) : (s.modPower f).signals = s.signals := rfl
@[simp] theorem State.modPower_now (s : State) (f : Power → Power) : (s.modPower f).now = s.now := rfl
@[simp] theorem State.modPower_agenda (s : State) (f : Power → Power) : (s.modPower f).agenda = s.agenda := rfl
@[simp] theorem State.modPower_cur (s : State) (f : Power → Power) : (s.modPower f).cur = s.cur := rfl
@[simp] theorem State.modPower_rotor (s : State) (f : Power → Power) : (s.modPower f).rotor = s.rotor := rfl
@[simp] theorem State.modPower_free (s : State) (f : Power → Power) : (s.modPower f).free = s.free := rfl

/-! ### State.signal -/

@[simp] theorem State.signal_power (s : State) (x : Signal) : (s.signal x).power = s.power := rfl
@[simp] theorem State.signal_links (s : State) (x : Signal) : (s.signal x).links = s.links := rfl
@[simp] theorem State.signal_fabric (s : State) (x : Signal) : (s.signal x).fabric = s.fabric := rfl
@[simp] theorem State.signal_tables (s : State) (x : Signal) : (s.signal x).tables = s.tables := rfl
@[simp] theorem State.signal_evq (s : State) (x : Signal) : (s.signal x).evq = s.evq := rfl
@[simp] theorem State.signal_host (s : State) (x : Signal) : (s.signal x).host = s.host := rfl
@[simp] theorem State.signal_spdm (s : State) (x : Signal) : (s.signal x).spdm = s.spdm := rfl
@[simp] theorem State.signal_slots (s : State) (x : Signal) : (s.signal x).slots = s.slots := rfl
@[simp] theorem State.signal_gens (s : State) (x : Signal) : (s.signal x).gens = s.gens := rfl
@[simp] theorem State.signal_hbm (s : State) (x : Signal) : (s.signal x).hbm = s.hbm := rfl
@[simp] theorem State.signal_hostMem (s : State) (x : Signal) : (s.signal x).hostMem = s.hostMem := rfl
@[simp] theorem State.signal_dies (s : State) (x : Signal) : (s.signal x).dies = s.dies := rfl
@[simp] theorem State.signal_work (s : State) (x : Signal) : (s.signal x).work = s.work := rfl
@[simp] theorem State.signal_now (s : State) (x : Signal) : (s.signal x).now = s.now := rfl
@[simp] theorem State.signal_agenda (s : State) (x : Signal) : (s.signal x).agenda = s.agenda := rfl
@[simp] theorem State.signal_cur (s : State) (x : Signal) : (s.signal x).cur = s.cur := rfl
@[simp] theorem State.signal_rotor (s : State) (x : Signal) : (s.signal x).rotor = s.rotor := rfl
@[simp] theorem State.signal_free (s : State) (x : Signal) : (s.signal x).free = s.free := rfl

/-! ### State.addCyc -/

@[simp] theorem State.addCyc_power (s : State) (c n : Nat) : (s.addCyc c n).power = s.power := rfl
@[simp] theorem State.addCyc_links (s : State) (c n : Nat) : (s.addCyc c n).links = s.links := rfl
@[simp] theorem State.addCyc_fabric (s : State) (c n : Nat) : (s.addCyc c n).fabric = s.fabric := rfl
@[simp] theorem State.addCyc_tables (s : State) (c n : Nat) : (s.addCyc c n).tables = s.tables := rfl
@[simp] theorem State.addCyc_evq (s : State) (c n : Nat) : (s.addCyc c n).evq = s.evq := rfl
@[simp] theorem State.addCyc_host (s : State) (c n : Nat) : (s.addCyc c n).host = s.host := rfl
@[simp] theorem State.addCyc_spdm (s : State) (c n : Nat) : (s.addCyc c n).spdm = s.spdm := rfl
@[simp] theorem State.addCyc_slots (s : State) (c n : Nat) : (s.addCyc c n).slots = s.slots := rfl
@[simp] theorem State.addCyc_gens (s : State) (c n : Nat) : (s.addCyc c n).gens = s.gens := rfl
@[simp] theorem State.addCyc_hbm (s : State) (c n : Nat) : (s.addCyc c n).hbm = s.hbm := rfl
@[simp] theorem State.addCyc_hostMem (s : State) (c n : Nat) : (s.addCyc c n).hostMem = s.hostMem := rfl
@[simp] theorem State.addCyc_work (s : State) (c n : Nat) : (s.addCyc c n).work = s.work := rfl
@[simp] theorem State.addCyc_signals (s : State) (c n : Nat) : (s.addCyc c n).signals = s.signals := rfl
@[simp] theorem State.addCyc_now (s : State) (c n : Nat) : (s.addCyc c n).now = s.now := rfl
@[simp] theorem State.addCyc_agenda (s : State) (c n : Nat) : (s.addCyc c n).agenda = s.agenda := rfl
@[simp] theorem State.addCyc_cur (s : State) (c n : Nat) : (s.addCyc c n).cur = s.cur := rfl
@[simp] theorem State.addCyc_rotor (s : State) (c n : Nat) : (s.addCyc c n).rotor = s.rotor := rfl
@[simp] theorem State.addCyc_free (s : State) (c n : Nat) : (s.addCyc c n).free = s.free := rfl

/-! ### Warp.setS -/

@[simp] theorem Warp.setS_id (w : Warp) (n : Nat) (x : Word) : (w.setS n x).id = w.id := rfl
@[simp] theorem Warp.setS_width (w : Warp) (n : Nat) (x : Word) : (w.setS n x).width = w.width := rfl
@[simp] theorem Warp.setS_exited (w : Warp) (n : Nat) (x : Word) : (w.setS n x).exited = w.exited := rfl
@[simp] theorem Warp.setS_paths (w : Warp) (n : Nat) (x : Word) : (w.setS n x).paths = w.paths := rfl
@[simp] theorem Warp.setS_stack (w : Warp) (n : Nat) (x : Word) : (w.setS n x).stack = w.stack := rfl
@[simp] theorem Warp.setS_nseq (w : Warp) (n : Nat) (x : Word) : (w.setS n x).nseq = w.nseq := rfl
@[simp] theorem Warp.setS_shadow (w : Warp) (n : Nat) (x : Word) : (w.setS n x).shadow = w.shadow := rfl
@[simp] theorem Warp.setS_vr (w : Warp) (n : Nat) (x : Word) : (w.setS n x).vr = w.vr := rfl
@[simp] theorem Warp.setS_handles (w : Warp) (n : Nat) (x : Word) : (w.setS n x).handles = w.handles := rfl
@[simp] theorem Warp.setS_cnt (w : Warp) (n : Nat) (x : Word) : (w.setS n x).cnt = w.cnt := rfl
@[simp] theorem Warp.setS_mode (w : Warp) (n : Nat) (x : Word) : (w.setS n x).mode = w.mode := rfl
@[simp] theorem Warp.setS_flags (w : Warp) (n : Nat) (x : Word) : (w.setS n x).flags = w.flags := rfl
@[simp] theorem Warp.setS_trap (w : Warp) (n : Nat) (x : Word) : (w.setS n x).trap = w.trap := rfl
@[simp] theorem Warp.setS_task (w : Warp) (n : Nat) (x : Word) : (w.setS n x).task = w.task := rfl
@[simp] theorem Warp.setS_work (w : Warp) (n : Nat) (x : Word) : (w.setS n x).work = w.work := rfl

/-! ### Warp.setV -/

@[simp] theorem Warp.setV_id (w : Warp) (n l : Nat) (x : Word) : (w.setV n l x).id = w.id := rfl
@[simp] theorem Warp.setV_width (w : Warp) (n l : Nat) (x : Word) : (w.setV n l x).width = w.width := rfl
@[simp] theorem Warp.setV_exited (w : Warp) (n l : Nat) (x : Word) : (w.setV n l x).exited = w.exited := rfl
@[simp] theorem Warp.setV_paths (w : Warp) (n l : Nat) (x : Word) : (w.setV n l x).paths = w.paths := rfl
@[simp] theorem Warp.setV_stack (w : Warp) (n l : Nat) (x : Word) : (w.setV n l x).stack = w.stack := rfl
@[simp] theorem Warp.setV_nseq (w : Warp) (n l : Nat) (x : Word) : (w.setV n l x).nseq = w.nseq := rfl
@[simp] theorem Warp.setV_set (w : Warp) (n l : Nat) (x : Word) : (w.setV n l x).set = w.set := rfl
@[simp] theorem Warp.setV_shadow (w : Warp) (n l : Nat) (x : Word) : (w.setV n l x).shadow = w.shadow := rfl
@[simp] theorem Warp.setV_handles (w : Warp) (n l : Nat) (x : Word) : (w.setV n l x).handles = w.handles := rfl
@[simp] theorem Warp.setV_cnt (w : Warp) (n l : Nat) (x : Word) : (w.setV n l x).cnt = w.cnt := rfl
@[simp] theorem Warp.setV_mode (w : Warp) (n l : Nat) (x : Word) : (w.setV n l x).mode = w.mode := rfl
@[simp] theorem Warp.setV_flags (w : Warp) (n l : Nat) (x : Word) : (w.setV n l x).flags = w.flags := rfl
@[simp] theorem Warp.setV_trap (w : Warp) (n l : Nat) (x : Word) : (w.setV n l x).trap = w.trap := rfl
@[simp] theorem Warp.setV_task (w : Warp) (n l : Nat) (x : Word) : (w.setV n l x).task = w.task := rfl
@[simp] theorem Warp.setV_work (w : Warp) (n l : Nat) (x : Word) : (w.setV n l x).work = w.work := rfl

/-! ### Warp.setP -/

@[simp] theorem Warp.setP_id (w : Warp) (p : Nat) (m : Mask) : (w.setP p m).id = w.id := by unfold Warp.setP; split <;> rfl
@[simp] theorem Warp.setP_width (w : Warp) (p : Nat) (m : Mask) : (w.setP p m).width = w.width := by unfold Warp.setP; split <;> rfl
@[simp] theorem Warp.setP_exited (w : Warp) (p : Nat) (m : Mask) : (w.setP p m).exited = w.exited := by unfold Warp.setP; split <;> rfl
@[simp] theorem Warp.setP_paths (w : Warp) (p : Nat) (m : Mask) : (w.setP p m).paths = w.paths := by unfold Warp.setP; split <;> rfl
@[simp] theorem Warp.setP_stack (w : Warp) (p : Nat) (m : Mask) : (w.setP p m).stack = w.stack := by unfold Warp.setP; split <;> rfl
@[simp] theorem Warp.setP_nseq (w : Warp) (p : Nat) (m : Mask) : (w.setP p m).nseq = w.nseq := by unfold Warp.setP; split <;> rfl
@[simp] theorem Warp.setP_set (w : Warp) (p : Nat) (m : Mask) : (w.setP p m).set = w.set := by unfold Warp.setP; split <;> rfl
@[simp] theorem Warp.setP_shadow (w : Warp) (p : Nat) (m : Mask) : (w.setP p m).shadow = w.shadow := by unfold Warp.setP; split <;> rfl
@[simp] theorem Warp.setP_handles (w : Warp) (p : Nat) (m : Mask) : (w.setP p m).handles = w.handles := by unfold Warp.setP; split <;> rfl
@[simp] theorem Warp.setP_cnt (w : Warp) (p : Nat) (m : Mask) : (w.setP p m).cnt = w.cnt := by unfold Warp.setP; split <;> rfl
@[simp] theorem Warp.setP_mode (w : Warp) (p : Nat) (m : Mask) : (w.setP p m).mode = w.mode := by unfold Warp.setP; split <;> rfl
@[simp] theorem Warp.setP_flags (w : Warp) (p : Nat) (m : Mask) : (w.setP p m).flags = w.flags := by unfold Warp.setP; split <;> rfl
@[simp] theorem Warp.setP_trap (w : Warp) (p : Nat) (m : Mask) : (w.setP p m).trap = w.trap := by unfold Warp.setP; split <;> rfl
@[simp] theorem Warp.setP_task (w : Warp) (p : Nat) (m : Mask) : (w.setP p m).task = w.task := by unfold Warp.setP; split <;> rfl
@[simp] theorem Warp.setP_work (w : Warp) (p : Nat) (m : Mask) : (w.setP p m).work = w.work := by unfold Warp.setP; split <;> rfl

/-! ### Warp.setPath -/

@[simp] theorem Warp.setPath_id (w : Warp) (i : Nat) (p : Option Path) : (w.setPath i p).id = w.id := rfl
@[simp] theorem Warp.setPath_width (w : Warp) (i : Nat) (p : Option Path) : (w.setPath i p).width = w.width := rfl
@[simp] theorem Warp.setPath_exited (w : Warp) (i : Nat) (p : Option Path) : (w.setPath i p).exited = w.exited := rfl
@[simp] theorem Warp.setPath_stack (w : Warp) (i : Nat) (p : Option Path) : (w.setPath i p).stack = w.stack := rfl
@[simp] theorem Warp.setPath_nseq (w : Warp) (i : Nat) (p : Option Path) : (w.setPath i p).nseq = w.nseq := rfl
@[simp] theorem Warp.setPath_set (w : Warp) (i : Nat) (p : Option Path) : (w.setPath i p).set = w.set := rfl
@[simp] theorem Warp.setPath_shadow (w : Warp) (i : Nat) (p : Option Path) : (w.setPath i p).shadow = w.shadow := rfl
@[simp] theorem Warp.setPath_vr (w : Warp) (i : Nat) (p : Option Path) : (w.setPath i p).vr = w.vr := rfl
@[simp] theorem Warp.setPath_handles (w : Warp) (i : Nat) (p : Option Path) : (w.setPath i p).handles = w.handles := rfl
@[simp] theorem Warp.setPath_cnt (w : Warp) (i : Nat) (p : Option Path) : (w.setPath i p).cnt = w.cnt := rfl
@[simp] theorem Warp.setPath_mode (w : Warp) (i : Nat) (p : Option Path) : (w.setPath i p).mode = w.mode := rfl
@[simp] theorem Warp.setPath_flags (w : Warp) (i : Nat) (p : Option Path) : (w.setPath i p).flags = w.flags := rfl
@[simp] theorem Warp.setPath_trap (w : Warp) (i : Nat) (p : Option Path) : (w.setPath i p).trap = w.trap := rfl
@[simp] theorem Warp.setPath_task (w : Warp) (i : Nat) (p : Option Path) : (w.setPath i p).task = w.task := rfl
@[simp] theorem Warp.setPath_work (w : Warp) (i : Nat) (p : Option Path) : (w.setPath i p).work = w.work := rfl

/-! ### Warp.modPath -/

@[simp] theorem Warp.modPath_id (w : Warp) (i : Nat) (f : Path → Path) : (w.modPath i f).id = w.id := rfl
@[simp] theorem Warp.modPath_width (w : Warp) (i : Nat) (f : Path → Path) : (w.modPath i f).width = w.width := rfl
@[simp] theorem Warp.modPath_exited (w : Warp) (i : Nat) (f : Path → Path) : (w.modPath i f).exited = w.exited := rfl
@[simp] theorem Warp.modPath_stack (w : Warp) (i : Nat) (f : Path → Path) : (w.modPath i f).stack = w.stack := rfl
@[simp] theorem Warp.modPath_nseq (w : Warp) (i : Nat) (f : Path → Path) : (w.modPath i f).nseq = w.nseq := rfl
@[simp] theorem Warp.modPath_set (w : Warp) (i : Nat) (f : Path → Path) : (w.modPath i f).set = w.set := rfl
@[simp] theorem Warp.modPath_shadow (w : Warp) (i : Nat) (f : Path → Path) : (w.modPath i f).shadow = w.shadow := rfl
@[simp] theorem Warp.modPath_vr (w : Warp) (i : Nat) (f : Path → Path) : (w.modPath i f).vr = w.vr := rfl
@[simp] theorem Warp.modPath_handles (w : Warp) (i : Nat) (f : Path → Path) : (w.modPath i f).handles = w.handles := rfl
@[simp] theorem Warp.modPath_cnt (w : Warp) (i : Nat) (f : Path → Path) : (w.modPath i f).cnt = w.cnt := rfl
@[simp] theorem Warp.modPath_mode (w : Warp) (i : Nat) (f : Path → Path) : (w.modPath i f).mode = w.mode := rfl
@[simp] theorem Warp.modPath_flags (w : Warp) (i : Nat) (f : Path → Path) : (w.modPath i f).flags = w.flags := rfl
@[simp] theorem Warp.modPath_trap (w : Warp) (i : Nat) (f : Path → Path) : (w.modPath i f).trap = w.trap := rfl
@[simp] theorem Warp.modPath_task (w : Warp) (i : Nat) (f : Path → Path) : (w.modPath i f).task = w.task := rfl
@[simp] theorem Warp.modPath_work (w : Warp) (i : Nat) (f : Path → Path) : (w.modPath i f).work = w.work := rfl

/-! ### Warp.setHandle -/

@[simp] theorem Warp.setHandle_id (w : Warp) (f : Nat) (h : Handle) : (w.setHandle f h).id = w.id := rfl
@[simp] theorem Warp.setHandle_width (w : Warp) (f : Nat) (h : Handle) : (w.setHandle f h).width = w.width := rfl
@[simp] theorem Warp.setHandle_exited (w : Warp) (f : Nat) (h : Handle) : (w.setHandle f h).exited = w.exited := rfl
@[simp] theorem Warp.setHandle_paths (w : Warp) (f : Nat) (h : Handle) : (w.setHandle f h).paths = w.paths := rfl
@[simp] theorem Warp.setHandle_stack (w : Warp) (f : Nat) (h : Handle) : (w.setHandle f h).stack = w.stack := rfl
@[simp] theorem Warp.setHandle_nseq (w : Warp) (f : Nat) (h : Handle) : (w.setHandle f h).nseq = w.nseq := rfl
@[simp] theorem Warp.setHandle_set (w : Warp) (f : Nat) (h : Handle) : (w.setHandle f h).set = w.set := rfl
@[simp] theorem Warp.setHandle_shadow (w : Warp) (f : Nat) (h : Handle) : (w.setHandle f h).shadow = w.shadow := rfl
@[simp] theorem Warp.setHandle_vr (w : Warp) (f : Nat) (h : Handle) : (w.setHandle f h).vr = w.vr := rfl
@[simp] theorem Warp.setHandle_cnt (w : Warp) (f : Nat) (h : Handle) : (w.setHandle f h).cnt = w.cnt := rfl
@[simp] theorem Warp.setHandle_mode (w : Warp) (f : Nat) (h : Handle) : (w.setHandle f h).mode = w.mode := rfl
@[simp] theorem Warp.setHandle_flags (w : Warp) (f : Nat) (h : Handle) : (w.setHandle f h).flags = w.flags := rfl
@[simp] theorem Warp.setHandle_trap (w : Warp) (f : Nat) (h : Handle) : (w.setHandle f h).trap = w.trap := rfl
@[simp] theorem Warp.setHandle_task (w : Warp) (f : Nat) (h : Handle) : (w.setHandle f h).task = w.task := rfl
@[simp] theorem Warp.setHandle_work (w : Warp) (f : Nat) (h : Handle) : (w.setHandle f h).work = w.work := rfl

/-! ### Warp.raise -/

@[simp] theorem Warp.raise_id (w : Warp) (fl : Nat) : (w.raise fl).id = w.id := rfl
@[simp] theorem Warp.raise_width (w : Warp) (fl : Nat) : (w.raise fl).width = w.width := rfl
@[simp] theorem Warp.raise_exited (w : Warp) (fl : Nat) : (w.raise fl).exited = w.exited := rfl
@[simp] theorem Warp.raise_paths (w : Warp) (fl : Nat) : (w.raise fl).paths = w.paths := rfl
@[simp] theorem Warp.raise_stack (w : Warp) (fl : Nat) : (w.raise fl).stack = w.stack := rfl
@[simp] theorem Warp.raise_nseq (w : Warp) (fl : Nat) : (w.raise fl).nseq = w.nseq := rfl
@[simp] theorem Warp.raise_set (w : Warp) (fl : Nat) : (w.raise fl).set = w.set := rfl
@[simp] theorem Warp.raise_shadow (w : Warp) (fl : Nat) : (w.raise fl).shadow = w.shadow := rfl
@[simp] theorem Warp.raise_vr (w : Warp) (fl : Nat) : (w.raise fl).vr = w.vr := rfl
@[simp] theorem Warp.raise_handles (w : Warp) (fl : Nat) : (w.raise fl).handles = w.handles := rfl
@[simp] theorem Warp.raise_cnt (w : Warp) (fl : Nat) : (w.raise fl).cnt = w.cnt := rfl
@[simp] theorem Warp.raise_mode (w : Warp) (fl : Nat) : (w.raise fl).mode = w.mode := rfl
@[simp] theorem Warp.raise_trap (w : Warp) (fl : Nat) : (w.raise fl).trap = w.trap := rfl
@[simp] theorem Warp.raise_task (w : Warp) (fl : Nat) : (w.raise fl).task = w.task := rfl
@[simp] theorem Warp.raise_work (w : Warp) (fl : Nat) : (w.raise fl).work = w.work := rfl

/-! ### Warp.swapBank -/

@[simp] theorem Warp.swapBank_id (w : Warp) : (w.swapBank).id = w.id := rfl
@[simp] theorem Warp.swapBank_width (w : Warp) : (w.swapBank).width = w.width := rfl
@[simp] theorem Warp.swapBank_exited (w : Warp) : (w.swapBank).exited = w.exited := rfl
@[simp] theorem Warp.swapBank_paths (w : Warp) : (w.swapBank).paths = w.paths := rfl
@[simp] theorem Warp.swapBank_stack (w : Warp) : (w.swapBank).stack = w.stack := rfl
@[simp] theorem Warp.swapBank_nseq (w : Warp) : (w.swapBank).nseq = w.nseq := rfl
@[simp] theorem Warp.swapBank_shadow (w : Warp) : (w.swapBank).shadow = w.shadow := rfl
@[simp] theorem Warp.swapBank_vr (w : Warp) : (w.swapBank).vr = w.vr := rfl
@[simp] theorem Warp.swapBank_handles (w : Warp) : (w.swapBank).handles = w.handles := rfl
@[simp] theorem Warp.swapBank_cnt (w : Warp) : (w.swapBank).cnt = w.cnt := rfl
@[simp] theorem Warp.swapBank_mode (w : Warp) : (w.swapBank).mode = w.mode := rfl
@[simp] theorem Warp.swapBank_flags (w : Warp) : (w.swapBank).flags = w.flags := rfl
@[simp] theorem Warp.swapBank_trap (w : Warp) : (w.swapBank).trap = w.trap := rfl
@[simp] theorem Warp.swapBank_task (w : Warp) : (w.swapBank).task = w.task := rfl
@[simp] theorem Warp.swapBank_work (w : Warp) : (w.swapBank).work = w.work := rfl

end Sys2Proof.Machine
end

