-- ==== Sys2Proof/Laws/Engines.lean ====
section
/-! SUPPORT. What the engines' shared operations on memory do in the plain case: nothing early, nothing missed, nothing late. -/

namespace Sys2Proof.Machine

/-- A copy that misses no store reads what stands there (R147). -/
theorem State.copyBytes_of_past_nil (s : State) {c : Copy} (h : c.past = []) (p : Place) (n : Nat) :
    s.copyBytes c p n = (s.readPlace p n, s) := by
  simp [State.copyBytes, h]

/-- A beat without early words and without a barrier is one engine write (R146). -/
theorem State.beatStore_of_early_nil (s : State) {c : Copy} (he : c.early = []) (hb : c.barrier = none) (i : Nat) (p : Place) (bs : List Byte) :
    s.beatStore c i p bs = s.engineStore c.warp (some c.channel) c.f (i + bs.length) p bs := by
  simp [State.beatStore, he, hb]

/-- An engine's write is performed at once unless the warp's writes land late (R190). -/
theorem State.engineStore_now {s : State} {wid : Nat} (h : ∀ w, s.warp? wid = some w → w.work.late = false) (chan : Option Nat) (f n : Nat)
    (p : Place) (bs : List Byte) : s.engineStore wid chan f n p bs = (s.storeAt p bs).cutPast p bs.length := by
  unfold State.engineStore
  split
  · rfl
  · rename_i w hw
    simp [h w hw]

/-- With nothing remembered, a write leaves nothing to forget. -/
theorem State.modPast_of_none {s : State} (h : ∀ e ∈ s.work.warps, e.2.work.past = []) (p : Place) (n : Nat) (f : PastWord → PastWord) :
    s.modPast p n f = s := by
  have : (s.work.warps.all fun e => e.2.work.past.isEmpty) = true := by
    simpa [List.all_eq_true] using fun a b hb => h (a, b) hb
  simp [State.modPast, this]

theorem State.cutPast_of_none {s : State} (h : ∀ e ∈ s.work.warps, e.2.work.past = []) (p : Place) (n : Nat) : s.cutPast p n = s :=
  State.modPast_of_none h p n _

/-- Only an access that is no plain store lands what its path has observed at its issue (R190). -/
theorem State.landFor_plain (s : State) (wid : Nat) (m : Mask) {o : MemOp} (h : o.plainStore = true) : s.landFor wid m o = s := by
  simp [State.landFor, h]

theorem State.landFor_other (s : State) (wid : Nat) (m : Mask) {o : MemOp} (h : o.plainStore = false) :
    s.landFor wid m o = s.landSeen wid m := by
  simp [State.landFor, h]

end Sys2Proof.Machine
end

