-- ==== Sys2Proof/Laws/Mem.lean ====
section
/-! SUPPORT. Sparse tables: reading after writing, and that every operation keeps the canonical form. -/

namespace Sys2Proof.Machine

variable {β : Type}

/-! ### Reading after writing -/

theorem KMap.find?_put_same (m : KMap β) (k : Nat) (v : β) : KMap.find? (KMap.put m k v) k = some v := by
  induction m with
  | nil => simp [KMap.put, KMap.find?]
  | cons e m ih =>
    obtain ⟨a, b⟩ := e
    simp only [KMap.put]
    split
    · simp [KMap.find?]
    · split
      · simp [KMap.find?]
      · rename_i h1 h2
        simp [KMap.find?, h2, h1, ih]

theorem KMap.find?_put_other (m : KMap β) (k j : Nat) (v : β) (h : j ≠ k) :
    KMap.find? (KMap.put m k v) j = KMap.find? m j := by
  induction m with
  | nil =>
    simp only [KMap.put, KMap.find?]
    split
    · omega
    · split <;> rfl
  | cons e m ih =>
    obtain ⟨a, b⟩ := e
    simp only [KMap.put]
    split
    · simp only [KMap.find?]
      split
      · omega
      · split
        · split
          · omega
          · split
            · rfl
            · omega
        · rfl
    · split
      · rename_i e
        subst e
        simp only [KMap.find?, if_neg (Ne.symm h)]
      · simp only [KMap.find?, ih]

/-- Nothing below a lower bound of the keys is listed. -/
theorem KMap.find?_below (m : KMap β) (lo k : Nat) (h : KMap.risingFrom lo m = true) (hk : k < lo) :
    KMap.find? m k = none := by
  cases m with
  | nil => rfl
  | cons e m =>
    obtain ⟨a, b⟩ := e
    simp only [KMap.risingFrom, Bool.and_eq_true, decide_eq_true_eq] at h
    simp only [KMap.find?]
    split
    · omega
    · split
      · rfl
      · omega

theorem KMap.risingFrom_mono (m : KMap β) (lo hi : Nat) (h : KMap.risingFrom hi m = true) (hl : lo ≤ hi) :
    KMap.risingFrom lo m = true := by
  cases m with
  | nil => rfl
  | cons e m =>
    obtain ⟨a, b⟩ := e
    simp only [KMap.risingFrom, Bool.and_eq_true, decide_eq_true_eq] at h ⊢
    exact ⟨by omega, h.2⟩

theorem KMap.find?_erase_same (m : KMap β) (lo k : Nat) (h : KMap.risingFrom lo m = true) :
    KMap.find? (KMap.erase m k) k = none := by
  induction m generalizing lo with
  | nil => rfl
  | cons e m ih =>
    obtain ⟨a, b⟩ := e
    simp only [KMap.risingFrom, Bool.and_eq_true, decide_eq_true_eq] at h
    simp only [KMap.erase]
    split
    · rename_i e
      exact KMap.find?_below m (a + 1) k h.2 (by omega)
    · split
      · simp only [KMap.find?]
        split
        · omega
        · rfl
      · rename_i h1 h2
        simp [KMap.find?, h1, h2, ih (a + 1) h.2]

theorem KMap.find?_erase_other (m : KMap β) (lo k j : Nat) (h : KMap.risingFrom lo m = true) (hj : j ≠ k) :
    KMap.find? (KMap.erase m k) j = KMap.find? m j := by
  induction m generalizing lo with
  | nil => rfl
  | cons e m ih =>
    obtain ⟨a, b⟩ := e
    simp only [KMap.risingFrom, Bool.and_eq_true, decide_eq_true_eq] at h
    simp only [KMap.erase]
    split
    · rename_i e
      simp only [KMap.find?]
      split
      · omega
      · split
        · exact KMap.find?_below m (a + 1) j h.2 (by omega)
        · rfl
    · split
      · rfl
      · simp only [KMap.find?, ih (a + 1) h.2]

/-! ### The canonical form -/

theorem KMap.risingFrom_put (m : KMap β) (lo k : Nat) (v : β) (h : KMap.risingFrom lo m = true) (hk : lo ≤ k) :
    KMap.risingFrom lo (KMap.put m k v) = true := by
  induction m generalizing lo with
  | nil => simp [KMap.put, KMap.risingFrom, hk]
  | cons e m ih =>
    obtain ⟨a, b⟩ := e
    simp only [KMap.risingFrom, Bool.and_eq_true, decide_eq_true_eq] at h
    simp only [KMap.put]
    split
    · simp only [KMap.risingFrom, Bool.and_eq_true, decide_eq_true_eq]
      exact ⟨hk, by omega, h.2⟩
    · split
      · rename_i e
        subst e
        simp only [KMap.risingFrom, Bool.and_eq_true, decide_eq_true_eq]
        exact ⟨hk, h.2⟩
      · simp only [KMap.risingFrom, Bool.and_eq_true, decide_eq_true_eq]
        exact ⟨h.1, ih (a + 1) h.2 (by omega)⟩

theorem KMap.risingFrom_erase (m : KMap β) (lo k : Nat) (h : KMap.risingFrom lo m = true) :
    KMap.risingFrom lo (KMap.erase m k) = true := by
  induction m generalizing lo with
  | nil => rfl
  | cons e m ih =>
    obtain ⟨a, b⟩ := e
    have h' := h
    simp only [KMap.risingFrom, Bool.and_eq_true, decide_eq_true_eq] at h
    simp only [KMap.erase]
    split
    · exact KMap.risingFrom_mono m lo (a + 1) h.2 (by omega)
    · split
      · exact h'
      · simp only [KMap.risingFrom, Bool.and_eq_true, decide_eq_true_eq]
        exact ⟨h.1, ih (a + 1) h.2⟩

theorem KMap.risingFrom_filter (m : KMap β) (lo : Nat) (p : Nat × β → Bool) (h : KMap.risingFrom lo m = true) :
    KMap.risingFrom lo (m.filter p) = true := by
  induction m generalizing lo with
  | nil => rfl
  | cons e m ih =>
    obtain ⟨a, b⟩ := e
    simp only [KMap.risingFrom, Bool.and_eq_true, decide_eq_true_eq] at h
    rw [List.filter_cons]
    split
    · simp only [KMap.risingFrom, Bool.and_eq_true, decide_eq_true_eq]
      exact ⟨h.1, ih (a + 1) h.2⟩
    · exact KMap.risingFrom_mono _ lo (a + 1) (ih (a + 1) h.2) (by omega)

variable [DecidableEq β]

theorem KMap.noDefault_put (m : KMap β) (d v : β) (k : Nat) (h : KMap.noDefault d m = true) (hv : v ≠ d) :
    KMap.noDefault d (KMap.put m k v) = true := by
  induction m with
  | nil => simp [KMap.put, KMap.noDefault, hv]
  | cons e m ih =>
    obtain ⟨a, b⟩ := e
    simp only [KMap.noDefault, List.all_cons, Bool.and_eq_true] at h ih ⊢
    simp only [KMap.put]
    split
    · simp [hv]
      exact ⟨by simpa using h.1, by simpa using h.2⟩
    · split
      · simp [hv]
        simpa using h.2
      · simp only [List.all_cons, Bool.and_eq_true]
        exact ⟨h.1, ih h.2⟩

theorem KMap.noDefault_erase (m : KMap β) (d : β) (k : Nat) (h : KMap.noDefault d m = true) :
    KMap.noDefault d (KMap.erase m k) = true := by
  induction m with
  | nil => rfl
  | cons e m ih =>
    obtain ⟨a, b⟩ := e
    have h' := h
    simp only [KMap.noDefault, List.all_cons, Bool.and_eq_true] at h ih
    simp only [KMap.erase]
    split
    · exact h.2
    · split
      · exact h'
      · simp only [KMap.noDefault, List.all_cons, Bool.and_eq_true]
        exact ⟨h.1, ih h.2⟩

theorem KMap.noDefault_filter (m : KMap β) (d : β) (p : Nat × β → Bool) (h : KMap.noDefault d m = true) :
    KMap.noDefault d (m.filter p) = true := by
  simp only [KMap.noDefault, List.all_eq_true] at h ⊢
  intro e he
  exact h e (List.mem_filter.mp he).1

theorem KMap.get_set_same (m : KMap β) (d v : β) (k : Nat) (h : KMap.rising m = true) :
    KMap.get (KMap.set m d k v) d k = v := by
  unfold KMap.get KMap.set
  split
  · rename_i e
    rw [KMap.find?_erase_same m 0 k h, e]
    rfl
  · rw [KMap.find?_put_same]
    rfl

theorem KMap.get_set_other (m : KMap β) (d v : β) (k j : Nat) (h : KMap.rising m = true) (hj : j ≠ k) :
    KMap.get (KMap.set m d k v) d j = KMap.get m d j := by
  unfold KMap.get KMap.set
  split
  · rw [KMap.find?_erase_other m 0 k j h hj]
  · rw [KMap.find?_put_other m k j v hj]

theorem KMap.rising_set (m : KMap β) (d v : β) (k : Nat) (h : KMap.rising m = true) :
    KMap.rising (KMap.set m d k v) = true := by
  unfold KMap.set
  split
  · exact KMap.risingFrom_erase m 0 k h
  · exact KMap.risingFrom_put m 0 k v h (Nat.zero_le k)

theorem KMap.noDefault_set (m : KMap β) (d v : β) (k : Nat) (h : KMap.noDefault d m = true) :
    KMap.noDefault d (KMap.set m d k v) = true := by
  unfold KMap.set
  split
  · exact KMap.noDefault_erase m d k h
  · exact KMap.noDefault_put m d v k h ‹_›

/-! ### Memories -/

theorem Memory.wf_iff (m : Memory) : Memory.wf m = true ↔ KMap.rising m = true ∧ KMap.noDefault 0 m = true := by
  simp [Memory.wf]

theorem Memory.wf_nil : Memory.wf [] = true := rfl

theorem Memory.wf_setByte (m : Memory) (a : Nat) (b : Byte) (h : Memory.wf m = true) :
    Memory.wf (Memory.setByte m a b) = true := by
  rw [Memory.wf_iff] at h ⊢
  exact ⟨KMap.rising_set m 0 b a h.1, KMap.noDefault_set m 0 b a h.2⟩

theorem Memory.wf_setBytes (m : Memory) (a : Nat) (bs : List Byte) (h : Memory.wf m = true) :
    Memory.wf (Memory.setBytes m a bs) = true := by
  induction bs generalizing m a with
  | nil => exact h
  | cons b bs ih => exact ih _ _ (Memory.wf_setByte m a b h)

theorem Memory.wf_dropRange (m : Memory) (lo n : Nat) (h : Memory.wf m = true) :
    Memory.wf (KMap.dropRange m lo n) = true := by
  rw [Memory.wf_iff] at h ⊢
  exact ⟨KMap.risingFrom_filter m 0 _ h.1, KMap.noDefault_filter m 0 _ h.2⟩

theorem Memory.wf_keepRange (m : Memory) (lo n : Nat) (h : Memory.wf m = true) :
    Memory.wf (KMap.keepRange m lo n) = true := by
  rw [Memory.wf_iff] at h ⊢
  exact ⟨KMap.risingFrom_filter m 0 _ h.1, KMap.noDefault_filter m 0 _ h.2⟩

theorem Memory.byte_setByte_same (m : Memory) (a : Nat) (b : Byte) (h : Memory.wf m = true) :
    Memory.byte (Memory.setByte m a b) a = b := KMap.get_set_same m 0 b a ((Memory.wf_iff m).mp h).1

theorem Memory.byte_setByte_other (m : Memory) (a c : Nat) (b : Byte) (h : Memory.wf m = true) (hc : c ≠ a) :
    Memory.byte (Memory.setByte m a b) c = Memory.byte m c := KMap.get_set_other m 0 b a c ((Memory.wf_iff m).mp h).1 hc

/-- Writing bytes leaves every byte outside them alone. -/
theorem Memory.byte_setBytes_other (m : Memory) (a c : Nat) (bs : List Byte) (h : Memory.wf m = true)
    (hc : c < a ∨ a + bs.length ≤ c) : Memory.byte (Memory.setBytes m a bs) c = Memory.byte m c := by
  induction bs generalizing m a with
  | nil => rfl
  | cons b bs ih =>
    simp only [List.length_cons] at hc
    simp only [Memory.setBytes]
    rw [ih (Memory.setByte m a b) (a + 1) (Memory.wf_setByte m a b h) (by omega)]
    exact Memory.byte_setByte_other m a c b h (by omega)

/-- Reading bytes gives what was written there. -/
theorem Memory.bytes_setBytes (m : Memory) (a : Nat) (bs : List Byte) (h : Memory.wf m = true) :
    Memory.bytes (Memory.setBytes m a bs) a bs.length = bs := by
  induction bs generalizing m a with
  | nil => rfl
  | cons b bs ih =>
    simp only [List.length_cons, Memory.bytes, Memory.setBytes]
    have hw := Memory.wf_setByte m a b h
    rw [ih (Memory.setByte m a b) (a + 1) hw, Memory.byte_setBytes_other _ (a + 1) a bs hw (by omega),
      Memory.byte_setByte_same m a b h]

end Sys2Proof.Machine
end

