-- ==== Sys2Proof/Laws/Ops.lean ====
section
/-! SUPPORT. What the shared operations of instructions can do, said once. -/

namespace Sys2Proof.Machine

/-! ### The frame of an instruction -/

/-- Who issues, and from where: the frame's parts are the state's. -/
theorem ictx_iff {s : State} {x : Ictx} :
    s.ictx? = some x ↔
      ∃ c w p g, s.cur = some c ∧ s.warp? c.warp = some w ∧ w.path? c.path = some p ∧ s.gangOf w = some g ∧
        x = ⟨s, c, w, p, g, g.slot⟩ := by
  constructor
  · intro h
    unfold State.ictx? at h
    split at h
    · cases h
    · split at h
      · cases h
      · split at h
        · rename_i c hc _ w hw _ _ p g hp hg
          cases h
          exact ⟨c, w, p, g, hc, hw, hp, hg, rfl⟩
        · cases h
  · rintro ⟨c, w, p, g, hc, hw, hp, hg, rfl⟩
    simp [State.ictx?, hc, hw, hp, hg]

theorem ictx_s {s : State} {x : Ictx} (h : s.ictx? = some x) : x.s = s := by
  obtain ⟨c, w, p, g, -, -, -, -, rfl⟩ := ictx_iff.mp h
  rfl

theorem ictx_w {s : State} {x : Ictx} (h : s.ictx? = some x) : s.warp? x.c.warp = some x.w := by
  obtain ⟨c, w, p, g, -, hw, -, -, rfl⟩ := ictx_iff.mp h
  exact hw

/-- With no issuer an instruction changes nothing. -/
theorem run_none {s : State} (body : Ictx → Res) (h : s.ictx? = none) : s.run body = .next s := by
  simp [State.run, h]

theorem run_of {s : State} {x : Ictx} (body : Ictx → Res) (h : s.ictx? = some x) :
    s.run body = .next (x.finish (body x)) := by
  simp [State.run, h]

/-- An instruction always answers a next state. -/
theorem run_completes (s : State) (body : Ictx → Res) : ∃ t, s.run body = .next t := by
  unfold State.run
  split
  · exact ⟨_, rfl⟩
  · exact ⟨_, rfl⟩

/-- An instruction that acts once, whose names and registers are allowed, runs its body where its guard holds. -/
theorem once_of {s : State} {x : Ictx} {g : Guard} {regs : Nat} {priv : Bool} (body : Ictx → Res)
    (h : s.ictx? = some x) (hp : priv = false ∨ 2 ≤ x.w.trap.level) (hr : regs ≤ x.g.nv) (hg : x.any g = true) :
    s.once g regs priv body = .next (x.finish (body x)) := by
  have hp' : ¬ (priv = true ∧ x.w.trap.level ≤ 1) := by
    rcases hp with rfl | hl
    · simp
    · omega
  simp [State.once, run_of _ h, Ictx.allowed, Ictx.inRange, hp', Nat.not_lt.mpr hr, hg]

/-- Where its guard fails everywhere it only goes on. -/
theorem once_off {s : State} {x : Ictx} {g : Guard} {regs : Nat} {priv : Bool} (body : Ictx → Res)
    (h : s.ictx? = some x) (hp : priv = false ∨ 2 ≤ x.w.trap.level) (hr : regs ≤ x.g.nv) (hg : x.any g = false) :
    s.once g regs priv body = .next (x.finish (.done x.s)) := by
  have hp' : ¬ (priv = true ∧ x.w.trap.level ≤ 1) := by
    rcases hp with rfl | hl
    · simp
    · omega
  simp [State.once, run_of _ h, Ictx.allowed, Ictx.inRange, hp', Nat.not_lt.mpr hr, hg]

/-- A privileged name below level 2 is class 1 SUB 6 (R216, R267). -/
theorem once_priv {s : State} {x : Ictx} {g : Guard} {regs : Nat} (body : Ictx → Res)
    (h : s.ictx? = some x) (hl : x.w.trap.level < 2) :
    s.once g regs true body = .next (x.finish (x.fault 1 6)) := by
  have hl' : x.w.trap.level ≤ 1 := by omega
  simp [State.once, run_of _ h, Ictx.allowed, hl']

/-- An instruction that acts per lane, whose names and registers are allowed, runs its body over its lanes. -/
theorem perLane_of {s : State} {x : Ictx} {g : Guard} {regs : Nat} {priv : Bool} (body : Ictx → Mask → Res)
    (h : s.ictx? = some x) (hp : priv = false ∨ 2 ≤ x.w.trap.level) (hr : regs ≤ x.g.nv) :
    s.perLane g regs priv body = .next (x.finish (body x (x.lanes g))) := by
  have hp' : ¬ (priv = true ∧ x.w.trap.level ≤ 1) := by
    rcases hp with rfl | hl
    · simp
    · omega
  simp [State.perLane, run_of _ h, Ictx.allowed, Ictx.inRange, hp', Nat.not_lt.mpr hr]

/-! ### Warps in the state -/

theorem KMap.put_put {β : Type} (m : KMap β) (k : Nat) (u v : β) : KMap.put (KMap.put m k u) k v = KMap.put m k v := by
  induction m with
  | nil => simp [KMap.put]
  | cons e m ih =>
    obtain ⟨a, b⟩ := e
    simp only [KMap.put]
    split
    · rename_i h
      simp only [KMap.put, Nat.lt_irrefl, if_false, if_true]
    · split
      · simp only [KMap.put, Nat.lt_irrefl, if_false, if_true]
      · rename_i h1 h2
        simp only [KMap.put, h1, h2, if_false, ih]

@[simp] theorem State.warp?_setWarp (s : State) (w : Nat) (x : Warp) : (s.setWarp w x).warp? w = some x :=
  KMap.find?_put_same _ _ _

@[simp] theorem State.gang?_setWarp (s : State) (w g : Nat) (x : Warp) : (s.setWarp w x).gang? g = s.gang? g := rfl

@[simp] theorem State.setWarp_setWarp (s : State) (w : Nat) (x y : Warp) : (s.setWarp w x).setWarp w y = s.setWarp w y := by
  simp [State.setWarp, KMap.put_put]

/-- What an instruction that completes leaves: its warp, with the path at the next instruction. -/
theorem finish_done_put {x : Ictx} (w : Warp) :
    x.finish (.done (x.put w)) = x.s.setWarp x.c.warp (x.advance w) := by
  simp [Ictx.finish, Ictx.put, State.modWarp]

theorem finish_done_same {s : State} {x : Ictx} (h : s.ictx? = some x) :
    x.finish (.done x.s) = x.s.setWarp x.c.warp (x.advance x.w) := by
  have hw := ictx_w h
  rw [ictx_s h]
  simp [Ictx.finish, State.modWarp, hw]

end Sys2Proof.Machine
end

