-- ==== Sys2Proof/Laws/PerInstr.lean ====
section
/-! SUPPORT. Facts about every instruction, constructor by constructor. Family Words: an instruction is at most two words,
the second marked by LP = 0b10 in the first (R263). -/

set_option Elab.async false

namespace Sys2Proof.Laws.Words

/-- The words of an instruction: none for an event, one, or two with LP = 0b10 in the first. -/
def Statement (i : Instr) : Prop :=
  match encode i with
  | [] => True
  | [w] => needsSecond w = false
  | [w, _] => needsSecond w = true
  | _ => False

theorem w1Of_lp (lp : BitVec 2) (m : BitVec 8) (g : Guard) (d a b c : BitVec 9) (t f : Nat) :
    (w1Of lp m g d a b c t f).extractLsb' 62 2 = lp := by
  ext i hi
  simp only [w1Of, word0, BitVec.getElem_extractLsb', BitVec.getLsbD_append]
  have : i = 0 ∨ i = 1 := by omega
  rcases this with rfl | rfl <;> simp [BitVec.getLsbD_eq_getElem]

theorem single (m : BitVec 8) (g : Guard) (d a b c : BitVec 9) (t f : Nat) :
    needsSecond (w1Of 0#2 m g d a b c t f) = false := by
  rw [needsSecond, w1Of_lp]
  rfl

theorem double (m : BitVec 8) (g : Guard) (d a b c : BitVec 9) (t f : Nat) :
    needsSecond (w1Of 2#2 m g d a b c t f) = true := by
  rw [needsSecond, w1Of_lp]
  rfl

theorem bistFail (r : BistRecord) : Statement (.bistFail r) := by
  simp [Statement, encode]
theorem bistTimeout (temp : BitVec 8) (dump : List Word) : Statement (.bistTimeout temp dump) := by
  simp [Statement, encode]
theorem powerReqM0 (w : PowerReq) : Statement (.powerReqM0 w) := by
  simp [Statement, encode]
theorem powerReqM1 (w : PowerReq) : Statement (.powerReqM1 w) := by
  simp [Statement, encode]
theorem powerReqM2 (w : PowerReq) : Statement (.powerReqM2 w) := by
  simp [Statement, encode]
theorem powerReqM3 (w : PowerReq) : Statement (.powerReqM3 w) := by
  simp [Statement, encode]
theorem hvcmdResumeMaster (token : BitVec 16) : Statement (.hvcmdResumeMaster token) := by
  simp [Statement, encode]
theorem hvcmdResumeStream (token : BitVec 16) : Statement (.hvcmdResumeStream token) := by
  simp [Statement, encode]
theorem hvcmdAbandonStream (token : BitVec 16) : Statement (.hvcmdAbandonStream token) := by
  simp [Statement, encode]
theorem modcfgWrite (v : Word) : Statement (.modcfgWrite v) := by
  simp [Statement, encode]
theorem frameCrcError (port : Nat) (seq : BitVec 12) : Statement (.frameCrcError port seq) := by
  simp [Statement, encode]
theorem linkReplay (port : Nat) (seq : BitVec 12) : Statement (.linkReplay port seq) := by
  simp [Statement, encode]
theorem portDown (port : Nat) : Statement (.portDown port) := by
  simp [Statement, encode]
theorem noCreditTimeout (port : Nat) : Statement (.noCreditTimeout port) := by
  simp [Statement, encode]
theorem fabricSend (sel : SendSel) : Statement (.fabricSend sel) := by
  simp [Statement, encode]
theorem sourceTimeout (id : StreamId) : Statement (.sourceTimeout id) := by
  simp [Statement, encode]
theorem keyMove (keyix : Nat) : Statement (.keyMove keyix) := by
  simp [Statement, encode]
theorem tdispStateChange (slot : Nat) (st : Tdi) : Statement (.tdispStateChange slot st) := by
  simp [Statement, encode]
theorem networkTransferFailed (post : Nat) : Statement (.networkTransferFailed post) := by
  simp [Statement, encode]
theorem tableRewrite (v : Word) : Statement (.tableRewrite v) := by
  simp [Statement, encode]
theorem rewriteDrainDone (us : Nat) : Statement (.rewriteDrainDone us) := by
  simp [Statement, encode]
theorem logReplayRecord (slot : Nat) : Statement (.logReplayRecord slot) := by
  simp [Statement, encode]
theorem logReplayDone (slot : Nat) : Statement (.logReplayDone slot) := by
  simp [Statement, encode]
theorem logReplayLimit (slot : Nat) : Statement (.logReplayLimit slot) := by
  simp [Statement, encode]
theorem logSpaceResume (slot : Nat) : Statement (.logSpaceResume slot) := by
  simp [Statement, encode]
theorem rlogbaseWrite (slot : Nat) (v : Word) : Statement (.rlogbaseWrite slot v) := by
  simp [Statement, encode]
theorem launchPortWrite (slot : Nat) (v : Word) : Statement (.launchPortWrite slot v) := by
  simp [Statement, encode]
theorem launchRecordRead (slot : Nat) : Statement (.launchRecordRead slot) := by
  simp [Statement, encode]
theorem flagDependencePoll (slot : Nat) (launch : Nat) (dep : Nat) : Statement (.flagDependencePoll slot launch dep) := by
  simp [Statement, encode]
theorem gangPlace (slot : Nat) : Statement (.gangPlace slot) := by
  simp [Statement, encode]
theorem gangRetire (gang : Nat) : Statement (.gangRetire gang) := by
  simp [Statement, encode]
theorem podGangReserveTimeout (slot : Nat) (launch : Nat) : Statement (.podGangReserveTimeout slot launch) := by
  simp [Statement, encode]
theorem podGangCommitResend (slot : Nat) (launch : Nat) : Statement (.podGangCommitResend slot launch) := by
  simp [Statement, encode]
theorem podGangCommitTimeout (slot : Nat) (launch : Nat) : Statement (.podGangCommitTimeout slot launch) := by
  simp [Statement, encode]
theorem sliceEnd (slot : Nat) : Statement (.sliceEnd slot) := by
  simp [Statement, encode]
theorem schedWrite (slot : Nat) (v : Word) : Statement (.schedWrite slot v) := by
  simp [Statement, encode]
theorem preemptGo (slot : Nat) (v : Word) : Statement (.preemptGo slot v) := by
  simp [Statement, encode]
theorem preemptResume (slot : Nat) : Statement (.preemptResume slot) := by
  simp [Statement, encode]
theorem graceWindowEnd (slot : Nat) : Statement (.graceWindowEnd slot) := by
  simp [Statement, encode]
theorem preemptionComplete (slot : Nat) : Statement (.preemptionComplete slot) := by
  simp [Statement, encode]
theorem tinvnWrite (slot : Nat) (v : Word) : Statement (.tinvnWrite slot v) := by
  simp [Statement, encode]
theorem s2invnWrite (slot : Nat) (v : Word) : Statement (.s2invnWrite slot v) := by
  simp [Statement, encode]
theorem invalidationDrainDone (slot : Nat) : Statement (.invalidationDrainDone slot) := by
  simp [Statement, encode]
theorem vfFlr (slot : Nat) : Statement (.vfFlr slot) := by
  simp [Statement, encode]
theorem flrcmdGo (slot : Nat) (v : Word) : Statement (.flrcmdGo slot v) := by
  simp [Statement, encode]
theorem flrDrainDone (slot : Nat) : Statement (.flrDrainDone slot) := by
  simp [Statement, encode]
theorem flrDrainTimeout (slot : Nat) : Statement (.flrDrainTimeout slot) := by
  simp [Statement, encode]
theorem generationAssigned (slot : Nat) : Statement (.generationAssigned slot) := by
  simp [Statement, encode]
theorem evqbaseWrite (v : Word) : Statement (.evqbaseWrite v) := by
  simp [Statement, encode]
theorem evqheadWrite (v : Word) : Statement (.evqheadWrite v) := by
  simp [Statement, encode]
theorem vchipCreate (v : Word) : Statement (.vchipCreate v) := by
  simp [Statement, encode]
theorem vchipDestroy (v : Word) : Statement (.vchipDestroy v) := by
  simp [Statement, encode]
theorem spdmChallenge (mailbox : Nat) (cslot : Nat) : Statement (.spdmChallenge mailbox cslot) := by
  simp [Statement, encode]
theorem setCertificate (mailbox : Nat) (cslot : Nat) (chain : List Byte) : Statement (.setCertificate mailbox cslot chain) := by
  simp [Statement, encode]
theorem challengeBusyTimeout (cslot : Nat) : Statement (.challengeBusyTimeout cslot) := by
  simp [Statement, encode]
theorem registerWrite (reg : RegAddr) (v : Word) : Statement (.registerWrite reg v) := by
  simp [Statement, encode]
theorem loadComplete (warp : Nat) (op : Nat) (lane : Nat) : Statement (.loadComplete warp op lane) := by
  simp [Statement, encode]
theorem storePerformed (warp : Nat) (op : Nat) (lane : Nat) : Statement (.storePerformed warp op lane) := by
  simp [Statement, encode]
theorem atomicPerformed (warp : Nat) (op : Nat) (lane : Nat) : Statement (.atomicPerformed warp op lane) := by
  simp [Statement, encode]
theorem fadddArrive (warp : Nat) (op : Nat) (lane : Nat) : Statement (.fadddArrive warp op lane) := by
  simp [Statement, encode]
theorem barrierArrivalApply (warp : Nat) (op : Nat) (lane : Nat) : Statement (.barrierArrivalApply warp op lane) := by
  simp [Statement, encode]
theorem copyStart (copy : Nat) : Statement (.copyStart copy) := by
  simp [Statement, encode]
theorem copyBeat (copy : Nat) (ahead : Nat) : Statement (.copyBeat copy ahead) := by
  simp [Statement, encode]
theorem copyFault (copy : Nat) (err : EngineErr) : Statement (.copyFault copy err) := by
  simp [Statement, encode]
theorem faceCopyStart (publish : Nat) (face : Nat) : Statement (.faceCopyStart publish face) := by
  simp [Statement, encode]
theorem staleHaloTimeout (warp : Nat) : Statement (.staleHaloTimeout warp) := by
  simp [Statement, encode]
theorem matrixOpComplete (core : Nat) : Statement (.matrixOpComplete core) := by
  simp [Statement, encode]
theorem mvnComplete (op : Nat) : Statement (.mvnComplete op) := by
  simp [Statement, encode]
theorem npostComplete (post : Nat) : Statement (.npostComplete post) := by
  simp [Statement, encode]
theorem fuseTimeout (warp : Nat) : Statement (.fuseTimeout warp) := by
  simp [Statement, encode]
theorem remoteAbandonTrap (warp : Nat) : Statement (.remoteAbandonTrap warp) := by
  simp [Statement, encode]
theorem boostAbortTaken (warp : Nat) : Statement (.boostAbortTaken warp) := by
  simp [Statement, encode]
theorem boostDrainADone (warp : Nat) : Statement (.boostDrainADone warp) := by
  simp [Statement, encode]
theorem boostCommitDone (warp : Nat) : Statement (.boostCommitDone warp) := by
  simp [Statement, encode]
theorem bctlTableReplaced (slot : Nat) : Statement (.bctlTableReplaced slot) := by
  simp [Statement, encode]
theorem illegalInstruction (sub : Nat) (priv : Bool) : Statement (.illegalInstruction sub priv) := by
  simp [Statement, encode]
theorem nop (g : Guard) : Statement (.nop g) := by
  simp [Statement, encode, one, single]
theorem sadd (g : Guard) (t : Ty) (d : Nat) (a b : Operand) : Statement (.sadd g t d a b) := by
  simp [Statement, encode, aluEnc, oneB, one, single]
theorem ssub (g : Guard) (t : Ty) (d : Nat) (a b : Operand) : Statement (.ssub g t d a b) := by
  simp [Statement, encode, aluEnc, oneB, one, single]
theorem smul (g : Guard) (t : Ty) (d : Nat) (a b : Operand) : Statement (.smul g t d a b) := by
  simp [Statement, encode, aluEnc, oneB, one, single]
theorem smulh (g : Guard) (t : Ty) (d : Nat) (a b : Operand) : Statement (.smulh g t d a b) := by
  simp [Statement, encode, aluEnc, oneB, one, single]
theorem sdiv (g : Guard) (t : Ty) (d : Nat) (a b : Operand) : Statement (.sdiv g t d a b) := by
  simp [Statement, encode, aluEnc, oneB, one, single]
theorem srem (g : Guard) (t : Ty) (d : Nat) (a b : Operand) : Statement (.srem g t d a b) := by
  simp [Statement, encode, aluEnc, oneB, one, single]
theorem sand (g : Guard) (t : Ty) (d : Nat) (a b : Operand) : Statement (.sand g t d a b) := by
  simp [Statement, encode, aluEnc, oneB, one, single]
theorem sor (g : Guard) (t : Ty) (d : Nat) (a b : Operand) : Statement (.sor g t d a b) := by
  simp [Statement, encode, aluEnc, oneB, one, single]
theorem sxor (g : Guard) (t : Ty) (d : Nat) (a b : Operand) : Statement (.sxor g t d a b) := by
  simp [Statement, encode, aluEnc, oneB, one, single]
theorem sshl (g : Guard) (t : Ty) (d : Nat) (a b : Operand) : Statement (.sshl g t d a b) := by
  simp [Statement, encode, aluEnc, oneB, one, single]
theorem sshr (g : Guard) (t : Ty) (d : Nat) (a b : Operand) : Statement (.sshr g t d a b) := by
  simp [Statement, encode, aluEnc, oneB, one, single]
theorem ssra (g : Guard) (t : Ty) (d : Nat) (a b : Operand) : Statement (.ssra g t d a b) := by
  simp [Statement, encode, aluEnc, oneB, one, single]
theorem smin (g : Guard) (t : Ty) (d : Nat) (a b : Operand) : Statement (.smin g t d a b) := by
  simp [Statement, encode, aluEnc, oneB, one, single]
theorem smax (g : Guard) (t : Ty) (d : Nat) (a b : Operand) : Statement (.smax g t d a b) := by
  simp [Statement, encode, aluEnc, oneB, one, single]
theorem scmp (g : Guard) (t : Ty) (c : Cond) (d : Nat) (a b : Operand) : Statement (.scmp g t c d a b) := by
  simp [Statement, encode, oneB, one, single]
theorem ssel (g : Guard) (t : Ty) (d : Nat) (a b c : Operand) : Statement (.ssel g t d a b c) := by
  simp [Statement, encode, one, single]
theorem sbfx (g : Guard) (t : Ty) (d : Nat) (a b : Operand) : Statement (.sbfx g t d a b) := by
  simp [Statement, encode, aluEnc, oneB, one, single]
theorem sbfi (g : Guard) (t : Ty) (d : Nat) (a b : Operand) : Statement (.sbfi g t d a b) := by
  simp [Statement, encode, aluEnc, oneB, one, single]
theorem spopc (g : Guard) (t : Ty) (d : Nat) (a : Operand) : Statement (.spopc g t d a) := by
  simp [Statement, encode, one, single]
theorem sclz (g : Guard) (t : Ty) (d : Nat) (a : Operand) : Statement (.sclz g t d a) := by
  simp [Statement, encode, one, single]
theorem smov (g : Guard) (t : Ty) (d : Nat) (a : Operand) : Statement (.smov g t d a) := by
  simp [Statement, encode, oneA, one, single]
theorem sli (g : Guard) (d : Nat) (value : Word) : Statement (.sli g d value) := by
  simp [Statement, encode, two, double]
theorem sld (g : Guard) (m : MemOpt) (d : Nat) (a : Nat) (b : Operand) : Statement (.sld g m d a b) := by
  simp [Statement, encode, oneB, one, single]
theorem sst (g : Guard) (m : MemOpt) (d : Nat) (a : Nat) (b : Operand) : Statement (.sst g m d a b) := by
  simp [Statement, encode, oneB, one, single]
theorem pand (g : Guard) (d a b : Nat) : Statement (.pand g d a b) := by
  simp [Statement, encode, one, single]
theorem por (g : Guard) (d a b : Nat) : Statement (.por g d a b) := by
  simp [Statement, encode, one, single]
theorem pxor (g : Guard) (d a b : Nat) : Statement (.pxor g d a b) := by
  simp [Statement, encode, one, single]
theorem pnot (g : Guard) (d a : Nat) : Statement (.pnot g d a) := by
  simp [Statement, encode, one, single]
theorem pany (g : Guard) (d a : Nat) : Statement (.pany g d a) := by
  simp [Statement, encode, one, single]
theorem pall (g : Guard) (d a : Nat) : Statement (.pall g d a) := by
  simp [Statement, encode, one, single]
theorem pcnt (g : Guard) (d a : Nat) : Statement (.pcnt g d a) := by
  simp [Statement, encode, one, single]
theorem srd (g : Guard) (d : Operand) (r : Spec) : Statement (.srd g d r) := by
  simp [Statement, encode, one, single]
theorem swr (g : Guard) (r : Spec) (a : Operand) : Statement (.swr g r a) := by
  simp [Statement, encode, one, single]
theorem bra (g : Guard) (td : BitVec 18) : Statement (.bra g td) := by
  simp [Statement, encode, branch, single]
theorem bru (g : Guard) (bp : Nat) (bs : Bool) (td : BitVec 18) : Statement (.bru g bp bs td) := by
  simp [Statement, encode, branch, single]
theorem brc (g : Guard) (bp : Nat) (bs : Bool) (td jd : BitVec 18) : Statement (.brc g bp bs td jd) := by
  simp [Statement, encode, branch, single]
theorem brx (g : Guard) (k : Nat) (td : BitVec 18) : Statement (.brx g k td) := by
  simp [Statement, encode, branch, single]
theorem join (g : Guard) : Statement (.join g) := by
  simp [Statement, encode, one, single]
theorem call (g : Guard) (d : Nat) (td : BitVec 18) : Statement (.call g d td) := by
  simp [Statement, encode, single]
theorem calli (g : Guard) (d : Nat) (a : Operand) : Statement (.calli g d a) := by
  simp [Statement, encode, one, single]
theorem ret (g : Guard) (a : Operand) : Statement (.ret g a) := by
  simp [Statement, encode, one, single]
theorem exit (g : Guard) : Statement (.exit g) := by
  simp [Statement, encode, one, single]
theorem wait (g : Guard) (ld st cp tl : Nat) : Statement (.wait g ld st cp tl) := by
  simp [Statement, encode, single]
theorem tstf (g : Guard) (d : Nat) (f : Nat) : Statement (.tstf g d f) := by
  simp [Statement, encode, one, single]
theorem canf (g : Guard) (d : Nat) (f : Nat) : Statement (.canf g d f) := by
  simp [Statement, encode, one, single]
theorem yield (g : Guard) (n zfirst zcount : Nat) (start len : Operand) : Statement (.yield g n zfirst zcount start len) := by
  simp [Statement, encode, two, double]
theorem rget (g : Guard) (d : Nat) (b : Operand) : Statement (.rget g d b) := by
  simp [Statement, encode, oneB, one, single]
theorem launch (g : Guard) (d : Nat) (a b : Operand) : Statement (.launch g d a b) := by
  simp [Statement, encode, one, single]
theorem vadd (g : Guard) (t : Ty) (sat : Bool) (d : Nat) (a b : Operand) : Statement (.vadd g t sat d a b) := by
  simp [Statement, encode, oneB, one, single]
theorem vsub (g : Guard) (t : Ty) (sat : Bool) (d : Nat) (a b : Operand) : Statement (.vsub g t sat d a b) := by
  simp [Statement, encode, oneB, one, single]
theorem vmul (g : Guard) (t : Ty) (sat : Bool) (d : Nat) (a b : Operand) : Statement (.vmul g t sat d a b) := by
  simp [Statement, encode, oneB, one, single]
theorem vfma (g : Guard) (t : Ty) (d : Nat) (a b c : Operand) : Statement (.vfma g t d a b c) := by
  simp [Statement, encode, one, single]
theorem vmin (g : Guard) (t : Ty) (d : Nat) (a b : Operand) : Statement (.vmin g t d a b) := by
  simp [Statement, encode, oneB, one, single]
theorem vmax (g : Guard) (t : Ty) (d : Nat) (a b : Operand) : Statement (.vmax g t d a b) := by
  simp [Statement, encode, oneB, one, single]
theorem vabs (g : Guard) (t : Ty) (sat : Bool) (d : Nat) (a : Operand) : Statement (.vabs g t sat d a) := by
  simp [Statement, encode, one, single]
theorem vneg (g : Guard) (t : Ty) (sat : Bool) (d : Nat) (a : Operand) : Statement (.vneg g t sat d a) := by
  simp [Statement, encode, one, single]
theorem vcmp (g : Guard) (t : Ty) (c : Cond) (any : Bool) (p : Nat) (a b : Operand) : Statement (.vcmp g t c any p a b) := by
  simp [Statement, encode, oneB, one, single]
theorem vsel (g : Guard) (t : Ty) (d : Nat) (a b : Operand) (p : Nat) : Statement (.vsel g t d a b p) := by
  simp [Statement, encode, one, single]
theorem vand (g : Guard) (t : Ty) (d : Nat) (a b : Operand) : Statement (.vand g t d a b) := by
  simp [Statement, encode, oneB, one, single]
theorem vor (g : Guard) (t : Ty) (d : Nat) (a b : Operand) : Statement (.vor g t d a b) := by
  simp [Statement, encode, oneB, one, single]
theorem vxor (g : Guard) (t : Ty) (d : Nat) (a b : Operand) : Statement (.vxor g t d a b) := by
  simp [Statement, encode, oneB, one, single]
theorem vnot (g : Guard) (t : Ty) (d : Nat) (a : Operand) : Statement (.vnot g t d a) := by
  simp [Statement, encode, one, single]
theorem vshl (g : Guard) (t : Ty) (d : Nat) (a b : Operand) : Statement (.vshl g t d a b) := by
  simp [Statement, encode, oneB, one, single]
theorem vshr (g : Guard) (t : Ty) (d : Nat) (a b : Operand) : Statement (.vshr g t d a b) := by
  simp [Statement, encode, oneB, one, single]
theorem vsra (g : Guard) (t : Ty) (d : Nat) (a b : Operand) : Statement (.vsra g t d a b) := by
  simp [Statement, encode, oneB, one, single]
theorem vcvt (g : Guard) (t st : Ty) (sat : Bool) (rm : Rmo) (d : Nat) (a : Operand) : Statement (.vcvt g t st sat rm d a) := by
  simp [Statement, encode, one, single]
theorem vrnd (g : Guard) (t : Ty) (rm : Rmo) (d : Nat) (a : Operand) : Statement (.vrnd g t rm d a) := by
  simp [Statement, encode, one, single]
theorem vrcp (g : Guard) (t : Ty) (d : Nat) (a : Operand) : Statement (.vrcp g t d a) := by
  simp [Statement, encode, one, single]
theorem vrsq (g : Guard) (t : Ty) (d : Nat) (a : Operand) : Statement (.vrsq g t d a) := by
  simp [Statement, encode, one, single]
theorem vsqrt (g : Guard) (t : Ty) (d : Nat) (a : Operand) : Statement (.vsqrt g t d a) := by
  simp [Statement, encode, one, single]
theorem vdiv (g : Guard) (t : Ty) (d : Nat) (a b : Operand) : Statement (.vdiv g t d a b) := by
  simp [Statement, encode, one, single]
theorem vexp2 (g : Guard) (t : Ty) (d : Nat) (a : Operand) : Statement (.vexp2 g t d a) := by
  simp [Statement, encode, one, single]
theorem vlog2 (g : Guard) (t : Ty) (d : Nat) (a : Operand) : Statement (.vlog2 g t d a) := by
  simp [Statement, encode, one, single]
theorem vsin (g : Guard) (t : Ty) (d : Nat) (a : Operand) : Statement (.vsin g t d a) := by
  simp [Statement, encode, one, single]
theorem vcos (g : Guard) (t : Ty) (d : Nat) (a : Operand) : Statement (.vcos g t d a) := by
  simp [Statement, encode, one, single]
theorem vtanh (g : Guard) (t : Ty) (d : Nat) (a : Operand) : Statement (.vtanh g t d a) := by
  simp [Statement, encode, one, single]
theorem vpack (g : Guard) (t st : Ty) (sat : Bool) (d : Nat) (a b : Operand) : Statement (.vpack g t st sat d a b) := by
  simp [Statement, encode, one, single]
theorem vunpk (g : Guard) (t st : Ty) (d : Nat) (a b : Operand) : Statement (.vunpk g t st d a b) := by
  simp [Statement, encode, one, single]
theorem vperms (g : Guard) (t : Ty) (d : Nat) (a b : Operand) : Statement (.vperms g t d a b) := by
  simp [Statement, encode, one, single]
theorem vmov (g : Guard) (t : Ty) (d : Nat) (a : Operand ⊕ Word) : Statement (.vmov g t d a) := by
  cases a <;> simp [Statement, encode, oneA, one, two, single, double]
theorem vmulh (g : Guard) (t : Ty) (d : Nat) (a b : Operand) : Statement (.vmulh g t d a b) := by
  simp [Statement, encode, oneB, one, single]
theorem vpopc (g : Guard) (t : Ty) (d : Nat) (a : Operand) : Statement (.vpopc g t d a) := by
  simp [Statement, encode, one, single]
theorem vclz (g : Guard) (t : Ty) (d : Nat) (a : Operand) : Statement (.vclz g t d a) := by
  simp [Statement, encode, one, single]
theorem vbfx (g : Guard) (t : Ty) (d : Nat) (a b : Operand) : Statement (.vbfx g t d a b) := by
  simp [Statement, encode, oneB, one, single]
theorem vbfi (g : Guard) (t : Ty) (d : Nat) (a b : Operand) : Statement (.vbfi g t d a b) := by
  simp [Statement, encode, oneB, one, single]
theorem shfl (g : Guard) (t : Ty) (grp : Grp) (d : Nat) (a b : Operand) : Statement (.shfl g t grp d a b) := by
  simp [Statement, encode, oneB, one, single]
theorem shflx (g : Guard) (t : Ty) (grp : Grp) (d : Nat) (a b : Operand) : Statement (.shflx g t grp d a b) := by
  simp [Statement, encode, oneB, one, single]
theorem shflup (g : Guard) (t : Ty) (grp : Grp) (d : Nat) (a b : Operand) : Statement (.shflup g t grp d a b) := by
  simp [Statement, encode, oneB, one, single]
theorem shfldn (g : Guard) (t : Ty) (grp : Grp) (d : Nat) (a b : Operand) : Statement (.shfldn g t grp d a b) := by
  simp [Statement, encode, oneB, one, single]
theorem vred (g : Guard) (t : Ty) (rop : Rop) (grp : Grp) (d a : Operand) : Statement (.vred g t rop grp d a) := by
  simp [Statement, encode, one, single]
theorem vscan (g : Guard) (t : Ty) (rop : Rop) (grp : Grp) (exc : Bool) (d : Nat) (a : Operand) : Statement (.vscan g t rop grp exc d a) := by
  simp [Statement, encode, one, single]
theorem bcst (g : Guard) (t : Ty) (grp : Grp) (d : Nat) (a b : Operand) : Statement (.bcst g t grp d a b) := by
  simp [Statement, encode, oneB, one, single]
theorem vballot (g : Guard) (grp : Grp) (d : Operand) (p : Nat) : Statement (.vballot g grp d p) := by
  simp [Statement, encode, one, single]
theorem split (g : Guard) (d : Nat) (factor : Nat) : Statement (.split g d factor) := by
  simp [Statement, encode, one, single]
theorem fuse (g : Guard) (d : Nat) (factor tag : Nat) (lim : Operand) : Statement (.fuse g d factor tag lim) := by
  simp [Statement, encode, oneA, one, single]
theorem ld (g : Guard) (m : MemOpt) (d : Nat) (a b : Operand) : Statement (.ld g m d a b) := by
  simp [Statement, encode, oneB, one, single]
theorem st (g : Guard) (m : MemOpt) (d a b : Operand) : Statement (.st g m d a b) := by
  simp [Statement, encode, oneB, one, single]
theorem ldv (g : Guard) (m : MemOpt) (d : Nat) (a b : Operand) : Statement (.ldv g m d a b) := by
  simp [Statement, encode, oneB, one, single]
theorem stv (g : Guard) (m : MemOpt) (d a b : Operand) : Statement (.stv g m d a b) := by
  simp [Statement, encode, oneB, one, single]
theorem lda (g : Guard) (m : MemOpt) (d : Nat) (a b : Operand) : Statement (.lda g m d a b) := by
  simp [Statement, encode, oneB, one, single]
theorem stl (g : Guard) (m : MemOpt) (d a b : Operand) : Statement (.stl g m d a b) := by
  simp [Statement, encode, oneB, one, single]
theorem atom (g : Guard) (t : Ty) (aop : Aop) (ord : Ord) (scope : Scope) (d : Option Nat) (a b c : Operand) : Statement (.atom g t aop ord scope d a b c) := by
  simp [Statement, encode, one, single]
theorem faddd (g : Guard) (t : Ty) (scope : Scope) (d : Option Nat) (a b c : Operand) : Statement (.faddd g t scope d a b c) := by
  simp [Statement, encode, one, single]
theorem fdset (g : Guard) (t : Ty) (scope : Scope) (d : Option Nat) (a b c : Operand) : Statement (.fdset g t scope d a b c) := by
  simp [Statement, encode, one, single]
theorem fence (g : Guard) (scope : Scope) : Statement (.fence g scope) := by
  simp [Statement, encode, one, single]
theorem fenceX (g : Guard) : Statement (.fenceX g) := by
  simp [Statement, encode, one, single]
theorem bari (g : Guard) (a b : Operand) : Statement (.bari g a b) := by
  simp [Statement, encode, one, single]
theorem bara (g : Guard) (a b : Operand) : Statement (.bara g a b) := by
  simp [Statement, encode, one, single]
theorem barw (g : Guard) (esc : Bool) (d : Nat) (a b : Operand) : Statement (.barw g esc d a b) := by
  simp [Statement, encode, one, single]
theorem rcas4 (g : Guard) (scope : Scope) (words : Nat) (d : Option Nat) (a : Operand) (b c : Nat) : Statement (.rcas4 g scope words d a b c) := by
  simp [Statement, encode, one, single]
theorem renq (g : Guard) (scope : Scope) (d : Option Nat) (a b : Operand) : Statement (.renq g scope d a b) := by
  simp [Statement, encode, one, single]
theorem rchase (g : Guard) (scope : Scope) (hops : Nat) (d : Nat) (a b : Operand) : Statement (.rchase g scope hops d a b) := by
  simp [Statement, encode, one, single]
theorem copy (g : Guard) (ext : Bool) (d : Nat) (a b c : Operand) (bar : Option Operand) : Statement (.copy g ext d a b c bar) := by
  cases ext <;> simp [Statement, encode, one, two, single, double]
theorem copys (g : Guard) (d : Nat) (a b c : Operand) (bar : Option Operand) (e1 e2 e3 : Nat) : Statement (.copys g d a b c bar e1 e2 e3) := by
  simp [Statement, encode, two, double]
theorem copyx (g : Guard) (wide : Bool) (d : Nat) (a b c : Operand) (bar : Option Operand) (e1 : Operand) : Statement (.copyx g wide d a b c bar e1) := by
  simp [Statement, encode, two, double]
theorem psend (g : Guard) (mc : Bool) (d : Nat) (a b c : Operand) : Statement (.psend g mc d a b c) := by
  simp [Statement, encode, one, single]
theorem precv (g : Guard) (d : Nat) (a b : Operand) : Statement (.precv g d a b) := by
  simp [Statement, encode, one, single]
theorem npostWrite (g : Guard) (d : Nat) (a b c e0 e1 : Operand) : Statement (.npostWrite g d a b c e0 e1) := by
  simp [Statement, encode, two, double]
theorem npostRead (g : Guard) (d : Nat) (a b c e0 e1 : Operand) : Statement (.npostRead g d a b c e0 e1) := by
  simp [Statement, encode, two, double]
theorem npostSend (g : Guard) (d : Nat) (a b c e0 e1 : Operand) : Statement (.npostSend g d a b c e0 e1) := by
  simp [Statement, encode, two, double]
theorem mopf (g : Guard) : Statement (.mopf g) := by
  simp [Statement, encode, one, single]
theorem mma (g : Guard) (av bt : Bool) (d zt : Nat) (b c fb geo : Operand) : Statement (.mma g av bt d zt b c fb geo) := by
  simp [Statement, encode, two, double]
theorem mmaz (g : Guard) (av bt : Bool) (d zt : Nat) (b c fb geo : Operand) : Statement (.mmaz g av bt d zt b c fb geo) := by
  simp [Statement, encode, two, double]
theorem mmab (g : Guard) (av bt z walk : Bool) (d zt : Nat) (b c fb geo bstr tab : Operand) : Statement (.mmab g av bt z walk d zt b c fb geo bstr tab) := by
  simp [Statement, encode, two, double]
theorem mdsq (g : Guard) (av bt z : Bool) (d zt : Nat) (b c fb geo : Operand) : Statement (.mdsq g av bt z d zt b c fb geo) := by
  simp [Statement, encode, two, double]
theorem mtopk (g : Guard) (t : Ty) (max : Bool) (k : Nat) (d zt : Nat) (b c : Operand) : Statement (.mtopk g t max k d zt b c) := by
  simp [Statement, encode, two, double]
theorem mzmv (g : Guard) (t : Ty) (into : Bool) (d zt : Nat) : Statement (.mzmv g t into d zt) := by
  simp [Statement, encode, one, single]
theorem mzld (g : Guard) (t : Ty) (d zt : Nat) (b c : Operand) : Statement (.mzld g t d zt b c) := by
  simp [Statement, encode, one, single]
theorem mzst (g : Guard) (t : Ty) (d zt : Nat) (b c : Operand) : Statement (.mzst g t d zt b c) := by
  simp [Statement, encode, one, single]
theorem mzclr (g : Guard) (d zt : Nat) (b : Operand) : Statement (.mzclr g d zt b) := by
  simp [Statement, encode, one, single]
theorem mvn (g : Guard) (acc : Bool) (d : Nat) (a b c fb geo pitch : Operand) : Statement (.mvn g acc d a b c fb geo pitch) := by
  simp [Statement, encode, two, double]
theorem gbind (g : Guard) (slot : Nat) (a : Operand) : Statement (.gbind g slot a) := by
  simp [Statement, encode, one, single]
theorem ldg (g : Guard) (t : Ty) (d slot : Nat) (b c : Operand) : Statement (.ldg g t d slot b c) := by
  simp [Statement, encode, one, single]
theorem stg (g : Guard) (t : Ty) (d : Operand) (slot : Nat) (b : Operand) : Statement (.stg g t d slot b) := by
  simp [Statement, encode, one, single]
theorem hpub (g : Guard) (d slot : Nat) (b : Operand) : Statement (.hpub g d slot b) := by
  simp [Statement, encode, one, single]
theorem hwait (g : Guard) (slot : Nat) (b : Operand) : Statement (.hwait g slot b) := by
  simp [Statement, encode, one, single]
theorem bbegin (g : Guard) (d : Nat) (a b : Operand) (vb : Nat) (disp : BitVec 26) : Statement (.bbegin g d a b vb disp) := by
  simp [Statement, encode, two, double]
theorem bop (g : Guard) (kind : Nat) (a b c : Operand) (disp : BitVec 26) : Statement (.bop g kind a b c disp) := by
  simp [Statement, encode, two, double]
theorem bret (g : Guard) : Statement (.bret g) := by
  simp [Statement, encode, one, single]
theorem bcommit (g : Guard) : Statement (.bcommit g) := by
  simp [Statement, encode, one, single]
theorem babort (g : Guard) (u : Nat) : Statement (.babort g u) := by
  simp [Statement, encode, one, single]
theorem bstat (g : Guard) (d : Nat) (a : Operand) : Statement (.bstat g d a) := by
  simp [Statement, encode, one, single]
theorem bctlLoad (g : Guard) (a : Operand) : Statement (.bctlLoad g a) := by
  simp [Statement, encode, one, single]
theorem bctlVerdict (g : Guard) (a : Operand) : Statement (.bctlVerdict g a) := by
  simp [Statement, encode, one, single]
theorem trap (g : Guard) (n : Nat) : Statement (.trap g n) := by
  simp [Statement, encode, one, single]
theorem rft (g : Guard) (skip : Bool) : Statement (.rft g skip) := by
  simp [Statement, encode, one, single]
theorem tlbi (g : Guard) (a b : Operand) : Statement (.tlbi g a b) := by
  simp [Statement, encode, one, single]
theorem halt (g : Guard) : Statement (.halt g) := by
  simp [Statement, encode, one, single]
theorem bkpt (g : Guard) : Statement (.bkpt g) := by
  simp [Statement, encode, one, single]
theorem ctxs (g : Guard) (d : Nat) (a : Operand) : Statement (.ctxs g d a) := by
  simp [Statement, encode, one, single]
theorem ctxl (g : Guard) (a : Operand) : Statement (.ctxl g a) := by
  simp [Statement, encode, one, single]
theorem packetHop (port : Nat) (p : Packet) : Statement (.packetHop port p) := by
  simp [Statement, encode]
theorem ethernetPacketReceive (m : EtherFrame) : Statement (.ethernetPacketReceive m) := by
  simp [Statement, encode]
theorem controlBlockWrite (slot : Nat) (w0 w1 : Word) : Statement (.controlBlockWrite slot w0 w1) := by
  simp [Statement, encode]
theorem powerUp : Statement .powerUp := trivial
theorem bistPass : Statement .bistPass := trivial
theorem lossOfPower : Statement .lossOfPower := trivial
theorem mcmdRestart : Statement .mcmdRestart := trivial
theorem mcmdClearStarts : Statement .mcmdClearStarts := trivial
theorem powerTransitionComplete : Statement .powerTransitionComplete := trivial
theorem thermalWarning : Statement .thermalWarning := trivial
theorem thermalHalt : Statement .thermalHalt := trivial
theorem write : Statement .write := trivial
theorem read : Statement .read := trivial
theorem readrsp : Statement .readrsp := trivial
theorem agentAdd : Statement .agentAdd := trivial
theorem agentLogic : Statement .agentLogic := trivial
theorem agentExchange : Statement .agentExchange := trivial
theorem agentCompareAndSwap : Statement .agentCompareAndSwap := trivial
theorem agentDeterministicAdd : Statement .agentDeterministicAdd := trivial
theorem agentSlotSetup : Statement .agentSlotSetup := trivial
theorem agentMultiwordCas : Statement .agentMultiwordCas := trivial
theorem agentListEnqueue : Statement .agentListEnqueue := trivial
theorem agentPointerChase : Statement .agentPointerChase := trivial
theorem agentrsp : Statement .agentrsp := trivial
theorem send : Statement .send := trivial
theorem haloData : Statement .haloData := trivial
theorem haloAnnounce : Statement .haloAnnounce := trivial
theorem haloCredit : Statement .haloCredit := trivial
theorem ack : Statement .ack := trivial
theorem freeze : Statement .freeze := trivial
theorem resume : Statement .resume := trivial
theorem resumeAbandon : Statement .resumeAbandon := trivial
theorem abandonConfirm : Statement .abandonConfirm := trivial
theorem hintNextWindow : Statement .hintNextWindow := trivial
theorem hintDescheduled : Statement .hintDescheduled := trivial
theorem hintCancel : Statement .hintCancel := trivial
theorem gangReserve : Statement .gangReserve := trivial
theorem gangAck : Statement .gangAck := trivial
theorem gangCommit : Statement .gangCommit := trivial
theorem gangRelease : Statement .gangRelease := trivial
theorem rewriteShadowLoadDone : Statement .rewriteShadowLoadDone := trivial
theorem rewriteDrainLimit : Statement .rewriteDrainLimit := trivial
theorem scrubberPassEnd : Statement .scrubberPassEnd := trivial
theorem headerError : Statement .headerError := trivial

end Sys2Proof.Laws.Words
end

