-- ==== Sys2Proof/Machine/Ordering.lean ====
section
/-! DEFINITION. The memory model as it is stated for whole executions (R183 to R198): events, relations and the axioms that an
execution must meet. The machine performs one lane, beat or packet a step, in an order within these rules; this file says which
outcomes of a program's events are allowed. -/

namespace Sys2Proof.Machine

/-! ### Agents and events (R183, R185, R186) -/

/-- An agent: a warp, an engine operation with the instances of the warp that issued it, or a device context of a vchip; `host`
is the host or the hypervisor. -/
structure OAgent where
  id : Nat
  wg : Nat
  gang : Nat
  vchip : Nat
  guest : Nat
  host : Bool
deriving DecidableEq, Repr

/-- `b` lies in the instance that a scope names around `a` (R186). -/
def Scope.holds (sc : Scope) (a b : OAgent) : Bool :=
  match sc with
  | .plain | .wg => a.wg == b.wg && a.gang == b.gang && a.vchip == b.vchip && a.guest == b.guest && !a.host && !b.host
  | .gang => a.gang == b.gang && a.vchip == b.vchip && a.guest == b.guest && !a.host && !b.host
  | .vchip => a.vchip == b.vchip && a.guest == b.guest && !a.host && !b.host
  | .pod => a.guest == b.guest && !a.host && !b.host
  | .sys => a.host || b.host || a.guest == b.guest

/-- What an event does (R183); `mark` is a release or an acquire that the device makes and that touches no byte of memory (R196). -/
inductive OAct where
  | read | write | rmw | fence | fenceX | mark
deriving DecidableEq, Repr

/-- Ordering kinds (R185). -/
inductive OKind where
  | plain | relaxed | acquire | release | acqRel | fence
deriving DecidableEq, Repr

/-- Where an event's location lies for R188: this module's vaults and HBM, or pod space carried in a stream. -/
inductive OSpace where
  | home
  | stream (n : Nat)
  | elsewhere
deriving DecidableEq, Repr

/-- An event: one atomic piece of an access (R194), with its first byte and length. -/
structure OEvent where
  agent : OAgent
  act : OAct
  kind : OKind
  scope : Scope
  space : OSpace
  addr : Nat
  len : Nat
deriving DecidableEq, Repr

def OEvent.reads (e : OEvent) : Bool := e.act == .read || e.act == .rmw
def OEvent.writes (e : OEvent) : Bool := e.act == .write || e.act == .rmw
def OEvent.isFence (e : OEvent) : Bool := e.act == .fence
def OEvent.strong (e : OEvent) : Bool := e.kind != .plain && (e.reads || e.writes || e.act == .mark)
def OEvent.isAcquire (e : OEvent) : Bool := (e.reads || e.act == .mark) && (e.kind == .acquire || e.kind == .acqRel)
def OEvent.isRelease (e : OEvent) : Bool := (e.writes || e.act == .mark) && (e.kind == .release || e.kind == .acqRel)

/-- The bytes an event touches. -/
def OEvent.bytes (e : OEvent) : List Nat := if e.reads || e.writes then (List.range e.len).map fun i => e.addr + i else []

/-! ### Relations on event numbers -/

abbrev Rel := List (Nat × Nat)

def Rel.has (r : Rel) (a b : Nat) : Bool := r.contains (a, b)

/-- Composition. -/
def Rel.then' (r q : Rel) : Rel := r.flatMap fun e => (q.filter fun f => f.1 == e.2).map fun f => (e.1, f.2)

/-- One more round of closure. -/
def Rel.grow (r : Rel) : Rel := (r ++ Rel.then' r r).eraseDups

/-- Chains of at most 2 ^ `n` edges. -/
def Rel.closure : Nat → Rel → Rel
  | 0, r => r
  | n + 1, r => Rel.closure n (Rel.grow r)

def Rel.irreflexive (r : Rel) : Bool := r.all fun e => e.1 != e.2

/-- An execution (R187): events by number, program order, rf by byte (a read byte with no entry has the initial value), the order of
writes to each byte, dependencies of R188, and the edges of R190, R191, R195 and R196. -/
structure Execution where
  events : List OEvent
  po : Rel
  rf : List (Nat × Nat × Nat)     -- byte, write, read
  co : List (Nat × List Nat)      -- byte, its writes in order
  dep : Rel
  eo : Rel
  xf : Rel
  sync : Rel                      -- the device's release and acquire pairs (R196) and the edges of R195
deriving DecidableEq, Repr

namespace Ex

variable (x : Execution)

def ev (i : Nat) : OEvent := x.events.getD i ⟨⟨0, 0, 0, 0, 0, true⟩, .fenceX, .plain, .plain, .elsewhere, 0, 0⟩

def nums : List Nat := List.range x.events.length

/-- The transitive closure: no chain without a repeated event has more edges than there are events. -/
def close (r : Rel) : Rel := Rel.closure (Nat.log2 x.events.length + 1) r.eraseDups

def acyclic (r : Rel) : Bool := Rel.irreflexive (close x r)

/-- Program order, closed. -/
def poc : Rel := close x x.po

def rfPairs : Rel := (x.rf.map fun e => e.2).eraseDups

/-- Writes to a byte in order. -/
def coOf (b : Nat) : List Nat := ((x.co.find? fun e => e.1 == b).map fun e => e.2).getD []

/-- Pairs of a list in its order. -/
def pairsOf : List Nat → Rel
  | [] => []
  | a :: r => (r.map fun b => (a, b)) ++ pairsOf r

def coPairs : Rel := (x.co.flatMap fun e => pairsOf e.2).eraseDups

/-- The write that byte `b` of read `r` takes its value from. -/
def source (b r : Nat) : Option Nat := (x.rf.find? fun e => e.1 == b && e.2.2 == r).map fun e => e.2.1

/-- fr: a read to each write co-after the one it read from (R187). -/
def frPairs : Rel :=
  ((nums x).flatMap fun r =>
    if (ev x r).reads then
      (ev x r).bytes.flatMap fun b =>
        let ws := coOf x b
        let later := match source x b r with
          | none => ws
          | some w => (ws.dropWhile fun v => v != w).drop 1
        (later.filter fun v => v != r).map fun v => (r, v)
    else []).eraseDups

def external (r : Rel) : Rel := r.filter fun e => (ev x e.1).agent != (ev x e.2).agent

/-- po-loc (R187). -/
def poLoc : Rel := (poc x).filter fun e => (ev x e.1).bytes.any fun b => (ev x e.2).bytes.contains b

/-- Mutually in scope (R186); a plain event counts as `.wg`. -/
def mutually (a b : Nat) : Bool :=
  let e := ev x a
  let f := ev x b
  let sc (g : OEvent) : Scope := if g.kind == .plain then .wg else g.scope
  Scope.holds (sc e) e.agent f.agent && Scope.holds (sc f) f.agent e.agent

/-- Both local, or the same stream (R188). -/
def sameOrder (e f : OEvent) : Bool :=
  match e.space, f.space with
  | .home, .home => true
  | .stream a, .stream b => a == b
  | _, _ => false

def sameStream (e f : OEvent) : Bool :=
  match e.space, f.space with
  | .stream a, .stream b => a == b
  | _, _ => false

/-- A fence stands between, with a scope as wide as those of the two events. -/
def fenced (a b : Nat) : Bool :=
  (nums x).any fun f => (ev x f).isFence && Rel.has (poc x) a f && Rel.has (poc x) f b &&
    (ev x a).scope.ctorIdx ≤ (ev x f).scope.ctorIdx && (ev x b).scope.ctorIdx ≤ (ev x f).scope.ctorIdx

/-- Preserved program order (R188). -/
def ppo : Rel :=
  (poc x).filter fun p =>
    let e := ev x p.1
    let f := ev x p.2
    e.strong && f.strong &&
    ((e.reads && sameOrder e f) || (e.writes && f.writes && sameOrder e f) || (e.writes && f.reads && sameStream e f) ||
      e.isAcquire || f.isRelease || fenced x p.1 p.2 || Rel.has x.dep p.1 p.2)

/-- The unbroken run of read-modify-writes after a write (R189). -/
def releaseSeq (w : Nat) : List Nat :=
  w :: ((ev x w).bytes.flatMap fun b => (((coOf x b).dropWhile fun v => v != w).drop 1).takeWhile fun v => (ev x v).act == .rmw)

/-- Synchronises-with (R189). -/
def sw : Rel :=
  ((nums x).flatMap fun w =>
    if !(ev x w).writes then []
    else
      let as := (if (ev x w).isRelease then [w] else []) ++ (nums x).filter fun f => (ev x f).isFence && Rel.has (poc x) f w
      (nums x).flatMap fun r =>
        if !(ev x r).reads || !((releaseSeq x w).any fun v => Rel.has (rfPairs x) v r) then []
        else
          let bs := (if (ev x r).isAcquire then [r] else []) ++ (nums x).filter fun f => (ev x f).isFence && Rel.has (poc x) r f
          as.flatMap fun a => (bs.filter fun b => mutually x a b).map fun b => (a, b)).eraseDups

/-- Cumulative observation (R189). -/
def cml : Rel :=
  (external x (rfPairs x)).filter fun e =>
    (nums x).any fun k => ((ev x k).isRelease || (ev x k).isFence) && Rel.has (poc x) e.2 k &&
      (ev x k).agent == (ev x e.2).agent && Scope.holds (ev x k).scope (ev x k).agent (ev x e.1).agent

/-- The part of program order that happens-before keeps (R192). -/
def poHb : Rel :=
  (poc x).filter fun e =>
    let a := ev x e.1
    let b := ev x e.2
    !(a.act == .write && a.kind == .plain && !(b.isRelease || b.isFence))

/-- Happens-before (R192). -/
def hb : Rel := close x (poHb x ++ sw x ++ cml x ++ x.eo ++ x.xf ++ x.sync)

/-! ### rf and co (R187) -/

/-- Each byte of a read takes its value from exactly one write of it, or has the initial value. -/
def sources : Bool :=
  (x.rf.all fun e =>
    e.2.1 < x.events.length && e.2.2 < x.events.length && e.2.1 != e.2.2 && (ev x e.2.1).writes && (ev x e.2.2).reads &&
    (ev x e.2.1).bytes.contains e.1 && (ev x e.2.2).bytes.contains e.1) &&
  (x.rf.map fun e => (e.1, e.2.2)).eraseDups.length == x.rf.length

/-- co puts every write of a byte, and nothing else, into one order. -/
def orders : Bool :=
  (x.co.map fun e => e.1).eraseDups.length == x.co.length &&
  (x.co.all fun e => e.2.eraseDups.length == e.2.length && e.2.all fun w =>
    w < x.events.length && (ev x w).writes && (ev x w).bytes.contains e.1) &&
  (nums x).all fun w => !(ev x w).writes || (ev x w).bytes.all fun b => (coOf x b).contains w

/-! ### Axioms (R193, R194) -/

def coherence : Bool := acyclic x (poLoc x ++ rfPairs x ++ coPairs x ++ frPairs x)

/-- A read-modify-write stands in co directly after the write it read from, or first where it read the initial value. -/
def atomicity : Bool :=
  (nums x).all fun e =>
    (ev x e).act != .rmw || (ev x e).bytes.all fun b =>
      let ws := coOf x b
      let before := ws.takeWhile fun v => v != e
      before.getLast? == source x b e

def noThinAir : Bool := acyclic x (poc x ++ rfPairs x)

def observation : Bool :=
  Rel.irreflexive (hb x) && Rel.irreflexive (Rel.then' (frPairs x) (hb x)) &&
  Rel.irreflexive (Rel.then' (coPairs x) (hb x)) && Rel.irreflexive (Rel.then' (rfPairs x) (hb x))

def order : Bool :=
  let within (r : Rel) : Rel := (external x r).filter fun e => (ev x e.1).strong && (ev x e.2).strong && mutually x e.1 e.2
  acyclic x (ppo x ++ within (rfPairs x) ++ within (coPairs x) ++ within (frPairs x))

/-- The source of byte `c` is `w` or a later write of it. -/
def notBefore (w c : Nat) (src : Option Nat) : Bool :=
  match src with
  | none => false
  | some v => ((coOf x c).dropWhile fun u => u != w).contains v

/-- A read that covers the piece that a write has written, or that lies within it, sees the piece whole: where a byte of it comes from that
write, every other one comes from it or from a write that the home performed on that byte after it (R194). -/
def pieces : Bool :=
  (nums x).all fun r =>
    let e := ev x r
    !e.reads || e.bytes.all fun b =>
      match source x b r with
      | none => true
      | some w =>
        let ws := (ev x w).bytes
        let both := e.bytes.filter fun c => ws.contains c
        (both.length < e.bytes.length && both.length < ws.length) || both.all fun c => notBefore x w c (source x c r)

end Ex

/-- The execution is allowed: its relations are those of R187, and every axiom holds (R193). -/
def Execution.allowed (x : Execution) : Bool :=
  Ex.sources x && Ex.orders x && Ex.coherence x && Ex.atomicity x && Ex.noThinAir x && Ex.observation x && Ex.order x && Ex.pieces x

end Sys2Proof.Machine
end

