-- ==== Sys2Proof/Machine/Touch.lean ====
section
/-! DEFINITION. The agents of a module and the events that their accesses are (R183, R185, R186, R194): agents, locations, and the
accesses of memory operations, copies, array operations, halo copies, posts and replayed records. -/

namespace Sys2Proof.Machine

/-! ### Agents (R183, R186) -/

/-- Guest and vchip number of a slot's vchip. -/
def State.podName (s : State) (v : Nat) : Nat × Nat := ((s.vchip? v).map fun c => (c.guest, c.vch)).getD (0, 0)

/-- Agent `n` in the instances of a warp: the warp itself, or an engine operation that it issued. -/
def State.agentOfWarp (s : State) (n : Nat) (w : Warp) : OAgent :=
  let (g, c) := s.podName (s.slotOf w)
  ⟨n, w.id.wg, w.id.gang, c, g, false⟩

def warpAgent (wid : Nat) : Nat := 8 * wid
def engineAgent (k : Nat) : Nat := 8 * k + 1

/-- A device context of a vchip, in no workgroup or gang of its own: the scheduler, the boost directory, the replay. -/
def State.deviceAgent (s : State) (v k : Nat) : OAgent :=
  let (g, c) := s.podName v
  ⟨8 * v + k, 0, 2 ^ 64, c, g, false⟩

def schedulerContext : Nat := 2
def directoryContext : Nat := 3
def replayContext : Nat := 4

/-- The host. -/
def hostAgent : OAgent := ⟨5, 0, 2 ^ 64, 0, 0, true⟩

/-! ### Locations (R187, R188) -/

/-- A byte's number among all spaces. -/
def Place.byteNo (p : Place) : Nat := p.ctorIdx * 2 ^ 64 + p.num

/-- Pod space of a vchip of this module is that vchip's memory (R56); elsewhere it stays pod space. -/
def State.podHome (s : State) (v : Nat) (p : Place) : Place :=
  match p with
  | .pod d off =>
    match s.vchips.find? fun e => e.2.vch == d && e.2.guest == (s.podName v).1 with
    | none => p
    | some e =>
      match s.offsetPlace e.1 off ⟨false, false, false⟩ with
      | .ok q => q
      | .error _ => p
  | _ => p

/-- Where an access lies for R188. -/
def spaceOf (v stream : Nat) (p : Place) : OSpace :=
  match p with
  | .pod d _ => .stream ((v * 1024 + d) * 256 + stream)
  | .host _ => .elsewhere
  | _ => .home

/-- An access of an agent as an event. -/
def State.access (s : State) (ag : OAgent) (v stream : Nat) (act : OAct) (kind : OKind) (scope : Scope) (p : Place) (n : Nat) : OEvent :=
  ⟨ag, act, kind, scope, spaceOf v stream p, (s.podHome v p).byteNo, n⟩

/-- A release or an acquire that the device makes. -/
def markEvent (ag : OAgent) (kind : OKind) (scope : Scope) : OEvent := ⟨ag, .mark, kind, scope, .elsewhere, 0, 0⟩

/-- The append of a message, by its stream and SEQ: what a `PRECV` of it reads (R195). -/
def appendNo (dvch svch stream seq : Nat) : Nat := 4 * 2 ^ 64 + ((dvch * 1024 + svch) * 256 + stream) * seqMod + seq

/-! ### Memory operations (R183, R185, R194) -/

def OpKind.act : OpKind → OAct
  | .load _ => .read
  | .store | .faddd _ | .fdset _ => .write
  | .atom _ _ | .rcas _ | .renq | .rchase _ _ => .rmw
  | .bari | .bara => .mark

/-- The kind of a lane's event. -/
def MemOp.kindAt (o : MemOp) (l : LaneOp) : OKind :=
  if o.acq && o.rel then .acqRel else if o.acq then .acquire else if o.rel then .release
  else if o.strongAt l then .relaxed else .plain

/-- And its scope: `.pod` for a pod address unless the instruction names `.sys`. -/
def MemOp.scopeAt (o : MemOp) (l : LaneOp) : Scope := if l.place.isPod && o.scope != .sys then .pod else o.scope

/-- An address `off` bytes on in a vchip's pod space, or a place (R35, R335). -/
def Place.onward (p : Place) (off : Nat) : Place :=
  match p with
  | .pod d o => .pod d ((o + off) % 2 ^ 40)
  | q => q.add off

/-- What a lane does when it is performed, or takes its next step: a boundary value and a barrier event touch no memory; `RENQ` writes
the node, exchanges TAIL, then writes the link before or HEAD (R334); `RCHASE` makes a hop (R335). `vals`: what the home in another module
has answered, which tells the link that it has written. -/
def State.laneTouches (s : State) (v : Nat) (o : MemOp) (l : LaneOp) (vals : List Word) : List (OAct × Place × Nat) :=
  match o.kind with
  | .bari | .bara => []
  | .renq =>
    let node := (OAct.write, l.place2.getD l.place, 8)
    let tail := (OAct.rmw, l.place.add 8, 8)
    let prev := l.cmp.getD 1 0
    match l.place with
    | .pod d _ =>
      [node, tail] ++ (match vals with
        | [_, 1] => [(.write, l.place, 8)]
        | [q, 0] => [(.write, .pod d (fld q 0 40), 8)]
        | _ => [])
    | _ => match (l.cmp.getD 0 0).toNat with
      | 0 => [node]
      | 1 => [tail]
      | _ =>
        if prev == 0 then [(.write, l.place, 8)]
        else match (s.follow v prev Acc.write).1 with
          | .ok p => [(.write, p, 8)]
          | .error _ => []
  | .rchase _ off => [(.rmw, if l.place.isPod then l.place.onward off else l.place, 8)]
  | _ => if l.size = 0 then [] else [(o.kind.act, l.place, l.size)]

/-! ### Engine operations -/

/-- Aligned 8-byte words of a run of addresses, cut at its ends (R194): address and bytes. -/
def wordRuns : Nat → Nat → Nat → List (Nat × Nat)
  | 0, _, _ => []
  | fuel + 1, a, n =>
    if n = 0 then []
    else
      let k := min n (8 - a % 8)
      (a, k) :: wordRuns fuel (a + k) (n - k)

def wordsOf (a : Word) (n : Nat) : List (Word × Nat) := (wordRuns (n + 1) a.toNat n).map fun e => (wordOf e.1, e.2)

/-- An engine's access: whether it writes, its address, its bytes, and for a copy's destination the linear index of its end. -/
structure Touch where
  write : Bool
  addr : Word
  len : Nat
  upTo : Nat
deriving DecidableEq, Repr

def readsOf (a : Word) (n : Nat) : List Touch := (wordsOf a n).map fun e => ⟨false, e.1, e.2, 2 ^ 64⟩
def writesOf (a : Word) (n : Nat) : List Touch := (wordsOf a n).map fun e => ⟨true, e.1, e.2, 2 ^ 64⟩

/-- Destination words of a copy from linear index `i` to `j` (R146, R194). -/
def Copy.wrote (c : Copy) : Nat → Nat → Nat → List Touch
  | 0, _, _ => []
  | fuel + 1, i, j =>
    if j ≤ i then []
    else
      let r := c.dstRun i
      let a := c.dstAddr i
      let n := min (min (8 - a.toNat % 8) (r.first + r.len - i)) (j - i)
      ⟨true, a, n, i + n⟩ :: Copy.wrote c fuel (i + max n 1) j

/-- And the source words that they need. -/
def Copy.readFor (c : Copy) (i j : Nat) : List Touch :=
  ((c.needs i (j - i)).map fun k =>
    let r := c.srcRun k
    let a := r.addr + wordOf (k - r.first)
    (a.toNat / 8)).dedup.map fun w => ⟨false, wordOf (8 * w), 8, 2 ^ 64⟩

/-- What a copy has done between two fill pointers. -/
def Copy.touches (c : Copy) (i j : Nat) : List Touch := if j ≤ i then [] else c.readFor i j ++ c.wrote (j - i + 1) i j

/-- Vault operands of a multiply (R348 to R351): format block, codebooks and scales, A in the vault, B's blocks. -/
def MatOp.mulTouches (o : MatOp) (f : FmtBlock) (walk : Bool) : List Touch :=
  let nk := geoNk o.geo
  let side (x : FmtSide) (n : Nat) : List Touch :=
    (if x.fmt = 3 then readsOf (wordOf x.cb) 32 else []) ++ if x.sk = 0 then [] else readsOf (wordOf x.sc) (x.scaleSize * n)
  let blocks := (o.list.map fun e => e % passedOver).dedup
  let scaleB := 32 * (32 / f.b.block) * nk
  readsOf o.fbk 32 ++ side f.a o.fa.scales.length ++ (if f.b.fmt = 3 then readsOf (wordOf f.b.cb) 32 else []) ++
  (if f.b.sk = 0 then [] else blocks.flatMap fun b => readsOf (wordOf (f.b.sc + f.b.scaleSize * (b * scaleB))) (f.b.scaleSize * scaleB)) ++
  (if o.av then (upTo 32).flatMap fun m =>
    readsOf (o.a + wordOf (m * geoPa o.geo)) (fmtBytes f.a.fmt (32 * nk * if walk then o.list.length else 1)) else []) ++
  blocks.flatMap fun b =>
    let base := o.b + o.bstr * wordOf b
    if o.bt then (upTo 32).flatMap fun n => readsOf (base + wordOf (n * geoPb o.geo)) (fmtBytes f.b.fmt (32 * nk))
    else (upTo (32 * nk)).flatMap fun k => readsOf (base + wordOf (k * geoPb o.geo)) (fmtBytes f.b.fmt 32)

/-- Vault accesses of an array operation (R183, R354 to R356). -/
def State.matTouches (s : State) (g : Gang) (o : MatOp) : List Touch :=
  match o.kind with
  | .mul _ walk _ _ => o.mulTouches (s.readFmt g o.fbk) walk
  | .topk _ _ k => (upTo 32).flatMap fun m => readsOf (o.a + wordOf (256 * m)) (8 * k) ++ writesOf (o.a + wordOf (256 * m)) (8 * k)
  | .mzld t => (upTo 32).flatMap fun m => readsOf (o.a + o.b * wordOf m) (32 * tileElem t)
  | .mzst t => (upTo 32).flatMap fun m => writesOf (o.a + o.b * wordOf m) (32 * tileElem t)
  | .mzmv _ _ _ | .mzclr _ => []

/-- Accesses of an `MVN` (R357): format block, scales, weights, x, and y. -/
def State.mvnTouches (s : State) (g : Gang) (m : MvnOp) : List Touch :=
  let o := m.op
  let f := s.readFmt g o.fbk
  let side (x : FmtSide) (n : Nat) : List Touch :=
    (if x.fmt = 3 then readsOf (wordOf x.cb) 32 else []) ++ if x.sk = 0 then [] else readsOf (wordOf x.sc) (x.scaleSize * n)
  readsOf o.fbk 32 ++ side f.a o.fa.scales.length ++ side f.b o.fb.scales.length ++
  ((upTo m.rows).flatMap fun r => readsOf (o.a + wordOf (r * m.pitch)) (fmtBytes f.a.fmt m.klen)) ++
  readsOf o.b (fmtBytes f.b.fmt m.klen) ++ (if m.acc then readsOf m.y (4 * m.rows) else []) ++ writesOf m.y (4 * m.rows)

/-- Places of an engine's accesses: virtual addresses under the tables in force. -/
def State.touchPlace (s : State) (v : Nat) (g : Gang) (t : Touch) : Option Place :=
  match (s.engResolve v g t.addr t.len (if t.write then Acc.write else Acc.read)).1 with
  | .local p => some p
  | .pod d off => some (.pod d off)
  | _ => none

/-- A run of bytes at a place in aligned 8-byte words (R194). -/
def Place.pieces (p : Place) (n : Nat) : List (Place × Nat) := (wordRuns (n + 1) p.num n).map fun e => (p.add (e.1 - p.num), e.2)

/-- Words of owned cells that a face copy reads (R162). -/
def State.faceCells (s : State) (b : Binding) (f : Nat) : List (Place × Nat) :=
  let g := b.d
  let k := f / 2
  (upTo (g.layers (oppositeFace f))).flatMap fun l =>
    (upTo (g.b ((others f).getD 1 0))).flatMap fun j =>
      (upTo (g.b ((others f).getD 0 0))).flatMap fun i =>
        let q (n : Nat) := if n = k then (if f % 2 = 0 then l else g.b k - 1 - l) else if n = (others f).getD 0 0 then i else j
        match s.bindPlace b (g.owned 0 (q 0) (q 1) (q 2)) with
        | some p => p.pieces (g.e * g.ncomp)
        | none => []

/-- The ghost words and the tag that a data message writes (R162, R165). -/
def State.haloWrites (s : State) (b : Binding) (imm : Word) (step n : Nat) : List (Place × Nat) :=
  let g := b.d
  let f := fld imm 29 3
  let p := g.parity step
  let off := 64 * fld imm 0 16
  let data := match s.bindPlace b (g.buffer f p + off) with
    | some q => q.pieces (min n (g.frame f - off))
    | none => []
  data ++ if fld imm 26 1 = 1 then ((s.bindPlace b (g.toff + 8 * (2 * f + p))).map fun q => (q, 8)).toList else []

/-! ### Replayed records (R64, R183) -/

/-- What a halo message does where its binding stands: data and tag, or the credit word (R164, R165). -/
def State.haloTouches (s : State) (v : Nat) (p : Packet) (within : Option Nat) (okind : Nat) : List (OAct × Place × Nat) :=
  match s.haloTarget v p.imm p.svch within okind with
  | none => []
  | some b =>
    if 6 ≤ fld p.imm 29 3 then []
    else if haloKind p.imm = 0 then (s.haloWrites b p.imm p.oparg p.payload.length).map fun e => (.write, e.1, e.2)
    else ((s.bindPlace b (b.d.toff + 8 * (12 + fld p.imm 29 3))).map fun q => (OAct.write, q, 8)).toList

/-- The node that a `RENQ` writes first (R334). -/
def State.nodeTouch (s : State) (v : Nat) (p : Packet) : List (OAct × Place × Nat) :=
  match s.offsetPlace v (fld p.imm 0 40) ⟨false, false, false⟩ with
  | .ok q => [(.write, q, 8)]
  | .error _ => []

/-- What a deferred packet does at its home. -/
def State.recordTouches (s : State) (v : Nat) (p : Packet) : List (OAct × Place × Nat) :=
  let run (act : OAct) (n : Nat) : List (OAct × Place × Nat) :=
    match s.offsetRuns v p.offset n ⟨false, false, false⟩ with
    | .ok rs => rs.map fun r => (act, r.1, r.2)
    | .error _ => []
  match p.typ with
  | 1 => run .write p.nbytes
  | 2 => run .read (min p.oparg 960)
  | 4 =>
    match p.aop with
    | 8 | 9 => run .write 16
    | 10 => run .rmw (8 * p.oparg)
    | 11 => s.nodeTouch v p
    | 12 => []
    | _ => run .rmw (((Ty.ofCode p.atype).map fun t => t.width / 8).getD 8)
  | 7 => s.haloTouches v p none 0
  | _ => []

/-- The access of a remote operation that its home makes next: a hop; TAIL, then HEAD or the link of the node before, if it can be
written (R334, R335). -/
def State.jobTouch (s : State) (v : Nat) (j : AgentJob) : List (OAct × Place × Nat) :=
  if j.pkt.aop ≠ 11 then [(.rmw, j.place, 8)]
  else if j.step = 1 then [(.rmw, j.place.add 8, 8)]
  else if j.found == 0 then [(.write, j.place, 8)]
  else if fld j.found 0 3 ≠ 0 then []
  else
    match s.agentPlace v (fld j.found 0 40) 8 Acc.write with
    | .ok q => if s.badLine q 8 then [] else [(.write, q, 8)]
    | .error _ => []

/-- Its accesses to its end, at most `n`. -/
def State.jobTouches (s : State) (v : Nat) (j : AgentJob) : Nat → List (OAct × Place × Nat)
  | 0 => []
  | n + 1 => s.jobTouch v j ++
      match s.jobStep v j with
      | .more k s => if k == j then [] else State.jobTouches s v k n
      | .done _ _ => []

end Sys2Proof.Machine
end

