-- ==== Sys2Proof/Machine/Trace.lean ====
section
/-! DEFINITION. The execution that a run of the machine is (R183 to R186, R190 to R192, R195, R196): the events of its agents, program
order, engine order, `FENCE.X` order and the pairs that the device makes, step by step. What the reads return (rf), the order of the
writes to a byte (co) and the dependences stay the candidate's, for the axioms of R193 to judge (log entry 99). -/

namespace Sys2Proof.Machine

/-! ### What a trace holds -/

/-- An event, the instruction or the engine operation that it belongs to, the slot of its vchip, the linear index of its end for a
copy's destination, the page of its address where it was translated, and the SEQ of the packet that carried it. -/
structure TEvent where
  ev : OEvent
  node : Option Nat
  eng : Option Nat
  slot : Nat
  upTo : Nat
  page : Option Nat
  seq : Option Nat
deriving DecidableEq, Repr

/-- An event of an instruction, of an engine operation, of a device context or the host. -/
def TEvent.ofNode (n slot : Nat) (ev : OEvent) : TEvent := ⟨ev, some n, none, slot, 0, none, none⟩
def TEvent.ofEngine (k slot upTo : Nat) (seq : Option Nat) (ev : OEvent) : TEvent := ⟨ev, none, some k, slot, upTo, none, seq⟩
def TEvent.ofDevice (slot : Nat) (ev : OEvent) : TEvent := ⟨ev, none, none, slot, 0, none, none⟩

/-- An instruction of a warp, with those before it in program order, and whether it is a `FENCE.X`. -/
structure TNode where
  warp : Nat
  slot : Nat
  launch : Nat
  preds : List Nat
  fenceX : Bool
deriving DecidableEq, Repr

/-- Which operation an engine record is about. -/
inductive EngKey where
  | copy (id : Nat)
  | mat (id : Nat)
  | mvn (id : Nat)
  | post (id : Nat)
  | publish (id : Nat)
  | psend (warp f : Nat)
deriving DecidableEq, Repr

/-- An engine operation, or a `PSEND`: the instruction that issued it, its warp, handle and channel. -/
structure TEng where
  key : EngKey
  node : Nat
  warp : Nat
  f : Nat
  slot : Nat
  chan : Option Nat
  agent : OAgent
deriving DecidableEq, Repr

/-- An instruction that observed an engine operation, up to a linear index (R190). -/
structure TSeen where
  node : Nat
  eng : Nat
  upTo : Nat
deriving DecidableEq, Repr

/-- A barrier object: what the present phase has counted, and the completed ones by number (R151). -/
structure TBar where
  now : List Nat
  past : List (Nat × List Nat)
deriving DecidableEq, Repr

/-- A publish (R162). -/
structure TPub where
  event : Nat
  slot : Nat
  gridid : Nat
  okind : Nat
  gang : Nat
  owner : Nat
  step : Nat
deriving DecidableEq, Repr

/-- The trace of a run. -/
structure Trace where
  events : List TEvent
  nodes : List TNode
  reach : KMap (List (Nat × Mask))  -- by warp: instructions, and the lanes whose next events follow them (R184)
  ops : List (Nat × Nat × Nat)      -- warp, memory operation, its instruction
  engs : List TEng
  seen : List TSeen
  bars : KMap TBar                  -- by 16-byte vault block
  pubs : List TPub
  ports : KMap (List Nat)           -- by slot: the release behind each submission that the scheduler has not read
  starts : List (Nat × Nat × Nat)   -- slot, launch, an event that its warps' first instructions follow
  keys : List (Nat × Word × Nat × Nat)  -- slot, key, the warp that released it, the release
  waits : List (Nat × Nat)          -- warp, a task's warp that its `BOP` has waited for (R180)
  zeros : List (Nat × Nat)          -- gang, a write of the zeros that a `YIELD`-form save has left (R109, R198)
  sync : Rel
deriving DecidableEq, Repr

def Trace.empty : Trace := ⟨[], [], [], [], [], [], [], [], [], [], [], [], [], []⟩

/-- One more event, and its number. -/
def Trace.add (t : Trace) (e : TEvent) : Nat × Trace := (t.events.length, { t with events := t.events ++ [e] })

def Trace.addAll (t : Trace) (es : List TEvent) : Trace := { t with events := t.events ++ es }

/-- Events before the next one that `which` selects go before the event `n`. -/
def Trace.join (t : Trace) (which : Nat → TEvent → Bool) (n : Nat) : Trace :=
  { t with sync := t.sync ++ (t.events.zipIdx.filter fun e => e.2 < n && which e.2 e.1).map fun e => (e.2, n) }

/-! ### Program order (R184) -/

/-- A new instruction of a warp's path with lanes `m`: it follows every instruction that one of its lanes follows, and what its lanes do
next follows those and it. -/
def Trace.newNode (t : Trace) (wid slot launch : Nat) (m : Mask) : Nat × Trace :=
  let n := t.nodes.length
  let rs := KMap.get t.reach [] wid
  let preds := (rs.filter fun r => r.2 &&& m != 0).map (·.1)
  let grown := rs.map fun r => if r.2 &&& m != 0 then (r.1, r.2 ||| m) else r
  (n, { t with nodes := t.nodes ++ [⟨wid, slot, launch, preds, false⟩], reach := KMap.set t.reach [] wid (grown ++ [(n, m)]) })

/-- Every lane of `m` follows what one of them follows: the inverses of an abort and the path at its target follow every event of the
task. -/
def Trace.gather (t : Trace) (wid : Nat) (m : Mask) : Trace :=
  { t with reach := KMap.set t.reach [] wid ((KMap.get t.reach [] wid).map fun r => if r.2 &&& m != 0 then (r.1, r.2 ||| m) else r) }

/-- The slots that a warp takes, in units of 8 lanes. -/
def Warp.span (w : Warp) : Nat × Nat := (w.number, w.number + max (w.width / 8) 1)

/-- Two warps of a gang stand on common lanes of a core. -/
def Warp.meets (w x : Warp) : Bool :=
  w.id.gang == x.id.gang && w.id.core == x.id.core && w.span.1 < x.span.2 && x.span.1 < w.span.2

/-- A warp that a width change has made follows every event of the warps it was made from. -/
def Trace.inherit (t : Trace) (before : State) (wid : Nat) (w : Warp) : Trace :=
  let from' := (before.work.warps.filter fun e => e.2.meets w).map (·.1)
  let ns := (from'.flatMap fun x => (KMap.get t.reach [] x).map (·.1)).dedup
  { t with reach := KMap.set t.reach [] wid (ns.map fun n => (n, fullMask 128)) }

/-! ### An instruction's events -/

def Trace.nodeEvent (t : Trace) (s : State) (w : Warp) (wid n : Nat) (act : OAct) (kind : OKind) (scope : Scope) : Nat × Trace :=
  t.add (.ofNode n (s.slotOf w) ⟨s.agentOfWarp (warpAgent wid) w, act, kind, scope, .home, 0, 0⟩)

/-- A mark of an instruction's warp that everything selected goes before. -/
def Trace.acquire (t : Trace) (s : State) (w : Warp) (wid n : Nat) (scope : Scope) (which : Nat → TEvent → Bool) : Trace :=
  let (e, t) := t.nodeEvent s w wid n .mark .acquire scope
  t.join which e

/-- The handles that an instruction observes, with the index below which it does (R190): those whose engine writes, had they not landed,
would go before what its lanes do next. -/
def State.observes (s : State) (wid : Nat) (i : Instr) : List (Nat × Nat) :=
  match s.warp? wid with
  | none => []
  | some w =>
    let probe (f n : Nat) : Landing := ⟨none, .vault 0 0, [], f, n, 0⟩
    let ps := (upTo 16).flatMap fun f => [probe f (w.handle f).fill, probe f (2 ^ 63)]
    match exec i (s.setWarp wid { w with work := { w.work with landing := ps } }) with
    | .next r =>
      match r.warp? wid with
      | none => []
      | some x => (ps.filter fun p => !x.work.landing.contains p).map fun p => (p.f, p.upTo)
    | _ => []

/-- The engine operation that a handle stands for: the one issued last. -/
def Trace.ofHandle (t : Trace) (wid f : Nat) : Option Nat :=
  ((t.engs.zipIdx.filter fun e => e.1.warp == wid && e.1.f == f).getLast?).map (·.2)

/-- Operations that an instruction of warp `wid` has issued. -/
def State.issuedEngines (a b : State) (wid : Nat) : List (EngKey × Nat × Option Nat) :=
  let w := b.work
  let copies := (w.copies.filter fun e => a.work.nextCopy ≤ e.1 && e.2.warp == wid).map fun e =>
    (EngKey.copy e.1, e.2.f, some e.2.channel)
  let mats := w.arrays.flatMap fun c => (c.2.filter fun o => a.work.nextMat ≤ o.id && o.warp == wid).map fun o =>
    (EngKey.mat o.id, o.f, some (arrayChannel c.1))
  let mvns := (w.mvns.filter fun e => a.work.nextMat ≤ e.1 && e.2.op.warp == wid).map fun e => (EngKey.mvn e.1, e.2.op.f, none)
  let posts := (w.posts.filter fun e => a.work.nextPost ≤ e.1 && e.2.warp == wid).map fun e => (EngKey.post e.1, e.2.f, none)
  let pubs := (w.publishes.filter fun e => a.work.nextPublish ≤ e.1 && e.2.warp == wid).map fun e => (EngKey.publish e.1, e.2.f, none)
  copies ++ mats ++ mvns ++ posts ++ pubs

def Trace.addEngines (t : Trace) (s : State) (w : Warp) (wid n : Nat) (ks : List (EngKey × Nat × Option Nat)) : Trace :=
  ks.foldl (fun (t : Trace) (k : EngKey × Nat × Option Nat) => { t with engs := t.engs ++
    [⟨k.1, n, wid, k.2.1, s.slotOf w, k.2.2, s.agentOfWarp (engineAgent t.engs.length) w⟩] }) t

/-- The path of an instruction has left it, with no trap. -/
def leftPath (a b : State) (wid i : Nat) : Bool :=
  match a.warp? wid, b.warp? wid with
  | some x, some y =>
    x.trap.level == y.trap.level &&
      (match y.path? i with
        | some p => p.hold.isNone && some p != x.path? i
        | none => true)
  | _, none => true
  | none, _ => false

/-- An access whose entry an invalidation removes (R77). -/
def TEvent.covered (e : TEvent) (v : Nat) (i : Inv) : Bool := e.slot == v && e.page.any i.coversPage

/-- The owners whose publish of a step a ghost read of the faces `fs` acquires (R162, R167). -/
def Binding.publishers (b : Binding) (fs : List Nat) : List Nat :=
  fs.filterMap fun f => if b.d.suppliedEdge b.owner f then some b.owner else b.d.neighbour b.owner f

/-- The scope of a binding's publishes (R162). -/
def Binding.scope (b : Binding) : Scope := if b.d.okind = 0 then .gang else .pod

/-- The releases that a read of these faces at step `m` acquires. -/
def Trace.published (t : Trace) (b : Binding) (fs : List Nat) (m : Nat) : List Nat :=
  (t.pubs.filter fun p => p.gridid == b.d.gridid && p.okind == b.d.okind && p.step == m &&
    (b.d.okind != 0 || p.gang == b.gang) && (b.publishers fs).contains p.owner).map (·.event)

/-- Every release of the list goes before event `n`. -/
def Trace.after (t : Trace) (rs : List Nat) (n : Nat) : Trace := { t with sync := t.sync ++ rs.map fun e => (e, n) }

/-- A ghost read of face `f`: an acquire of the publishes behind its tag (R167). -/
def Trace.ghostRead (t : Trace) (s : State) (w : Warp) (wid n : Nat) (b : Binding) (m f off : Nat) : Trace :=
  match s.bindPlace b off with
  | none => t
  | some p =>
    let (e, t) := t.add (.ofNode n (s.slotOf w) (s.access (s.agentOfWarp (warpAgent wid) w) (s.slotOf w) 0 .read .acquire b.scope p b.d.e))
    t.after (t.published b [f] m) e

/-- What a publish itself writes: its word, and the tags of owner-supplied faces (R162). Its release goes before them. -/
def Trace.publishWrites (t : Trace) (s : State) (w : Warp) (wid n : Nat) (b : Binding) (m e : Nat) (d : Nat) : Trace :=
  let ag := s.agentOfWarp (engineAgent t.engs.length) w
  let (k, t) := match t.engs.zipIdx.find? fun x => x.1.node == n with
    | some (_, k) => (k, t)
    | none => (t.engs.length, { t with engs := t.engs ++ [⟨.publish (2 ^ 64), n, wid, d, s.slotOf w, none, ag⟩] })
  let is := 18 :: ((upTo 6).filter fun f => b.d.suppliedEdge b.owner f).map fun f => 2 * f + b.d.parity m
  is.foldl (fun t i =>
    match s.bindPlace b (b.d.toff + 8 * i) with
    | none => t
    | some p =>
      let (x, t) := t.add (.ofEngine k (s.slotOf w) (2 ^ 64) none (s.access ag (s.slotOf w) 0 .write .plain .plain p 8))
      t.after [e] x) t

/-- A `BOP` that completes acquires the keys that it has taken, and what the tasks that it has waited for have released (R180). -/
def Trace.bopEvent (t : Trace) (a b : State) (w : Warp) (wid n : Nat) : Trace :=
  let mine (s : State) (key : Word) : Bool := s.dies.dirs.any fun d => d.warp == wid && d.key == key
  let new := (b.dies.dirs.filter fun d => d.warp == wid && !mine a d.key).map fun d => (d.slot, d.key)
  let rel := t.keys.filter fun k => new.contains (k.1, k.2.1) || t.waits.contains (wid, k.2.2.1)
  let (e, t) := t.nodeEvent a w wid n .mark .acquire .vchip
  { t.after (rel.map (·.2.2.2)) e with waits := t.waits.filter fun x => x.1 != wid }

/-- A completed instruction's own events and the pairs that it stands in (R183, R196); one whose guard leaves no lane has none. -/
def Trace.ownEvents (t : Trace) (a b : State) (x : Ictx) (n : Nat) (i : Instr) : Trace :=
  let wid := x.c.warp
  let v := x.v
  let binding (slot : Nat) := a.binding? x.g x.w.id.gang x.w.id.wg slot
  let on (g : Guard) (u : Trace) : Trace := if x.lanes g = 0 then t else u
  match i with
  | .fence g sc => on g (t.nodeEvent a x.w wid n .fence .fence sc).2
  | .fenceX g => on g <|
    let t := { t with nodes := setAt t.nodes n { t.nodes.getD n ⟨0, 0, 0, [], false⟩ with fenceX := true } }
    (t.nodeEvent a x.w wid n .fenceX .plain .plain).2
  | .tlbi g p q => on g <|
    let ext := x.uni .b64 q
    let inv : Inv := ⟨.tlbi wid x.c.path, fld (x.uni .b64 p) 12 52, fld ext 0 32, fld ext 63 1 == 1, false, []⟩
    let (e, t) := t.nodeEvent a x.w wid n .mark .acqRel .sys
    t.join (fun _ f => f.covered v inv) e
  | .barw g _ d p q => on g <|
    match x.g.vaultPlace (x.uni .b64 p) 16 with
    | .ok ⟨.vault core off, _, _, _⟩ =>
      if ((b.warp? wid).map fun y => y.sreg d) = some 0 then
        let past := (KMap.get t.bars ⟨[], []⟩ (barBlock core off)).past
        let counted := ((past.reverse.find? fun e => e.1 == fld (x.uni .b64 q) 0 15).map (·.2)).getD []
        t.acquire a x.w wid n .gang fun i _ => counted.contains i
      else t
    | _ => t
  | .hpub g d slot q => on g <|
    match binding slot with
    | none => t
    | some bd =>
      let m := (x.index 0 q).toNat
      let (e, t) := t.nodeEvent a x.w wid n .mark .release bd.scope
      let t := t.publishWrites a x.w wid n bd m e d
      { t with pubs := t.pubs ++ [⟨e, v, bd.d.gridid, bd.d.okind, bd.gang, bd.owner, m⟩] }
  | .ldg g ty _ slot q c =>
    match binding slot with
    | none => t
    | some bd =>
      let m := (x.src ty 0 c).toNat
      (Mask.lanes (x.lanes g)).foldl (fun t l =>
        match bd.resolve (x.src .b64 l q) m with
        | .ghost f _ off => t.ghostRead a x.w wid n bd m f off
        | _ => t) t
  | .hwait g slot q => on g <|
    match binding slot with
    | none => t
    | some bd =>
      let faces := (upTo 6).filter fun f => bd.d.receives bd.owner f || bd.d.supplies bd.owner f
      let rel := t.published bd faces (x.index 0 q).toNat
      t.acquire a x.w wid n bd.scope fun i _ => rel.contains i
  | .bop g _ _ _ _ _ => on g <|
    if ((b.warp? wid).map fun y => y.task.st == .active).getD false then t.bopEvent a b x.w wid n else t
  | .launch _ _ _ _ =>
    if (a.slot v).win.port.length < (b.slot v).win.port.length then
      let (e, t) := t.nodeEvent a x.w wid n .mark .release .vchip
      { t with ports := KMap.set t.ports [] v (KMap.get t.ports [] v ++ [e]) }
    else t
  | .psend g _ d _ _ _ => on g { t with engs := t.engs ++ [⟨.psend wid d, n, wid, 16, v, none, a.agentOfWarp (warpAgent wid) x.w⟩] }
  | .precv g _ p q => on g <|
    match a.validLog? v with
    | none => t
    | some cb =>
      let r := a.msgRing cb
      match a.oldest? v r with
      | none => t
      | some pos =>
        let ws := a.recordAt v r pos
        let no := appendNo (a.podName v).2 (fld (recWord ws 0) 44 10) (fld (recWord ws 0) 36 8) (fld (recWord ws 0) 12 24)
        let ag := a.agentOfWarp (warpAgent wid) x.w
        let put := min (fld (recWord ws 2) 46 10) (min (x.uni .b64 q).toNat 960)
        let t := t.addAll [.ofNode n v ⟨ag, .read, .acquire, .pod, .home, no, 1⟩]
        match x.g.vaultPlace (x.uni .b64 p) put with
        | .ok d => t.addAll ((d.place.pieces put).map fun e => .ofNode n v (a.access ag v 0 .write .plain .plain e.1 e.2))
        | .error _ => t
  | _ => t

/-- An instruction of path `i` of warp `wid` took the machine from `a` to `b`. -/
def Trace.instruction (t : Trace) (a b : State) (wid i : Nat) (ins : Instr) : Trace :=
  match a.ictx? with
  | none => t
  | some x =>
    let (n, t) := t.newNode wid x.v x.g.launch (x.w.active i)
    let news := ((b.warp? wid).map fun y => (y.work.ops.filter fun o => x.w.work.nextOp ≤ o.id).map (·.id)).getD []
    let t := { t with ops := t.ops ++ news.map fun o => (wid, o, n) }
    let t := { t with seen := t.seen ++ (a.observes wid ins).filterMap fun (e : Nat × Nat) =>
      (t.ofHandle wid e.1).map fun k => TSeen.mk n k e.2 }
    let t := t.addEngines a x.w wid n (a.issuedEngines b wid)
    if leftPath a b wid i then t.ownEvents a b x n ins else t

/-! ### Performing -/

/-- Events in which local accesses of warps are performed. -/
def performs : Instr → Bool
  | .loadComplete _ _ _ | .storePerformed _ _ _ | .atomicPerformed _ _ _ | .fadddArrive _ _ _ | .barrierArrivalApply _ _ _ => true
  | _ => false

/-- A lane of an operation in a later state. -/
def State.laneAt (s : State) (wid op lane : Nat) : Option LaneOp :=
  (s.warp? wid).bind fun w => (w.work.ops.find? fun o => o.id == op).bind fun o => o.lanes[lane]?

/-- The lane has been performed, or has taken a step. -/
def laneMoved (o : MemOp) (l : LaneOp) (now : Option LaneOp) : Bool :=
  match now with
  | none => true
  | some q => q.done || (o.kind.isAtomic && q != l)

/-- The slot that a lane reaches: in this module, where it lies. -/
def State.slotPlace (s : State) (v : Nat) (l : LaneOp) : Place := s.podHome v l.place

/-- The contribution that clears ACT of a slot is the release of it (R196). -/
def closesSlot (a b : State) (v : Nat) (o : MemOp) (l : LaneOp) : Bool :=
  match o.kind, a.slotPlace v l with
  | .faddd _, .pod _ _ => false
  | .faddd _, p => (a.readSlot p).act && !(b.readSlot p).act
  | _, _ => false

/-- A lane's events, as its instruction's. The release of a slot that pod accesses have reached is one at `.pod` (R196). -/
def Trace.laneEvents (t : Trace) (a b : State) (wid : Nat) (w : Warp) (o : MemOp) (l : LaneOp) (n : Nat) (seq : Option Nat)
    (vals : List Word) : Trace :=
  let v := a.slotOf w
  let ag := a.agentOfWarp (warpAgent wid) w
  let stream := a.streamOf w
  let closing := closesSlot a b v o l
  let at' := (a.slotPlace v l).byteNo
  let fromPod := t.events.any fun e => e.ev.addr == at' && e.ev.len == 16 && (match e.ev.space with | .stream _ => true | _ => false)
  let addr := o.target l
  let page := if o.translated addr l.place && !inPodWindow addr then some (addr.toNat / 4096) else none
  let scope : Scope := if !closing then o.scopeAt l else if l.place.isPod || fromPod then .pod else .vchip
  let kind : OKind := if closing then .release else o.kindAt l
  let n0 := t.events.length
  let t := t.addAll ((a.laneTouches v o l vals).map fun e =>
    { TEvent.ofNode n v (a.access ag v stream e.1 kind scope e.2.1 e.2.2) with page := page, seq := seq })
  let t := if closing then t.join (fun _ e => e.ev.act == .write && e.ev.strong && e.ev.addr == at' && e.ev.len == 16) n0 else t
  match o.kind, l.place with
  | .bari, .vault core off => { t with bars := KMap.set t.bars ⟨[], []⟩ (barBlock core off) ⟨[], []⟩ }
  | .bara, .vault core off =>
    let (e, t) := t.nodeEvent a w wid n .mark .release .gang
    let k := barBlock core off
    let bar := KMap.get t.bars ⟨[], []⟩ k
    { t with bars := KMap.set t.bars ⟨[], []⟩ k { bar with now := bar.now ++ [e] } }
  | _, _ => t

/-- Local lanes performed in a step; held contributions of a slot are performed by the arrival of another's packet too (R143). -/
def Trace.lanes (t : Trace) (a b : State) (i : Instr) : Trace :=
  a.work.warps.foldl (fun t e => e.2.work.ops.foldl (fun t o =>
    if !performs i && !(o.kind.isDet && i == .agentDeterministicAdd) then t
    else
      match (t.ops.find? fun p => p.1 == e.1 && p.2.1 == o.id).map (·.2.2) with
      | none => t
      | some n => o.lanes.zipIdx.foldl (fun t l =>
        if !l.1.done && !l.1.place.isPod && laneMoved o l.1 (b.laneAt e.1 o.id l.2) then t.laneEvents a b e.1 e.2 o l.1 n none [] else t) t) t) t

/-! ### Engine operations (R183, R190) -/

/-- Accesses of an engine operation to this module's memory, or to the host's, as its events; those to pod space are its packets'. -/
def Trace.engTouches (t : Trace) (s : State) (k : Nat) (e : TEng) (g : Gang) (ts : List Touch) : Trace :=
  let stream := ((s.warp? e.warp).map s.streamOf).getD 0
  t.addAll (ts.filterMap fun x => (s.touchPlace e.slot g x).bind fun p => if p.isPod then none else
    some { TEvent.ofEngine k e.slot x.upTo none (s.access e.agent e.slot stream (if x.write then .write else .read) .plain .plain p x.len) with
      page := if isVaultAddr x.addr || inPodWindow x.addr then none else some (x.addr.toNat / 4096) })

def Trace.engPlaces (t : Trace) (s : State) (k : Nat) (e : TEng) (act : OAct) (ps : List (Place × Nat)) : Trace :=
  t.addAll (ps.map fun p => .ofEngine k e.slot (2 ^ 64) none (s.access e.agent e.slot 0 act .plain .plain p.1 p.2))

/-- The fill pointer that a copy has reached: one that has ended without an error has delivered every byte. -/
def State.filled (a b : State) (c : Copy) : Nat :=
  match KMap.find? b.work.copies c.id with
  | some d => d.fill
  | none =>
    match b.warp? c.warp with
    | some w => let h := w.handle c.f; if h.st == .done && (h.status == 0 || h.status == 5) then c.len else c.fill
    | none => let _ := a; c.len

/-- Beats of a copy, its operation `k`, up to fill pointer `f` that its barrier counts go to its present phase (R151, R190). -/
def Trace.countBeats (t : Trace) (c : Copy) (k f : Nat) : Trace :=
  match c.barrier with
  | none => t
  | some addr =>
    match c.gang.vaultPlace addr 16 with
    | .ok ⟨.vault core off, _, _, _⟩ =>
      let key := barBlock core off
      let bar := KMap.get t.bars ⟨[], []⟩ key
      let beat (e : TEvent) : Bool := e.eng == some k && e.ev.writes && c.fill < e.upTo && e.upTo ≤ f
      { t with bars := KMap.set t.bars ⟨[], []⟩ key { bar with
          now := bar.now ++ (t.events.zipIdx.filter fun e => beat e.1).map (·.2) } }
    | _ => t

def Trace.copies (t : Trace) (a b : State) : Trace :=
  a.work.copies.foldl (fun t e =>
    let f := State.filled a b e.2
    if f ≤ e.2.fill then t
    else match (t.engs.zipIdx.find? fun x => x.1.key == .copy e.1) with
      | none => t
      | some (x, k) => (t.engTouches a k x e.2.gang (e.2.touches e.2.fill f)).countBeats e.2 k f) t

/-! ### Packets (R38, R183, R195) -/

/-- Bytes of pod space that a packet of an engine operation reads or writes, in its stream. -/
def Trace.podRun (t : Trace) (s : State) (k : Nat) (e : TEng) (id : StreamId) (seq : Nat) (act : OAct) (off n first : Nat) : Trace :=
  t.addAll ((wordRuns (n + 1) off n).map fun r =>
    .ofEngine k e.slot (if act == .write then first + (r.1 + r.2 - off) else 2 ^ 64) (some seq)
      (s.access e.agent id.slot id.stream act .plain .plain (.pod id.dvch r.1) r.2))

/-- A request of a stream has been executed at its home: the accesses of its lane or engine operation, or the append of a message. A remote
operation of several accesses has made its own. -/
def Trace.packet (t : Trace) (a b : State) (id : StreamId) (p : Sent) : Trace :=
  let eng (key : EngKey) (body : TEng → Nat → Trace) : Trace :=
    match t.engs.zipIdx.find? fun x => x.1.key == key with
    | some (e, k) => body e k
    | none => t
  let run (key : EngKey) (first : Nat) : Trace := eng key fun e k =>
    if p.pkt.typ = 2 then t.podRun a k e id p.seq .read p.pkt.offset (min p.pkt.oparg 960) first
    else t.podRun a k e id p.seq .write p.pkt.offset p.pkt.nbytes first
  match p.origin with
  | .none => t
  | .lane w op l =>
    match (t.ops.find? fun q => q.1 == w && q.2.1 == op).map (·.2.2), a.warp? w, a.laneAt w op l with
    | some n, some x, some q =>
      match x.work.ops.find? fun o => o.id == op with
      | none => t
      | some o =>
        match o.kind with
        | .renq | .rchase _ _ => t
        | _ => t.laneEvents a b w x o q n (some p.seq) []
    | _, _, _ => t
  | .copy c first => run (.copy c) first
  | .post c off => run (.post c) off
  | .psend w f =>
    match (t.engs.zipIdx.filter fun e => e.1.key == .psend w f).getLast? with
    | none => t
    | some (e, _) => t.addAll [{ TEvent.ofNode e.node id.slot ⟨e.agent, .write, .relaxed, .pod, spaceOf id.slot id.stream (.pod id.dvch 0),
        appendNo id.dvch (a.podName id.slot).2 id.stream p.seq, 1⟩ with seq := some p.seq }]
  | .face c _ => eng (.publish c) fun e k =>
    t.addAll ((a.haloTouches p.pkt.dslot p.pkt none 0).map fun r =>
      .ofEngine k e.slot (2 ^ 64) (some p.seq)
        { a.access e.agent e.slot 0 r.1 .plain .plain r.2.1 r.2.2 with space := spaceOf id.slot id.stream (.pod id.dvch 0) })

/-- A packet whose home is a vchip of this module. -/
def Sent.here (s : State) (p : Sent) : Bool := p.pkt.dmod == s.coordN

/-- Requests that the homes of this module have executed in a step, in their own streams' order (R38); one whose destination fills its
receive log has been filed instead, but for a message, whose append it is (R62, R64). -/
def State.executed (a b : State) : List (StreamId × Sent) :=
  a.fabric.src.flatMap fun x => x.sent.filterMap fun p =>
    let filed := p.pkt.typ != 6 && (a.slot p.pkt.dslot).log.st != .running
    match b.dstStream? p.pkt.dstId with
    | none => none
    | some d =>
      if p.here a && !filed && seqExecuted d.expected p.seq && !seqExecuted (a.dstStream p.pkt.dstId).expected p.seq then some (x.id, p)
      else none

/-- Requests of other modules' homes that the step's acknowledgement covers, and that no answer follows. -/
def State.ackedAway (a b : State) : List (StreamId × Sent) :=
  a.fabric.src.flatMap fun x =>
    let left := ((b.srcStream? x.id).map (·.sent)).getD []
    let answered (p : Sent) : Bool := p.pkt.typ == 2 || ((b.srcStream? x.id).map fun y => y.await.any fun e => e.1 == p.seq).getD false
    (x.sent.filter fun p => !p.here a && !left.contains p && !answered p).map fun p => (x.id, p)

/-- The answer of another module's home to a read or an agent operation, without an error (R183). -/
def Trace.answer (t : Trace) (a b : State) : Trace :=
  match a.arrival with
  | none => t
  | some (_, p, _) =>
    if p.smod == a.coordN || p.oparg % 256 ≠ 0 then t
    else
      let id := answered p
      let eng (key : EngKey) (off n : Nat) : Trace :=
        match t.engs.zipIdx.find? fun x => x.1.key == key with
        | some (e, k) => t.podRun a k e id p.rseq .read off n 0
        | none => t
      match (a.takeOrigin id p.rseq).1 with
      | .lane w op l =>
        match (t.ops.find? fun q => q.1 == w && q.2.1 == op).map (·.2.2), a.warp? w, a.laneAt w op l with
        | some n, some x, some q =>
          match x.work.ops.find? fun o => o.id == op with
          | none => t
          | some o => t.laneEvents a b w x o q n (some p.rseq) (if p.typ == 5 then p.imm :: bytesWords p.payload else [])
        | _, _, _ => t
      | .copy c first =>
        match KMap.find? a.work.copies c with
        | some x => eng (.copy c) (fld (x.srcAddr first) 0 40) p.payload.length
        | none => t
      | .post c off =>
        match a.post? c with
        | some x => eng (.post c) (fld (x.addr + wordOf off) 0 40) p.payload.length
        | none => t
      | _ => t

/-- Remote operations at work in this module make their accesses, one in a turn of their own, the rest at once before a freeze (R40,
R334, R335): those of lanes of its own warps. -/
def Trace.jobs (t : Trace) (a b : State) (alone : Bool) : Trace :=
  b.fabric.dst.foldl (fun t d =>
    let was := (a.dstStream? d.id).bind (·.job)
    let v := d.id.slot
    let began := match d.job with
      | some j => if (was.map (·.pkt)) != some j.pkt && j.pkt.aop = 11 then [(j.pkt, a.nodeTouch v j.pkt)] else []
      | none => []
    let went := match was with
      | some j => if d.job == some j then [] else [(j.pkt, if alone then a.jobTouch v j else a.jobTouches v j 16)]
      | none => []
    (went ++ began).foldl (fun t e =>
      if e.1.smod != a.coordN then t
      else
        let from' : Option (StreamId × Origin) := (a.srcStream? ⟨e.1.sslot, e.1.dvch, e.1.stream⟩).bind fun x =>
          (x.sent.find? fun p => p.seq == e.1.seq).map fun p => (x.id, p.origin)
        match from' with
        | some (id, .lane w op l) =>
          match (t.ops.find? fun q => q.1 == w && q.2.1 == op).map (·.2.2), a.warp? w, a.laneAt w op l with
          | some n, some x, some q =>
            match x.work.ops.find? fun o => o.id == op with
            | none => t
            | some o => t.addAll (e.2.map fun r =>
                { TEvent.ofNode n id.slot { a.access (a.agentOfWarp (warpAgent w) x) v id.stream r.1 (o.kindAt q) (o.scopeAt q) r.2.1 r.2.2 with
                    space := spaceOf id.slot id.stream (.pod id.dvch 0) } with seq := some e.1.seq })
          | _, _, _ => t
        | _ => t) t) t

/-- What the packets of a step have done. -/
def Trace.packets (t : Trace) (a b : State) (i : Option Instr) : Trace :=
  if i == some .abandonConfirm then t
  else
    let t := t.jobs a b (i == none)
    let t := (a.executed b).foldl (fun t e => t.packet a b e.1 e.2) t
    match i with
    | some .ack => (a.ackedAway b).foldl (fun t e => t.packet a b e.1 e.2) t
    | some .readrsp | some .agentrsp => t.answer a b
    | _ => t

/-- Array operations, `MVN`s, face copies and posts, as the step's event performs them. -/
def Trace.engines (t : Trace) (a b : State) (i : Instr) : Trace :=
  let find (key : EngKey) := t.engs.zipIdx.find? fun x => x.1.key == key
  match i with
  | .matrixOpComplete core =>
    match a.arrayHead core with
    | none => t
    | some (o, _, g) =>
      if (KMap.get b.work.arrays [] core).any fun p => p.id == o.id then t
      else match find (.mat o.id) with
        | none => t
        | some (e, k) => t.engTouches a k e g (a.matTouches g o)
  | .mvnComplete id =>
    match KMap.find? a.work.mvns id, KMap.find? b.work.mvns id, find (.mvn id) with
    | some m, none, some (e, k) =>
      match (a.warp? m.op.warp).bind a.gangOf with
      | some g => t.engTouches a k e g (a.mvnTouches g m)
      | none => t
    | _, _, _ => t
  | .faceCopyStart id f =>
    match KMap.find? a.work.publishes id, KMap.find? b.work.publishes id, find (.publish id) with
    | some p, some q, some (e, k) =>
      match a.bindingOf p with
      | some bd => if p.waiting == q.waiting then t else t.engPlaces a k e .read (a.faceCells bd f)
      | none => t
    | _, _, _ => t
  | .ethernetPacketReceive ⟨m, _, _⟩ =>
    let post (id : Nat) (body : Post → TEng → Nat → Trace) : Trace :=
      match a.post? id, find (.post id) with
      | some p, some (e, k) => body p e k
      | _, _ => t
    match m with
    | .sent id => post id fun p e k =>
      if p.op == .read || p.sent || a == b then t else t.engTouches a k e p.gang (readsOf p.addr p.len)
    | .readData id off bs => post id fun p e k => if a == b then t else t.engTouches a k e p.gang (writesOf (p.addr + wordOf off) bs.length)
    | _ => t
  | _ => t

/-- Ghost words and tags that a data message within a vchip writes (R162, R165). -/
def Trace.halo (t : Trace) (a : State) (src : PktSrc) : Trace :=
  match src with
  | .sound n =>
    match a.fabric.sound[n]? with
    | some (p, .face id _) =>
      match t.engs.zipIdx.find? fun x => x.1.key == .publish id with
      | some (e, k) => t.addAll ((a.haloTouches p.dslot p (some p.offset) p.aop).map fun r =>
          .ofEngine k e.slot (2 ^ 64) none (a.access e.agent e.slot 0 r.1 .plain .plain r.2.1 r.2.2))
      | none => t
    | _ => t
  | _ => t

/-! ### Device contexts and the host (R183, R196) -/

def Trace.deviceEvent (t : Trace) (s : State) (v k : Nat) (act : OAct) (kind : OKind) (scope : Scope) (p : Option Place) (n : Nat) :
    Nat × Trace :=
  let ag := s.deviceAgent v k
  match p with
  | some p => t.add (.ofDevice v (s.access ag v 0 act kind scope p n))
  | none => t.add (.ofDevice v (markEvent ag kind scope))

/-- An event of one of these instructions, or of an engine operation that one of them has observed. -/
def Trace.covers (t : Trace) (mine : Nat → Bool) (e : TEvent) : Bool :=
  e.node.any mine || e.eng.any fun k => t.seen.any fun o => o.eng == k && (o.upTo == 2 ^ 63 || e.upTo ≤ o.upTo) && mine o.node

/-- Launches that left a slot's queues: the completion word is a release over the events of the launch's warps, which the launches that
depend on it acquire (R94, R96). -/
def Trace.completions (t : Trace) (a b : State) : Trace :=
  a.slots.foldl (fun t e =>
    e.2.sched.queues.foldl (fun t l =>
      if l.isReserve || ((b.slot e.1).launch? l.id).isSome then t
      else
        let cw := wordOf (place (fld (recWord l.words 5) 3 61) 3)
        match (a.schedPlace e.1 cw 8 Acc.write).1 with
        | none => t
        | some p =>
          let (n, t) := t.deviceEvent a e.1 schedulerContext .write .release .sys (some p) 8
          let mine (k : Nat) : Bool := (t.nodes[k]?).any fun x => x.slot == e.1 && x.launch == l.id
          let t := t.join (fun _ f => t.covers mine f) n
          let waits := (b.slot e.1).sched.queues.filter fun m =>
            (((a.slot e.1).launch? m.id).map fun m => m.deps.contains (.launch l.id)).getD false
          { t with starts := t.starts ++ waits.map fun m => (e.1, m.id, n) }) t) t

/-- Keys that a step released, over the events of the task's warp, and tasks that `BOP`s wait for (R180). -/
def Trace.keyEvents (t : Trace) (a b : State) : Trace :=
  let kept (e : DirEntry) : Bool := b.dies.dirs.any fun d => d.slot == e.slot && d.warp == e.warp && d.key == e.key
  let t := (a.dies.dirs.filter fun e => !kept e).foldl (fun t e =>
    let (n, t) := t.deviceEvent a e.slot directoryContext .mark .release .vchip none 0
    let t := t.join (fun _ f => t.covers (fun k => (t.nodes[k]?).any fun x => x.warp == e.warp) f) n
    { t with keys := t.keys ++ [(e.slot, e.key, e.warp, n)] }) t
  let waits := b.work.warps.flatMap fun e => (e.2.livePaths.flatMap fun p => p.2.bop.getD []).map fun h => (e.1, h)
  let idle := (b.work.warps.filter fun e => e.2.task.st != .active).map (·.1)
  { t with waits := ((t.waits.filter fun x => !idle.contains x.1) ++ waits).dedup }

/-- A gang that comes back from a `YIELD`-form record: zeros are written where the record left vault bytes out, after what the gang has
done and before its warps restart (R109, R198). -/
def Trace.restores (t : Trace) (a b : State) : Trace :=
  a.work.gangs.foldl (fun t e =>
    match e.2.saved, b.gang? e.1 with
    | some r, some g =>
      if !r.yform || g.saved.isSome then t
      else (g.wgs.zip r.parts).foldl (fun t c =>
        [(0, c.2.lo), (c.2.lo + c.2.len, g.vlt * 4096 - (c.2.lo + c.2.len))].foldl (fun t z =>
          if z.2 = 0 then t
          else
            let (n, t) := t.deviceEvent b g.slot schedulerContext .write .plain .plain (some (.vault c.1.core (c.1.vault + z.1))) z.2
            let t := t.join (fun _ f => f.ev.agent.gang == e.1) n
            { t with zeros := t.zeros ++ [(e.1, n)] }) t) t
    | _, _ => t) t

/-- Phases that a step completed (R151). -/
def Trace.phases (t : Trace) (a b : State) : Trace :=
  { t with bars := t.bars.map fun (e : Nat × TBar) =>
      let core := e.1 * 16 / vaultSize
      let off := e.1 * 16 % vaultSize
      let x := a.readBar core off
      if x.phase = (b.readBar core off).phase || e.2.now.isEmpty then e else (e.1, ⟨[], e.2.past ++ [(x.phase, e.2.now)]⟩) }

/-- Warps that a step made: those of a launch start after what its submission and its dependences release; others follow the warps they
were made from. -/
def Trace.warps (t : Trace) (a b : State) : Trace :=
  b.work.warps.foldl (fun t e =>
    match a.warp? e.1 with
    | some x => if x.width = e.2.width then t else t.inherit a e.1 e.2
    | none =>
      if a.work.warps.any fun x => x.2.meets e.2 then t.inherit a e.1 e.2
      else
        let v := b.slotOf e.2
        let launch := ((b.gangOf e.2).map (·.launch)).getD 0
        let (n, t) := t.newNode e.1 v launch (fullMask 128)
        let from' := (t.starts.filter fun x => x.1 == v && x.2.1 == launch).map (·.2.2)
        t.acquire b e.2 e.1 n .sys fun i _ => from'.contains i) t

/-- Tasks that drain for an abort, or replay. -/
def Trace.tasks (t : Trace) (s : State) : Trace :=
  s.work.warps.foldl (fun t e => if e.2.task.st == .drainA || e.2.task.st == .replay then t.gather e.1 e.2.task.lanes else t) t

/-- The events of a step's own event. -/
def Trace.event (t : Trace) (a b : State) (i : Instr) : Trace :=
  match i with
  | .launchRecordRead v =>
    match (a.slot v).win.port with
    | [] => t
    | x :: _ =>
      if (a.slot v).win.port == (b.slot v).win.port then t
      else
        let h := (KMap.get t.ports [] v).head?
        let t := { t with ports := KMap.set t.ports [] v ((KMap.get t.ports [] v).drop 1) }
        let t := match (a.schedPlace v x.addr recordLen Acc.read).1 with
          | some p => t.addAll ((p.pieces recordLen).map fun e =>
              .ofDevice v (a.access (a.deviceAgent v schedulerContext) v 0 .read .plain .plain e.1 e.2))
          | none => t
        let id := (a.slot v).sched.nextLaunch
        if (b.slot v).sched.nextLaunch = id then t else { t with starts := t.starts ++ (h.map fun e => (v, id, e)).toList }
  | .flagDependencePoll v launch dep =>
    match ((a.launch? v launch).bind fun l => l.deps[dep]?) with
    | some (.flag _ addr _) =>
      match (a.schedPlace v addr 8 Acc.read).1 with
      | none => t
      | some p =>
        let (n, t) := t.deviceEvent a v schedulerContext .read .acquire .vchip (some p) 8
        if ((b.launch? v launch).bind fun l => l.deps[dep]?) = some .done then { t with starts := t.starts ++ [(v, launch, n)] } else t
    | _ => t
  | .launchPortWrite v _ =>
    if (a.slot v).win.port.length < (b.slot v).win.port.length then
      let (n, t) := t.add (.ofDevice v (markEvent hostAgent .release .sys))
      let t := t.join (fun _ e => e.ev.agent == hostAgent && e.ev.writes) n
      { t with ports := KMap.set t.ports [] v (KMap.get t.ports [] v ++ [n]) }
    else t
  | .invalidationDrainDone v =>
    match (a.invsOf v).head? with
    | some i =>
      if (b.invsOf v).head? == some i || i.src != .tinv && i.src != .s2inv then t
      else
        let (n, t) := t.deviceEvent a v schedulerContext .mark .release .sys none 0
        t.join (fun _ e => e.covered v i) n
    | none => t
  | .logReplayRecord v =>
    match a.validLog? v with
    | none => t
    | some cb =>
      let r := a.defRing cb
      match a.oldest? v r with
      | none => t
      | some pos =>
        if (b.defRing cb).head == r.head && (b.slot v).log.job == (a.slot v).log.job then t
        else
          let ws := a.recordAt v r pos
          let p := a.recordPacket v ws (a.hbmRead (a.logOwner v) (r.base + pos % r.size + 64) (recordSize ws - 64))
          t.addAll ((a.recordTouches v p).map fun e =>
            .ofDevice v (a.access (a.deviceAgent v replayContext) v 0 e.1 .plain .plain e.2.1 e.2.2))
  | _ => t

/-- A remote operation of a replayed record makes its next access. -/
def Trace.replayStep (t : Trace) (a b : State) (v : Nat) : Trace :=
  match (a.slot v).log.job with
  | none => t
  | some j =>
    if (b.slot v).log.job == some j then t
    else
      t.addAll ((a.jobTouch v j).map fun e => .ofDevice v (a.access (a.deviceAgent v replayContext) v 0 e.1 .plain .plain e.2.1 e.2.2))

/-- The host reads or writes device memory through a TDI. -/
def Trace.hostEvent (t : Trace) (a : State) (v addr len : Nat) (write : Option (List Byte)) : Trace :=
  let n := (write.map List.length).getD len
  let acc := if write.isSome then Acc.write else Acc.read
  if !a.answers || (a.slot v).tdi != some .run then t
  else
    match a.hostRuns v acc (n + 1) addr n with
    | .error _ => t
    | .ok rs => t.addAll ((rs.flatMap fun r => r.1.pieces r.2).map fun e =>
        .ofDevice v (a.access hostAgent v 0 (if write.isSome then .write else .read) .plain .plain e.1 e.2))

/-- A read of BUSY of TINVS or S2INVS that finds it 0 acquires what the drains before it released (R196). -/
def Trace.busyRead (t : Trace) (s : State) (v : Nat) (s2 : Bool) : Trace :=
  if if s2 then (s.slot v).blk.s2Busy else (s.slot v).win.tinvBusy then t
  else
    let (n, t) := t.add (.ofDevice v (markEvent hostAgent .acquire .sys))
    t.join (fun _ e => e.slot == v && e.ev == markEvent (s.deviceAgent v schedulerContext) .release .sys) n

/-! ### A step -/

/-- What every step may have done. -/
def Trace.effects (t : Trace) (a b : State) : Trace :=
  (((((((t.copies a b).phases a b).completions a b).keyEvents a b).restores a b).warps a b).tasks a).tasks b

/-- An issue by a core: the instruction, and the second word of a pair as an instruction of its own (R130). -/
def Trace.issueStep (t : Trace) (s : State) (core : Nat) : Trace :=
  match (s.candidates core).findSome? fun e =>
      if (s.boundary e.1 e.2).isSome then some none else (s.choosePath e.1 e.2).map fun c => some (e.1, e.2, c) with
  | some (some (wid, w, i, many)) =>
    let word (t : Trace) (s : State) : Trace × State :=
      match s.warp? wid with
      | none => (t, s)
      | some x =>
        match x.path? i, s.gangOf x with
        | some p, some g =>
          match (s.fetch g p.pc).1 with
          | .err _ _ => (t, s)
          | .words w0 w1 =>
            let ins := (decode w0 w1).instr
            let a := { s with cur := some ⟨wid, i, w0, w1, p.sec⟩ }
            match exec ins a with
            | .next b => (t.instruction a b wid i ins, b)
            | _ => (t, s)
        | _, _ => (t, s)
    let s := s.noteIssue wid w i many
    let (t, r) := word t s
    match s.peek wid i, r.peek wid i with
    | some x, some y => if !s.atSecond wid i && r.atSecond wid i && legalPair x y then (word t r).1 else t
    | _, _ => t
  | _ => t

/-- A step of the machine. -/
def Trace.step (t : Trace) (s : State) : Trace × State :=
  match Machine.step s with
  | .next r =>
    let t := match s.nextTurn s.agenda with
      | some (turn, rest) =>
        let a := { s with agenda := rest }
        match turn with
        | .issue c => t.issueStep a c
        | .event i => ((((t.lanes a r i).packets a r (some i)).engines a r i).event a r i)
        | .packet src i =>
          let a := { a with fabric := { a.fabric with arriving := some src } }
          ((t.lanes a r i).packets a r (some i)).halo a src
        | .hostAccess v addr len write => t.hostEvent a v addr len write
        | .readBusy v s2 => t.busyRead a v s2
        | .agent _ | .tick _ _ => t.packets a r none
        | .replayAgent v => t.replayStep a r v
        | _ => t
      | none =>
        match s.nextCore with
        | some c => t.issueStep { s with rotor := c + 1 } c
        | none => t
    (t.effects s r, r)
  | _ => (t, s)

/-- A run of `n` steps. -/
def Trace.run : Nat → Trace → State → Trace × State
  | 0, t, s => (t, s)
  | n + 1, t, s =>
    let (t, s) := t.step s
    Trace.run n t s

/-! ### The execution -/

/-- Pairs of event numbers. -/
def Trace.pairs (t : Trace) (r : Nat → TEvent → Nat → TEvent → Bool) : Rel :=
  let es := t.events.zipIdx
  es.flatMap fun a => (es.filter fun b => r a.2 a.1 b.2 b.1).map fun b => (a.2, b.2)

/-- One instruction is before another in program order. -/
def Trace.before (t : Trace) (m n : Nat) : Bool := (t.nodes[n]?).any fun x => x.preds.contains m

/-- po (R184). -/
def Trace.po (t : Trace) : Rel := t.pairs fun _ a _ b =>
  match a.node, b.node with
  | some m, some n => t.before m n
  | _, _ => false

/-- eo (R190), by its rows: what goes before an operation's events, a channel's order, and what follows an operation that was
observed. A publish is a release for the stores before it (R162). -/
def Trace.eo (t : Trace) : Rel :=
  let eng (k : Nat) := t.engs[k]?
  let publish (e : TEng) : Bool := match e.key with | .publish _ => true | _ => false
  (t.pairs fun _ a _ b =>
    match a.node, b.eng with
    | some m, some k => (eng k).any fun e => t.before m e.node && (a.ev.reads || a.ev.strong || a.ev.isFence || (a.ev.writes && publish e))
    | _, _ => false) ++
  (t.pairs fun _ a _ b =>
    match a.eng, b.eng with
    | some j, some k => decide (j < k) && (eng j).any fun d => d.chan.isSome && (eng k).any fun e => e.chan == d.chan
    | _, _ => false) ++
  t.pairs fun _ a _ b =>
    match a.eng, b.node with
    | some k, some n => t.seen.any fun o => o.eng == k && (o.upTo == 2 ^ 63 || a.upTo ≤ o.upTo) && t.before o.node n
    | _, _ => false

/-- xf (R191). -/
def Trace.xf (t : Trace) : Rel := t.pairs fun _ a _ b =>
  match a.node, b.eng with
  | some m, some k =>
    a.ev.writes && b.ev.reads && (t.engs[k]?).any fun e => (t.nodes.zipIdx).any fun x =>
      x.1.fenceX && x.1.warp == e.warp && decide (m < x.2) && decide (x.2 < e.node) && (t.nodes[m]?).any fun y => y.warp == e.warp
  | _, _ => false

/-- What a replay makes each of its events go before (R195); what goes before the `PRECV` of a message: the packets of its stream before
it; what goes before a gang's restart (R198); and what follows the host's acquires. -/
def Trace.streams (t : Trace) : Rel :=
  (t.pairs fun i a j b => decide (i < j) && a.node.isNone && a.eng.isNone && a.slot == b.slot && b.node.isSome &&
    a.ev.agent.id == 8 * a.slot + replayContext && !a.ev.agent.host) ++
  (t.pairs fun _ a _ b =>
    b.ev.isAcquire && t.events.any fun q => q.ev.act == .write && q.ev.addr == b.ev.addr && 4 * 2 ^ 64 ≤ q.ev.addr &&
      a.ev.space == q.ev.space && (match a.seq, q.seq with
        | some m, some n => m != n && seqLe m n
        | _, _ => false)) ++
  (t.pairs fun i _ j b => decide (i < j) && b.node.isSome && t.zeros.contains (b.ev.agent.gang, i)) ++
  t.pairs fun i a j b => decide (i < j) && a.ev.agent == hostAgent && b.ev.agent == hostAgent && a.ev.isAcquire

/-- The execution, for a candidate's rf, co and dependences. -/
def Trace.execution (t : Trace) (rf : List (Nat × Nat × Nat)) (co : List (Nat × List Nat)) (dep : Rel) : Execution :=
  ⟨t.events.map (·.ev), t.po, rf, co, dep, t.eo, t.xf, t.sync ++ t.streams⟩

end Sys2Proof.Machine
end

