-- ==== Sys2Proof/Tests/Litmus.lean ====
section
/-! SUPPORT. Litmus tests of 10_ordering.md. -/

set_option Elab.async false

namespace Sys2Proof.Tests

open Sys2Proof.Machine

set_option maxRecDepth 100000

/-! ### Litmus tests of 10_ordering.md: verdicts R199 to R213 -/

/-- Warps of one vchip in different workgroups of different gangs. -/
def ag (n : Nat) : OAgent := ⟨n, n, n, 0, 0, false⟩

/-- Warps on different vchips of a guest. -/
def far (n : Nat) : OAgent := ⟨n, n, n, n, 0, false⟩

def rd (a : OAgent) (k : OKind) (sc : Scope) (x : Nat) : OEvent := ⟨a, .read, k, sc, .home, x, 8⟩
def wr (a : OAgent) (k : OKind) (sc : Scope) (x : Nat) : OEvent := ⟨a, .write, k, sc, .home, x, 8⟩
def fe (a : OAgent) (sc : Scope) : OEvent := ⟨a, .fence, .fence, sc, .home, 0, 0⟩
def inSpace (e : OEvent) (sp : OSpace) : OEvent := { e with space := sp }

/-- Bytes of an 8-byte location. -/
def by8 (x : Nat) (w r : Nat) : List (Nat × Nat × Nat) := (List.range 8).map fun i => (x + i, w, r)
def co8 (x : Nat) (ws : List Nat) : List (Nat × List Nat) := (List.range 8).map fun i => (x + i, ws)

def exe (es : List OEvent) (po : Rel) (rf : List (Nat × Nat × Nat)) (co : List (Nat × List Nat)) : Execution :=
  ⟨es, po, rf, co, [], [], [], []⟩

/-- R199 with v1 = 1 and v2 = 0: events 0 and 1 store x and y, 2 and 3 load y and x. -/
def mp (k1 k2 k3 k4 : OKind) (sc : Scope) : Execution :=
  exe [wr (ag 0) k1 sc 0, wr (ag 0) k2 sc 8, rd (ag 1) k3 sc 8, rd (ag 1) k4 sc 0] [(0, 1), (2, 3)] (by8 8 1 2)
    (co8 0 [0] ++ co8 8 [1])

theorem litmus_mp_plain : (mp .plain .plain .plain .plain .plain).allowed = true := by decide +kernel
theorem litmus_mp_release : Ex.observation (mp .plain .release .acquire .plain .vchip) = false := by decide +kernel
theorem litmus_mp_relaxed : Ex.order (mp .relaxed .relaxed .relaxed .relaxed .vchip) = false := by decide +kernel
theorem litmus_mp_wg : (mp .relaxed .relaxed .relaxed .relaxed .wg).allowed = true := by decide +kernel

/-- R200 with v1 = v2 = 0; `f` puts fences between, `sp` is where x and y lie. -/
def sb (f : Bool) (sp : OSpace) (a b : OAgent) : Execution :=
  let e (x : OEvent) := inSpace x sp
  exe [e (wr a .relaxed .vchip 0), e (rd a .relaxed .vchip 8), e (wr b .relaxed .vchip 8), e (rd b .relaxed .vchip 0),
      fe a .vchip, fe b .vchip]
    (if f then [(0, 4), (4, 1), (2, 5), (5, 3)] else [(0, 1), (2, 3)]) [] (co8 0 [0] ++ co8 8 [2])

theorem litmus_sb_plain : (sb false .home (ag 0) (ag 1)).allowed = true := by decide +kernel
theorem litmus_sb_fence : Ex.order (sb true .home (ag 0) (ag 1)) = false := by decide +kernel

/-- R201 with v1 = v2 = 1. -/
def lb (k : OKind) : Execution :=
  exe [rd (ag 0) k .vchip 0, wr (ag 0) k .vchip 8, rd (ag 1) k .vchip 8, wr (ag 1) k .vchip 0] [(0, 1), (2, 3)]
    (by8 0 3 0 ++ by8 8 1 2) (co8 0 [3] ++ co8 8 [1])

theorem litmus_lb : Ex.noThinAir (lb .plain) = false ∧ Ex.noThinAir (lb .relaxed) = false := by decide +kernel

/-- R202 with v1 = 1, v2 = 0, v3 = 1, v4 = 0. -/
def iriw (k : OKind) : Execution :=
  exe [wr (ag 0) .relaxed .vchip 0, wr (ag 1) .relaxed .vchip 8, rd (ag 2) k .vchip 0, rd (ag 2) k .vchip 8,
      rd (ag 3) k .vchip 8, rd (ag 3) k .vchip 0]
    [(2, 3), (4, 5)] (by8 0 0 2 ++ by8 8 1 4) (co8 0 [0] ++ co8 8 [1])

theorem litmus_iriw : Ex.order (iriw .relaxed) = false ∧ (iriw .plain).allowed = true := by decide +kernel

/-- R203 with v1 = 1, v2 = 1, v3 = 0. -/
def wrc (k : OKind) : Execution :=
  exe [wr (ag 0) .plain .plain 0, rd (ag 1) .plain .plain 0, wr (ag 1) k .vchip 8, rd (ag 2) .acquire .vchip 8,
      rd (ag 2) .plain .plain 0]
    [(1, 2), (3, 4)] (by8 0 0 1 ++ by8 8 2 3) (co8 0 [0] ++ co8 8 [2])

theorem litmus_wrc : Ex.observation (wrc .release) = false ∧ (wrc .plain).allowed = true := by decide +kernel

/-- R204 with x = y = 1 at the end. -/
def twoTwo (k : OKind) : Execution :=
  exe [wr (ag 0) k .vchip 0, wr (ag 0) k .vchip 8, wr (ag 1) k .vchip 8, wr (ag 1) k .vchip 0] [(0, 1), (2, 3)] []
    (co8 0 [3, 0] ++ co8 8 [1, 2])

theorem litmus_2p2w : Ex.order (twoTwo .relaxed) = false ∧ (twoTwo .plain).allowed = true := by decide +kernel

/-- R205 with v1 = 1, v2 = 0: two loads, or two lanes of one load. -/
def corr (po : Rel) : Execution :=
  exe [wr (ag 0) .plain .plain 0, rd (ag 1) .plain .plain 0, rd (ag 1) .plain .plain 0] po (by8 0 0 1) (co8 0 [0])

theorem litmus_corr : Ex.coherence (corr [(1, 2)]) = false ∧ (corr []).allowed = true := by decide +kernel

/-- R206 with v1 = 1, v2 = 0; `k` is the flag store's kind. -/
def peers (k : OKind) : Execution :=
  exe [inSpace (wr (far 0) .relaxed .pod 0) (.stream 1), inSpace (wr (far 0) k .pod 8) (.stream 2),
      rd (far 2) .acquire .pod 8, inSpace (rd (far 2) .relaxed .pod 0) (.stream 3)]
    [(0, 1), (2, 3)] (by8 8 1 2) (co8 0 [0] ++ co8 8 [1])

theorem litmus_peers : Ex.observation (peers .release) = false ∧ (peers .relaxed).allowed = true := by decide +kernel

/-- R207 and R208 with v1 = 0: the store to b, the copy's read of b and write of c, the load of c; `xf` is FENCE.X's order. -/
def copyRead (xf : Rel) : Execution :=
  let eng : OAgent := { ag 0 with id := 9 }
  { exe [wr (ag 0) .plain .plain 0, rd eng .plain .plain 0, wr eng .plain .plain 8, rd (ag 0) .plain .plain 8] [(0, 3)]
      (by8 8 2 3) (co8 0 [0] ++ co8 8 [2]) with eo := [(1, 3), (2, 3)], xf := xf }

theorem litmus_copy : (copyRead []).allowed = true ∧ Ex.observation (copyRead [(0, 1)]) = false := by decide +kernel

/-- R209 with (v4, v5) = (1, 0): one piece of 16 bytes, or two of 8. -/
def pairOne : Execution :=
  exe [⟨ag 0, .write, .plain, .plain, .home, 0, 16⟩, ⟨ag 1, .read, .plain, .plain, .home, 0, 16⟩] [] (by8 0 0 1)
    (co8 0 [0] ++ co8 8 [0])
def pairTwo : Execution :=
  exe [wr (ag 0) .plain .plain 0, wr (ag 0) .plain .plain 8, rd (ag 1) .plain .plain 0, rd (ag 1) .plain .plain 8] []
    (by8 0 0 2) (co8 0 [0] ++ co8 8 [1])

theorem litmus_pair : Ex.pieces pairOne = false ∧ pairTwo.allowed = true := by decide +kernel

/-- R194: after `st.b64` and `st.b8` of one warp, `ld.b64` reads the byte from the second and the rest from the first; the other way round
is torn. -/
def byteOver (b0 rest : Nat) : Execution :=
  exe [wr (ag 0) .plain .plain 0, ⟨ag 0, .write, .plain, .plain, .home, 0, 1⟩, rd (ag 0) .plain .plain 0] [(0, 1), (1, 2)]
    ((0, b0, 2) :: (List.range 7).map fun i => (i + 1, rest, 2)) ((0, [0, 1]) :: (List.range 7).map fun i => (i + 1, [0]))

theorem litmus_byte_over : (byteOver 1 0).allowed = true ∧ (byteOver 0 0).allowed = false := by decide +kernel

/-- R194: `ld.b64` over another warp's `st.b32` sees that piece whole or not at all: `n` bytes come from it. -/
def halfOver (n : Nat) : Execution :=
  exe [wr (ag 0) .plain .plain 0, ⟨ag 1, .write, .plain, .plain, .home, 0, 4⟩, rd (ag 2) .plain .plain 0] []
    ((List.range 8).map fun i => (i, if i < n then 1 else 0, 2)) ((List.range 8).map fun i => (i, if i < 4 then [0, 1] else [0]))

theorem litmus_half_over : (halfOver 4).allowed = true ∧ (halfOver 0).allowed = true ∧ (halfOver 2).allowed = false := by decide +kernel

/-- R187: a byte read from two writes, or a write that co leaves out, is no execution. -/
theorem litmus_two_sources : ({ byteOver 1 0 with rf := (byteOver 1 0).rf ++ [(0, 0, 2)] } : Execution).allowed = false := by decide +kernel
theorem litmus_no_order : ({ byteOver 1 0 with co := [(0, [0, 1])] } : Execution).allowed = false := by decide +kernel

/-- R210 with v2 = 0: the store to d, HPUB's tag write, LDG's tag read, the load of d. -/
def stepTag : Execution :=
  { exe [wr (ag 0) .plain .plain 0, wr (ag 0) .release .gang 8, rd (ag 1) .acquire .gang 8, rd (ag 1) .plain .plain 0]
      [(0, 1), (2, 3)] (by8 8 1 2) (co8 0 [0] ++ co8 8 [1]) with sync := [(1, 2)] }

theorem litmus_step : Ex.observation stepTag = false := by decide +kernel

/-- R211: x stored 1 by A, 5 by its inverse, 7 by B, which begins after the release of A's key; `src` is what B's load reads. -/
def undo (src : Nat) (co : List Nat) (rf : List (Nat × Nat × Nat)) : Execution :=
  { exe [wr (ag 0) .plain .plain 0, wr (ag 0) .plain .plain 0, ⟨ag 0, .write, .release, .vchip, .home, 8, 8⟩,
      ⟨ag 1, .read, .acquire, .vchip, .home, 8, 8⟩, rd (ag 1) .plain .plain 0, wr (ag 1) .plain .plain 0,
      rd (ag 2) .plain .plain 0, rd (ag 2) .plain .plain 0]
      [(0, 1), (1, 2), (3, 4), (4, 5), (6, 7)] (by8 0 src 4 ++ by8 8 2 3 ++ rf) (co8 0 co ++ co8 8 [2]) with sync := [(2, 3)] }

theorem litmus_undo_reads_inverse : (undo 1 [0, 1, 5] (by8 0 0 6 ++ by8 0 5 7)).allowed = true := by decide +kernel
theorem litmus_undo_reads_aborted : Ex.observation (undo 0 [0, 1, 5] []) = false := by decide +kernel
theorem litmus_undo_is_a_store : (undo 1 [0, 1, 5] (by8 0 0 6 ++ by8 0 1 7)).allowed = true := by decide +kernel
theorem litmus_undo_backwards : (undo 1 [0, 1, 5] (by8 0 5 6 ++ by8 0 0 7)).allowed = false := by decide +kernel

/-- R212 with v1 = 1, v2 = 0; `k` is the kind of T1's load of a. -/
def frozen (k : OKind) : Execution :=
  exe [inSpace (wr (far 0) .relaxed .pod 0) (.stream 1), inSpace (wr (far 0) .relaxed .pod 8) (.stream 1),
      rd (far 1) .acquire .pod 8, rd (far 1) k .pod 0]
    [(0, 1), (2, 3)] (by8 8 1 2) (co8 0 [0] ++ co8 8 [1])

/-- R212, abandoned: T0's stores are no events, so T1's acquire has no write of b to read 1 from. -/
def abandoned : Execution := exe [rd (far 1) .acquire .pod 8, rd (far 1) .relaxed .pod 0] [(0, 1)] (by8 8 2 0) []

theorem litmus_abandoned : abandoned.allowed = false := by decide +kernel

theorem litmus_frozen : Ex.order (frozen .relaxed) = false ∧ (frozen .plain).allowed = true := by decide +kernel

/-- R213: two lanes store x, then lanes read it; T1 reads it too. -/
def lanes (lane last : Nat) (t1 : Nat) : Execution :=
  exe [wr (ag 0) .plain .plain 0, wr (ag 0) .plain .plain 0, rd (ag 0) .plain .plain 0, rd (ag 1) .plain .plain 0]
    [(0, 2), (1, 2)] (by8 0 lane 2 ++ by8 0 t1 3) (co8 0 [1 - last, last])

theorem litmus_lanes : (lanes 1 1 0).allowed = true ∧ (lanes 0 0 1).allowed = true ∧ Ex.coherence (lanes 0 1 0) = false := by
  decide +kernel

end Sys2Proof.Tests
end

