-- ==== Sys2Proof/Tests/Slice0.lean ====
section
/-! SUPPORT. Tests: words of the spec's examples, ill-formed terms that WellFormed refuses, one step on small states. -/

set_option Elab.async false

namespace Sys2Proof.Tests

open Sys2Proof.Machine

set_option maxRecDepth 100000

/-! ### Decoding: words and lines as the spec's examples print them -/

def reads (l : List (List Word × Instr)) : Bool := l.all fun e => decodeWords e.1 == some e.2

/-- Each word's line of 14_encoding, 15_isa_scalar_control. -/
theorem test_decode_scalar_control :
  reads [
    -- sadd.i64 s4, s4, 100
    ([0x407A894400191E00], .sadd .always .i64 4 (.s 4) (.imm 0x64)),
    -- vmul.f32 v20, v21, v22
    ([0x08B828150B002C00], .vmul .always .f32 false 20 (.v 21) (.v 22)),
    -- sli.b64 s5, 0x1234_5678_9ABC_DEF0
    ([0x80BA8A0000000000, 0x123456789ABCDEF0], .sli .always 5 0x123456789abcdef0),
    -- scmp.lt.i64 s6, s4, 64
    ([0x007A8D4400101E72], .scmp .always .i64 .lt 6 (.s 4) (.imm 0x40)),
    -- sld.b64 s13, [s2+16]
    ([0x00FA9B42C8000030], .sld .always ⟨3, false, false, 0, .plain⟩ 13 2 (.int 16)),
    -- pcnt s7, p2
    ([0x017A8E0200000030], .pcnt .always 7 2),
    -- srd s9, %cyc
    ([0x05FA93C900000000], .srd .always (.s 9) .cyc),
    -- swr %mode, s3
    ([0x063B8F4300000000], .swr .always .mode (.s 3)),
    -- vcmp.lt.i32 p1, %lane, 16
    ([0x0A3803C0C8001402], .vcmp .always .i32 .lt false 1 (.spec .lane) (.int 16)),
    -- brc p1, .Llo, .Ljn
    ([0x02B800040000C800], .brc .always 1 false 3 4),
    -- vadd.i32 v2, v2, 1
    ([0x08380402C0801400], .vadd .always .i32 false 2 (.v 2) (.int 1)),
    -- bra .Ljn
    ([0x0238000000008000], .bra .always 2),
    -- vsub.i32 v2, v2, 1
    ([0x08780402C0801400], .vsub .always .i32 false 2 (.v 2) (.int 1)),
    -- join
    ([0x0338000000000000], .join .always),
    -- exit
    ([0x0438000000000000], .exit .always),
    -- call s62, .Lsub
    ([0x037AFC0000020000], .call .always 62 8),
    -- ret s62
    ([0x03F8017E00000000], .ret .always (.s 62)),
    -- wait 63, 63, 0, 15
    ([0x047BFFC1E0000000], .wait .always 63 63 0 15),
    -- tstf s8, f0
    ([0x04BA91E000000000], .tstf .always 8 0),
    -- yield 16, 0, 8, s20, s21
    ([0x8538200004000000, 0xEA95500000000000], .yield .always 16 0 8 (.s 20) (.s 21)),
    -- rget s10, 3
    ([0x057A9400C1800000], .rget .always 10 (.int 3)) ] = true := by decide +kernel

/-- Each word's line of 16_isa_vector. -/
theorem test_decode_vector :
  reads [
    -- vfma.f32 v4, v5, v6, v7
    ([0x08F808050301EC00], .vfma .always .f32 4 (.v 5) (.v 6) (.v 7)),
    -- vsel.f32 v1, v2, v3, p4
    ([0x0A78020201812C00], .vsel .always .f32 1 (.v 2) (.v 3) 4),
    -- vcvt.rtz.i32.f32 v3, v8
    ([0x0C7806080000144B], .vcvt .always .i32 .f32 false .rtz 3 (.v 8)),
    -- vpack.sat.i8.i16 v20, v21, v22
    ([0x0F3828150B000503], .vpack .always .i8 .i16 true 20 (.v 21) (.v 22)),
    -- vexp2.f32 v30, v31
    ([0x0DF83C1F00002C00], .vexp2 .always .f32 30 (.v 31)),
    -- shflx.f32 v2, v1, 16
    ([0x18780401C8002C00], .shflx .always .f32 .whole 2 (.v 1) (.int 16)),
    -- vscan.add.exc.i32 v5, v6
    ([0x19780A0600001408], .vscan .always .i32 .add .whole true 5 (.v 6)),
    -- bcst.b64 v7, v9, s3
    ([0x19B80E09A1800000], .bcst .always .b64 .whole 7 (.v 9) (.s 3)),
    -- vballot s12, p3
    ([0x19FA980300000000], .vballot .always .whole (.s 12) 3),
    -- vred.add.f32 v3, v1
    ([0x1938060100002C00], .vred .always .f32 .add .whole (.v 3) (.v 1)),
    -- fuse s4, 2, 3, 4000
    ([0x1A7A880003E8021A], .fuse .always 4 2 3 (.imm 0xfa0)),
    -- split s4, 2
    ([0x1A3A880000000002], .split .always 4 2) ] = true := by decide +kernel

/-- Each word's line of 17_isa_memory. -/
theorem test_decode_memory :
  reads [
    -- ld.b64 v4, [v2+8]
    ([0x1C380802C4000030], .ld .always ⟨3, false, false, 0, .plain⟩ 4 (.v 2) (.int 8)),
    -- st.b32 [v2+v3<<2], v9
    ([0x1C78120201800024], .st .always ⟨2, false, false, 2, .plain⟩ (.v 9) (.v 2) (.v 3)),
    -- lda.b64.vchip v1, [s4]
    ([0x1D380344C00000F0], .lda .always ⟨3, false, false, 0, .vchip⟩ 1 (.s 4) (.int 0)),
    -- atom.add.vchip.f32 v6, [v10], v12
    ([0x1DB80C0A06002CC1], .atom .always .f32 .add .relaxed .vchip (some 6) (.v 10) (.v 12) (.v 0)),
    -- faddd.pod.f32 [v30], v31, v29
    ([0x1DF8001E0F876D00], .faddd .always .f32 .pod none (.v 30) (.v 31) (.v 29)),
    -- fence.vchip
    ([0x1E780000000000C0], .fence .always .vchip),
    -- fence.x
    ([0x1E78000000000001], .fenceX .always),
    -- rcas4.w2.vchip v40, [v12], v44, v48
    ([0x1F78500C160C00C9], .rcas4 .always .vchip 2 (some 40) (.v 12) 44 48),
    -- renq.pod v50, [s6], v51
    ([0x1FB8654619800101], .renq .always .pod (some 50) (.s 6) (.v 51)),
    -- rchase.h4.vchip v60, [v61], 8
    ([0x1FF8783DC40000D9], .rchase .always .vchip 4 60 (.v 61) (.int 8)),
    -- copy f0, [s4], [s5], s6
    ([0x283BC144A2D18000], .copy .always false 0 (.s 4) (.s 5) (.s 6) none),
    -- copyx.b16 f1, [s8], [s9], s10, [s11]
    ([0xA8BBC348A4D28000, 0xC014B00000000001], .copyx .always true 1 (.s 8) (.s 9) (.s 10) none (.s 11)),
    -- (p1) bari [s2], 1
    ([0x1E880142C0800000], .bari ⟨1, false⟩ (.s 2) (.int 1)),
    -- (p1) bara [s2], s7
    ([0x1EC80142A3800000], .bara ⟨1, false⟩ (.s 2) (.s 7)),
    -- barw s9, [s2], 0
    ([0x1F3A9342C0000000], .barw .always false 9 (.s 2) (.int 0)),
    -- ldv.b64 v3, [v2]
    ([0x1CB80602C0000030], .ldv .always ⟨3, false, false, 0, .plain⟩ 3 (.v 2) (.int 0)) ] = true := by decide +kernel

/-- Each word's line of 18_isa_matrix. -/
theorem test_decode_matrix :
  reads [
    -- mma f1, z2, [s4], [s5], [s6], s7
    ([0xAC7BC202A2514200, 0xE8D4700000000000], .mma .always true false 1 2 (.s 4) (.s 5) (.s 6) (.s 7)),
    -- mopf
    ([0x2C38000000000000], .mopf .always),
    -- mzmv.f32 v40, z3
    ([0x2DB8500300002C00], .mzmv .always .f32 false 40 3),
    -- mzst.bf16 f3, [s12], z3, s13
    ([0x2E3BC603A6536800], .mzst .always .bf16 3 3 (.s 12) (.s 13)),
    -- mzclr f4, z8, 8
    ([0x2E7BC808C4000000], .mzclr .always 4 8 (.int 8)),
    -- mvn.acc f5, [s20], [s21], [s22], [s23], s24, s25
    ([0xAEBBCB54AAD58001, 0xEAF58AC800000000], .mvn .always true 5 (.s 20) (.s 21) (.s 22) (.s 23) (.s 24) (.s 25)),
    -- mmab.z.bt f1, z0, v8, [s4], [s5], s6, s7, [s9]
    ([0xACFBC20004510006, 0xE8B46A3D24000000], .mmab .always false true true false 1 0 (.v 8) (.s 4) (.s 5) (.s 6) (.s 7) (.s 9)),
    -- mtopk.max.f32 f2, z1, [s10], s11, 4
    ([0xAD7BC401A552EC00, 0xC000000000000023], .mtopk .always .f32 true 4 2 1 (.s 10) (.s 11)) ] = true := by decide +kernel

/-- Each word's line of 19_isa_system. -/
theorem test_decode_system :
  reads [
    -- gbind g0, [s4]
    ([0x3038014400000000], .gbind .always 0 (.s 4)),
    -- ldg.b64 v1, g0, v8, 2
    ([0x3078020004608000], .ldg .always .b64 1 0 (.v 8) (.int 2)),
    -- stg.b64 g0, v8, v9
    ([0x30B8120004000000], .stg .always .b64 (.v 9) 0 (.v 8)),
    -- hpub f0, g0, 2
    ([0x30FBC000C1000000], .hpub .always 0 0 (.int 2)),
    -- hwait g0, 2
    ([0x31380000C1000000], .hwait .always 0 (.int 2)),
    -- bbegin .Lab, s5, [s20], 0, v20
    ([0xB23A8B54C0050000, 0xC000000000000007], .bbegin .always 5 (.s 20) (.int 0) 20 7),
    -- bop 1, v9, .Linv, v10, v11
    ([0xB27802090502C000, 0xC000000000000006], .bop .always 1 (.v 9) (.v 10) (.v 11) 6),
    -- bcommit
    ([0x32F8000000000000], .bcommit .always),
    -- bret
    ([0x32B8000000000000], .bret .always),
    -- babort 9
    ([0x3338000000000009], .babort .always 9),
    -- bstat s9, 2
    ([0x337A938200000000], .bstat .always 9 (.int 2)),
    -- bctl.load [s12]
    ([0x33B8014C00000000], .bctlLoad .always (.s 12)),
    -- bctl.verdict 1
    ([0x33B8018100000001], .bctlVerdict .always (.int 1)),
    -- psend f2, s6, [s4], s7
    ([0x293BC546A251C000], .psend .always false 2 (.s 6) (.s 4) (.s 7)),
    -- precv s8, [s4], s7
    ([0x297A9144A3800000], .precv .always 8 (.s 4) (.s 7)),
    -- npost.write f3, s9, [s4], s7, s10, s11
    ([0xA9BBC749A251C000, 0xE954B00000000000], .npostWrite .always 3 (.s 9) (.s 4) (.s 7) (.s 10) (.s 11)),
    -- trap 5
    ([0x3438000000000005], .trap .always 5),
    -- rft.skip
    ([0x3478000000000001], .rft .always true),
    -- tlbi s4, s5
    ([0x34B80144A2800000], .tlbi .always (.s 4) (.s 5)),
    -- halt
    ([0x34F8000000000000], .halt .always),
    -- bkpt
    ([0x3538000000000000], .bkpt .always),
    -- ctxs s8, [s4]
    ([0x357A914400000000], .ctxs .always 8 (.s 4)),
    -- ctxl [s4]
    ([0x35B8014400000000], .ctxl .always (.s 4)) ] = true := by decide +kernel

/-- Each word's line of 20_prog_attention, 21_prog_halo, 22_prog_boosted, 24_prog_remote_atomic, 25_prog_vpod_allreduce. -/
theorem test_decode_programs :
  reads [
    -- vand.n64 v1, %warp, 4
    ([0x0AB803C2C2002000], .vand .always .n64 1 (.spec .warp) (.int 4)),
    -- bru !p1, .Lfuse
    ([0x0278000000050C00], .bru .always 1 true 0x14),
    -- smov.b64 s2, 0x3080
    ([0x007A84000C2002A0], .smov .always .b64 2 (.imm 0x3080)),
    -- vshl.n64 v2, %lane, 7
    ([0x0BB805C0C3802000], .vshl .always .n64 2 (.spec .lane) (.int 7)),
    -- vshr.n64 v3, %lane, 5
    ([0x0BF807C0C2802000], .vshr .always .n64 3 (.spec .lane) (.int 5)),
    -- vmax.bf16 v48, v40, v41
    ([0x0978602814802800], .vmax .always .bf16 48 (.v 40) (.v 41)),
    -- stv.b64.x2 [v2+0], v40
    ([0x1CF85002C0000038], .stv .always ⟨3, false, true, 0, .plain⟩ (.v 40) (.v 2) (.int 0)),
    -- vdiv.bf16 v56, v56, v52
    ([0x0DB870381A002800], .vdiv .always .bf16 56 (.v 56) (.v 52)),
    -- sshl.b64 s3, s2, 22
    ([0x007A8742CB000048], .sshl .always .b64 3 (.s 2) (.int 22)),
    -- ssub.b64 s18, s18, s17
    ([0x007AA552A8800008], .ssub .always .b64 18 (.s 18) (.s 17)),
    -- sbfx.n64 s21, s20, 81
    ([0x007AAB5400146280], .sbfx .always .n64 21 (.s 20) (.imm 0x51)),
    -- sand.b64 s56, s56, s58
    ([0x007AF178BD000030], .sand .always .b64 56 (.s 56) (.s 58)),
    -- sor.b64 s60, s60, 25
    ([0x007AF97CCC800038], .sor .always .b64 60 (.s 60) (.int 25)),
    -- sst.b64 [s59+0], s60
    ([0x013AF97BC0000030], .sst .always ⟨3, false, false, 0, .plain⟩ 60 59 (.int 0)),
    -- pand p1, p1, p2
    ([0x0178020101000000], .pand .always 1 1 2) ] = true := by decide +kernel

/-! ### Ill-formed terms: guard, registers, types, ranges, constants -/

theorem test_guard_refused : Instr.wf (.nop ⟨7, true⟩) = false := by decide
theorem test_guard_number_refused : Instr.wf (.nop ⟨8, false⟩) = false := by decide
theorem test_scalar_register_refused : Instr.wf (.sadd .always .i64 64 (.s 0) (.s 0)) = false := by decide
theorem test_scalar_vector_source_refused : Instr.wf (.sadd .always .i64 0 (.v 0) (.s 0)) = false := by decide
theorem test_scalar_type_refused : Instr.wf (.sadd .always .f32 0 (.s 0) (.s 0)) = false := by decide
theorem test_scalar_unordered_refused : Instr.wf (.scmp .always .i64 .un 0 (.s 0) (.s 0)) = false := by decide
theorem test_scalar_lane_special_refused : Instr.wf (.smov .always .b64 0 (.spec .lane)) = false := by decide
theorem test_constant_refused : Instr.wf (.sadd .always .i64 0 (.int 32) (.s 0)) = false := by decide
theorem test_float_constant_refused : Instr.wf (.vadd .always .i32 false 0 (.flt 0) (.v 0)) = false := by decide
theorem test_predicate_refused : Instr.wf (.pand .always 8 0 0) = false := by decide
theorem test_special_write_refused : Instr.wf (.swr .always .cyc (.s 0)) = false := by decide
theorem test_chain_refused : Instr.wf (.brx .always 0 0) = false := by decide
theorem test_wait_refused : Instr.wf (.wait .always 63 63 32 15) = false := by decide
theorem test_handle_refused : Instr.wf (.canf .always 0 16) = false := by decide
theorem test_pair_register_refused : Instr.wf (.tstf .always 63 0) = false := by decide
theorem test_yield_refused : Instr.wf (.yield .always 321 0 0 (.s 0) (.s 0)) = false := by decide
theorem test_vector_register_refused : Instr.wf (.vadd .always .i32 false 320 (.v 0) (.v 0)) = false := by decide
theorem test_saturate_float_refused : Instr.wf (.vadd .always .f32 true 0 (.v 0) (.v 0)) = false := by decide
theorem test_pack_types_refused : Instr.wf (.vpack .always .i8 .i32 false 0 (.v 0) (.v 0)) = false := by decide
theorem test_long_move_type_refused : Instr.wf (.vmov .always .i32 0 (.inr 0)) = false := by decide
theorem test_shuffle_run_refused : Instr.wf (.shfl .always .i8 .whole 0 (.v 0) (.v 319)) = false := by decide
theorem test_reduction_type_refused : Instr.wf (.vred .always .f32 .lxor .whole (.v 0) (.v 0)) = false := by decide
theorem test_reduction_group_refused : Instr.wf (.vred .always .i32 .add .g8 (.s 0) (.v 0)) = false := by decide
theorem test_address_refused : Instr.wf (.ld .always ⟨3, false, false, 0, .plain⟩ 0 (.int 0) (.int 0)) = false := by decide
theorem test_sign_of_64_bits_refused : Instr.wf (.ld .always ⟨3, true, false, 0, .plain⟩ 0 (.v 0) (.int 0)) = false := by decide
theorem test_double_of_32_bits_refused : Instr.wf (.ld .always ⟨2, false, true, 0, .plain⟩ 0 (.v 0) (.int 0)) = false := by decide
theorem test_scaled_immediate_refused : Instr.wf (.ld .always ⟨3, false, false, 1, .plain⟩ 0 (.v 0) (.imm 8)) = false := by decide
theorem test_scope_refused : Instr.wf (.lda .always ⟨3, false, false, 0, .plain⟩ 0 (.v 0) (.int 0)) = false := by decide
theorem test_atomic_type_refused : Instr.wf (.atom .always .i8 .add .relaxed .vchip none (.v 0) (.v 0) (.v 0)) = false := by decide
theorem test_compare_and_swap_words_refused : Instr.wf (.rcas4 .always .vchip 5 none (.v 0) 0 0) = false := by decide
theorem test_hops_refused : Instr.wf (.rchase .always .vchip 9 0 (.v 0) (.s 0)) = false := by decide
theorem test_copy_barrier_refused : Instr.wf (.copy .always false 0 (.s 0) (.s 0) (.s 0) (some (.s 0))) = false := by decide
theorem test_tile_refused : Instr.wf (.mzclr .always 0 384 (.s 0)) = false := by decide
theorem test_matrix_register_refused : Instr.wf (.mma .always false false 0 0 (.s 0) (.s 0) (.s 0) (.s 0)) = false := by decide
theorem test_topk_refused : Instr.wf (.mtopk .always .f32 true 33 0 0 (.s 0) (.s 0)) = false := by decide
theorem test_tile_type_refused : Instr.wf (.mzmv .always .f64 true 0 0) = false := by decide
theorem test_grid_slot_refused : Instr.wf (.gbind .always 8 (.s 0)) = false := by decide
theorem test_boost_registers_refused : Instr.wf (.bbegin .always 0 (.s 0) (.s 0) 318 0) = false := by decide
theorem test_kind_refused : Instr.wf (.bop .always 64 (.s 0) (.s 0) (.s 0) 0) = false := by decide
theorem test_trap_refused : Instr.wf (.trap .always 256) = false := by decide

/-! ### One step on a small state; expected values worked out by hand -/

/-- One step of the word at the PC of warp 0, with something set before. -/
def after (w : Nat) (f : Warp → Warp) (check : State → Warp → Bool) : Bool :=
  match step ((State.reset.withFetchWord 64 w).modWarp 0 f) with
  | .next t => (t.warp? 0).any fun v => check t v
  | _ => false

def pcOf (w : Warp) : Word := ((w.path? 0).map (·.pc)).getD 0

theorem test_sadd_wraps : after 0x407A894400191E00 (fun w => w.setS 4 (-1)) (fun _ w => w.sreg 4 == 99 && pcOf w == 2 ^ 26 + 8) = true := by
  decide +kernel
theorem test_scmp_is_signed : after 0x007A8D4400101E72 (fun w => w.setS 4 (-1)) (fun _ w => w.sreg 6 == 1) = true := by decide +kernel
theorem test_ssub_borrows : after 0x007AA552A8800008 (fun w => w.setS 17 1) (fun _ w => w.sreg 18 == 0xFFFFFFFFFFFFFFFF) = true := by decide +kernel
/-- 81 is position 17 and length 1. -/
theorem test_sbfx_field : after 0x007AAB5400146280 (fun w => w.setS 20 0x20000) (fun _ w => w.sreg 21 == 1) = true := by decide +kernel
theorem test_pcnt_counts : after 0x017A8E0200000030 (fun w => w.setP 2 0x8000000F) (fun _ w => w.sreg 7 == 5) = true := by decide +kernel
theorem test_bra_skips : after 0x0238000000008000 id (fun _ w => pcOf w == 2 ^ 26 + 16) = true := by decide +kernel
/-- Sub-element 0 wraps, sub-element 1 too, with no carry between them. -/
theorem test_vadd_sub_elements : after 0x08380402C0801400 (fun w => w.setV 2 31 0xFFFFFFFF7FFFFFFF) (fun _ w => w.vreg 2 31 == 0x0000000080000000) = true := by
  decide +kernel
theorem test_vadd_saturates : after 0x0838140B06000D00 (fun w => (w.setV 11 0 0x000000008000_7FFF).setV 12 0 0x00000000FFFF_0001)
    (fun _ w => w.vreg 10 0 == 0x80007FFF) = true := by decide +kernel
/-- 1.5 × 2 = 3 and −1 × 2 = −2. -/
theorem test_vmul_float : after 0x08B828150B002C00 (fun w => (w.setV 21 0 0xBF8000003FC00000).setV 22 0 0x4000000040000000)
    (fun _ w => w.vreg 20 0 == 0xC000000040400000 && w.flags == 0) = true := by decide +kernel
/-- −2.5 towards zero is −2, inexact (bit 4). -/
theorem test_vcvt_to_zero : after 0x0C7806080000144B (fun w => w.setV 8 0 0xC0200000) (fun _ w => w.vreg 3 0 == 0x00000000FFFFFFFE) = true := by
  decide +kernel
/-- 300 and −300 clamp to 127 and −128; the first source fills the low half. -/
theorem test_vpack_clamps : after 0x0F3828150B000503 (fun w => (w.setV 21 0 0x0000000000_05012C).setV 22 0 0x000000000000FED4)
    (fun _ w => w.vreg 20 0 == 0x000000800000057F) = true := by decide +kernel
/-- Every element is 1: lane 3 has six elements before it. -/
theorem test_vscan_exclusive : after 0x19780A0600001408 (fun w => (upTo 32).foldl (fun w l => w.setV 6 l 0x0000000100000001) w)
    (fun _ w => w.vreg 5 3 == 0x0000000700000006 && w.vreg 5 0 == 0x0000000100000000) = true := by decide +kernel
/-- Element 16 exclusive-or e: lane 8 exchanges with lane 0. -/
theorem test_shflx_swaps : after 0x18780401C8002C00 (fun w => w.setV 1 8 0x0000000200000001) (fun _ w => w.vreg 2 0 == 0x0000000200000001) = true := by
  decide +kernel
theorem test_vsel_by_predicate : after 0x0A78020201812C00 (fun w => ((w.setP 4 1).setV 2 0 5).setV 3 1 6)
    (fun _ w => w.vreg 1 0 == 5 && w.vreg 1 1 == 6) = true := by decide +kernel
theorem test_bcst_from_lane : after 0x19B80E09A1800000 (fun w => (w.setS 3 31).setV 9 31 7) (fun _ w => w.vreg 7 0 == 7) = true := by decide +kernel
/-- TRAP 5 at level 0 with a user handler: class 6, SUB 5. -/
theorem test_trap_to_user_handler : after 0x3438000000000005 (fun w => { w with trap := { w.trap with utvec := 0x5000 } })
    (fun _ w => w.trap.level == 1 && pcOf w == 0x5000 && fld w.trap.tcause1 0 8 == 6) = true := by decide +kernel
/-- HALT at level 0 is class 1, SUB 6, and saves its own PC. -/
theorem test_halt_is_privileged : after 0x34F8000000000000 (fun w => { w with trap := { w.trap with utvec := 0x5000 } })
    (fun _ w => w.trap.level == 1 && fld w.trap.tcause1 0 8 == 1 && w.trap.tpc1 == 2 ^ 26) = true := by decide +kernel
/-- An opcode at or above 0xE0 is class 1, SUB 1. -/
theorem test_illegal_opcode : after 0x3FF8000000000000 (fun w => { w with trap := { w.trap with utvec := 0x5000 } })
    (fun _ w => w.trap.level == 1 && fld w.trap.tcause1 0 8 == 1) = true := by decide +kernel
/-- MZCLR joins the array: its handle is PENDING and the tiles counter is 1. -/
theorem test_mzclr_queues : after 0x2E7BC808C4000000 id (fun t w => (w.handle 4).st == .pending && w.cnt.tl == 1 &&
    (KMap.get t.work.arrays [] 0).length == 1) = true := by decide +kernel
/-- A store counts and waits for its completion. -/
theorem test_st_issues : after 0x1C78120201800024 (fun w => (upTo 32).foldl (fun w l => (w.setV 2 l (2 ^ 27)).setV 3 l (BitVec.ofNat 64 l)) w)
    (fun _ w => w.cnt.st == 1 && w.work.ops.length == 1) = true := by decide +kernel
/-- A guard that holds in no lane: nothing happens but the advance. -/
theorem test_guard_false : after 0x3400000000000005 id (fun _ w => pcOf w == 2 ^ 26 + 8 && w.trap.level == 0) = true := by decide +kernel

end Sys2Proof.Tests
end

