-- ==== Sys2Proof/Tests/States.lean ====
section
/-! SUPPORT. Small states for the tests. -/

set_option Elab.async false

namespace Sys2Proof.Tests

open Sys2Proof.Machine

set_option maxRecDepth 100000

/-! ### Small states -/

/-- The module in OPERATIONAL with a vchip in slot 0 and one warp whose path issues a NOP. -/
def base : State :=
  let s := State.reset.withFetchWord 64 0x0038000000000000
  { s with agenda := [], cur := some ⟨0, 0, 0x0038000000000000, 0, false⟩ }

/-- The frame of the issuer satisfies the check. -/
def onIssuer (s : State) (f : Ictx → Bool) : Bool := (s.ictx?).any f

theorem exists_frame {s : State} {f : Ictx → Bool} (h : onIssuer s f = true) : ∃ x, Issues s x ∧ f x = true := by
  unfold onIssuer at h
  cases hx : s.ictx? with
  | none => simp [hx] at h
  | some x => exact ⟨x, hx, by simpa [hx] using h⟩

/-- Operands that the frame may name. -/
def mayName (x : Ictx) (os : List Operand) : Bool := (!privOf os || 2 ≤ x.w.trap.level) && topOf os ≤ x.g.nv

theorem named_of {x : Ictx} {os : List Operand} (h : mayName x os = true) : Named x os := by
  simpa [mayName, Named, Bool.not_eq_true'] using h

/-- The issuing warp with something set. -/
def withWarp (f : Warp → Warp) (s : State) : State := s.modWarp 0 f

theorem base_issues : onIssuer base (fun x => x.any .always && mayName x [.v 319, .s 63, .int (-16), .spec .mode] && KMap.rising x.w.vr.v) = true := by
  decide +kernel

end Sys2Proof.Tests
end

