-- ==== Sys2Proof/Tests/WitnessModule.lean ====
section
/-! SUPPORT. Witnesses for the statements about power, links and packets. -/

set_option Elab.async false

namespace Sys2Proof.Tests

open Sys2Proof.Machine

set_option maxRecDepth 100000

/-! ### Start-up, power, links -/

def withStart (p : Start) (s : State) : State := { s with power := { s.power with start := p } }

theorem wit_StartUp :
    (State.reset.power.start = .off) ∧ (withStart .bist base).power.start = .bist ∧ (withStart .bist base).power.fails < 2 ∧
      (withStart .bist base).power.thalt = false ∧ { (withStart .bist base).power with fails := 2 }.start = .bist := by decide +kernel

/-- In M2, and in M3 with no vchip. -/
def inState (n : BitVec 2) (s : State) : State := { s with power := { s.power with cur := n } }

def noClear (h : Nat) : PowerReq := ⟨false, false, h⟩

/-- A dedicated vchip with a gang that has no save area, as in `base`. -/
theorem wit_PowerRegisterAndHeat_register :
    [ decide (State.reset.power.start = .off),                                            -- loss of power from anywhere
      decide ((withStart .safe base).power.start ≠ .off ∧ (withStart .safe base).power.start ≠ .operational),
      decide (base.power.start = .operational ∧ base.power.thalt = false ∧ base.power.busy = false ∧ (0 : BitVec 2) = base.power.cur),
      decide ({ base with power := { base.power with busy := true } }.power.busy = true ∧ base.power.thalt = false),
      decide ((2 : BitVec 2) ≠ (inState 3 base).power.cur ∧ (inState 3 base).power.cur = 3),
      decide ((1 : BitVec 2) ≠ base.power.cur ∧ base.power.cur ≠ 3),
      decide ((3 : BitVec 2) ≠ base.power.cur ∧ base.anyVchip = true),
      decide ((3 : BitVec 2) ≠ { base with slots := [] }.power.cur ∧ { base with slots := [] }.anyVchip = false),
      (base.vchips.any fun e => (base.slot e.1).sch.now.dedic && base.saveShort e.1),
      !({ base with work := State.reset.work }.vchips.any fun e =>
        ({ base with work := State.reset.work }.slot e.1).sch.now.dedic && { base with work := State.reset.work }.saveShort e.1),
      ({ base with slots := [], power := { base.power with target := some 3 } }.vchips.all fun e => e.1 = 64) ].all (fun b => b) = true := by
  decide +kernel

/-- A halted module, at 89 and at 90 degrees. -/
theorem wit_PowerRegisterAndHeat_heat :
    (let s := { base with power := { base.power with thalt := true } }
     s.power.start = .operational ∧ s.power.thalt = true ∧ s.power.busy = false ∧ s.power.cur = 0 ∧ (noClear 89).hottest < 90 ∧
      90 ≤ (noClear 90).hottest ∧ (noClear 90).clearTwarn = false ∧ (noClear 90).clearRefused = false) ∧
    base.power.mcmdBusy = false ∧ (withStart .minimal base).power.start = .minimal ∧ (withStart .safe base).power.start = .safe := by
  decide +kernel

/-- The last coordinate pair, and the last value that names a port or none. -/
theorem wit_MinimalRoutesArrive : (255 : Nat) < 256 ∧ minimalPort true 255 0 ≠ none ∧ minimalPort false 0 255 ≠ none ∧ minimalPort true 7 7 = none := by
  decide +kernel

theorem wit_LinkRegistersAndSteps_modcfg :
    [ decide (fld (0x001E0FFF : Word) 0 8 ≠ base.links.coord.toNat ∧ base.anyVchip = true),
      decide (30 ≤ fld (0x00FF1E00 : Word) 8 8 ∧ fld (0x00FF1E00 : Word) 8 8 ≠ 0xFF),
      decide (30 ≤ fld (0x00FEFF00 : Word) 16 8 ∧ fld (0x00FEFF00 : Word) 16 8 ≠ 0xFF),
      decide (fld (0x001D1D00 : Word) 8 8 = fld (0x001D1D00 : Word) 16 8 ∧ fld (0x001D1D00 : Word) 8 8 ≠ 0xFF),
      (let s : State := { base with slots := [] }
       let v : Word := 0x00FFFF12
       decide (s.power.start ≠ .off) && !s.anyVchip && decide (fld v 8 8 = s.links.sp30.toNat) && decide (fld v 16 8 = s.links.sp31.toNat) &&
        decide (fld v 8 8 < 30 ∨ fld v 8 8 = 0xFF) && decide (fld v 16 8 < 30 ∨ fld v 16 8 = 0xFF)) ].all (fun b => b) = true := by
  decide +kernel

/-- Port 31, with 16 and 17 replays within a millisecond; port 29 that spare 30 has replaced; a packet for module 0x11 at module 0. -/
def replayed (n : Nat) : State := { base with now := 5000 }.modPort 31 fun p => { p with replays := List.replicate n 4999 }
def spared : State := { base with links := { base.links with sp30 := 29 } }

theorem wit_LinkRegistersAndSteps_steps :
    base.links.ports.length = 32 ∧ base.power.start ≠ .off ∧ base.fabricRuns = true ∧ (base.port 31).up = true ∧ base.replaced 31 = false ∧
      (spared.port 29).up = true ∧ spared.replaced 29 = true ∧ spared.replaced 28 = false ∧
      ((replayed 16).port 31).recent (replayed 16).now ≤ 16 ∧ 16 < ((replayed 17).port 31).recent (replayed 17).now ∧
      (let p : Packet := ({ typ := 1, dmod := 0x11 : Hdr }).packet []
       (nextPort base.links.coord.toNat p.rmode p.dmod).any fun j => !base.hopFull j p) = true := by decide +kernel

/-! ### Packets -/

/-- Keys from the peer and to it. -/
def inKey : Key := ⟨0x8020001000000000, 0, 7, 8, none, 0, 0, false⟩
def outKey : Key := ⟨0x8000800004000000, 0, 7, 8, none, 0, 0, false⟩

/-- Slot 0 is guest vchip 0 of guest 0; a peer, guest vchip 1, is in slot 2 of module 1. Keys 1 and 2 of the key store are their vlinks'. -/
def peer : State :=
  let s := base.modSlot 0 fun x => { x with ktable := [(1, 1)], blk := { x.blk with rlogbase := 0x3000001 } }
  let s := { s with tables := { s.tables with
    guests := [(0, ⟨0, 2, [(1, 0xC000000000000000 + 0x0001000000000000 + 0x0000080000000000)], [(0, 0x80000000)], []⟩)]
    keys := [(1, inKey), (2, outKey)] } }
  -- the log's control block at 0x3000000, its rings at 0x4000000 and 0x5000000, 2^16 bytes each
  s.hbmWrite ⟨64, 0⟩ 0x3000000 (wordsBytes [0x4000010, 0x5000010, 0, 0, 0, 0, 0, 0])

def fromPeer (typ : Nat) : Hdr := { typ := typ, smod := 1, sslot := 2, keyix := 1, svch := 1 }

/-- The packet of a header under key 1, at port 0. -/
def sealedPacket (h : Hdr) (payload : List Byte) : Packet := (h.packet payload).seal 7 (!(h.packet payload).isRequest)
def atPort (s : State) (p : Packet) : State := { s with fabric := { s.fabric with arriving := some (.wire 0 p) } }

theorem arrives {s : State} {p : Packet}
    (h : (s.fabricRuns && s.portTakes 0 && p.dmod = s.coordN && !s.reorderFull 0) = true) :
    (atPort s p).arrival = some (0, p, (atPort s p).framesArrived 0 p) := by
  simp only [Bool.and_eq_true, decide_eq_true_eq, Bool.not_eq_true'] at h
  obtain ⟨⟨⟨h1, h2⟩, h3⟩, h4⟩ := h
  have e1 : (atPort s p).fabricRuns = true := h1
  have e2 : (atPort s p).portTakes 0 = true := h2
  have e3 : (atPort s p).coordN = s.coordN := rfl
  have e4 : (atPort s p).reorderFull 0 = false := h4
  simp [State.arrival, State.noRoom, e1, e2, e3, e4, h3, show (atPort s p).fabric.arriving = some (.wire 0 p) from rfl]

theorem tag_ok (p : Packet) (key : BitVec 256) (a : Bool) : (p.seal key a).tagOk key a = true := by
  simp [Packet.tagOk, Packet.seal, Packet.nonce, Packet.epoch, Packet.stream, Packet.seq, Packet.smod, Packet.sslot, Packet.dslot, Packet.dmod]

/-- A packet under the current key, whose header is in order and matches the key's entry, passes the check. -/
theorem passes {s : State} {h : Hdr} {bs : List Byte} {k : Key}
    (hk : s.key? (h.packet bs).keyix = some k)
    (hc : (k.v && (h.packet bs).keyix != 0 && k.forEpoch (h.packet bs).epoch == some (7, false) && !(sealedPacket h bs).headerBad &&
      k.matches (h.packet bs) && (s.vchip? (h.packet bs).dslot).isSome) = true) :
    s.check (sealedPacket h bs) = (none, s) := by
  simp only [Bool.and_eq_true, Bool.not_eq_true', bne_iff_ne, ne_eq, beq_iff_eq] at hc
  obtain ⟨⟨⟨⟨⟨h1, h2⟩, h3⟩, h4⟩, h5⟩, h6⟩ := hc
  have e1 : s.key? (sealedPacket h bs).keyix = some k := hk
  have e2 : ¬ (sealedPacket h bs).keyix = 0 := h2
  have e3 : k.forEpoch (sealedPacket h bs).epoch = some (7, false) := h3
  have e4 : (sealedPacket h bs).tagOk 7 (!(sealedPacket h bs).isRequest) = true := tag_ok _ _ _
  have e5 : k.matches (sealedPacket h bs) = true := h5
  have e6 : (s.vchip? (sealedPacket h bs).dslot).isNone = false := by
    rw [Option.isNone_eq_false_iff]; exact h6
  simp [State.check, e1, h1, e2, e3, h4, e5, e6]
  exact e4

def isDone : HomeRes → Bool
  | .done _ => true
  | _ => false

def isWork : HomeRes → Bool
  | .work _ _ => true
  | _ => false

/-- A WRITE of 8 bytes at the stream's first SEQ arrives and executes. -/
theorem wit_RequestsInOrder :
    ∃ p s1, (atPort peer p).arrival = some (0, p, s1) ∧ p.typ = 1 ∧ s1.check p = (none, s1) ∧ (s1.dstStream p.dstId).frozen = none ∧
      (s1.dstStream p.dstId).job = none ∧ (s1.dstStream p.dstId).held = [] ∧ p.seq = (s1.dstStream p.dstId).expected ∧
      isDone ((s1.setDst { s1.dstStream p.dstId with last := some p, held := [(0, p)] }).fileRequest p) = true := by
  refine ⟨sealedPacket { fromPeer 1 with offset := 0x2000000, nbytes := 8 } (List.replicate 8 1), _, arrives (by decide +kernel), by decide +kernel,
    passes (k := inKey) (by decide +kernel) (by decide +kernel), ?_⟩
  decide +kernel

/-- A slot whose stage 2 maps its first page to host memory, with its TDI outside RUN. -/
def hostPeer : State :=
  (peer.hbmWrite ⟨64, 0⟩ 0x3100000 (wordsBytes [0x39, 0, 0, 2])).modSlot 0 fun x => { x with
    blk := { x.blk with s2range := 0x3100001 }, tdi := some .locked }

/-- A list enqueue begins, a WRITE for host memory waits outside RUN, and one without a valid log is refused, each as its stream's next. -/
theorem wit_RequestsInOrder_outcomes :
    isWork (peer.fileRequest ({ fromPeer 4 with aop := 11, atype := 8, offset := 0x2000000, imm := 0x3000008 }.packet [])) = true ∧
    hostPeer.fileRequest ({ fromPeer 1 with offset := 8, nbytes := 8 }.packet (List.replicate 8 1)) = .wait ∧
    hostPeer.homeHeld 0 ({ fromPeer 1 with offset := 8, nbytes := 8 }.packet (List.replicate 8 1)) = true ∧
    (peer.modSlot 0 fun x => { x with blk := { x.blk with rlogbase := 0 } }).fileRequest ((fromPeer 1).packet []) = .fault 8 := by
  decide +kernel

/-- A key index without a key fails the check, on a stream that is not frozen; the SEQ before the expected one and the one 2^23 before it are
old, the one after it is not. -/
theorem wit_RequestsInOrder_fails :
    (let p := { fromPeer 2 with keyix := 9 }.packet []
     ((atPort peer p).check p).1 = some 5 ∧ ((atPort peer p).dstStream p.dstId).frozen = none ∧ ((atPort peer p).dstStream p.dstId).job = none) ∧
    seqExecuted 0 (2 ^ 24 - 1) = true ∧ seqExecuted 0 (2 ^ 23) = true ∧ seqExecuted 0 (2 ^ 23 - 1) = false ∧ seqExecuted 0 0 = false ∧
    ((peer.freezeDst ((fromPeer 1).packet []) 4 0).dstStream ((fromPeer 1).packet []).dstId).frozen.isSome = true := by decide +kernel

def lastByte : Nat := 2 ^ 40 - 8

/-- A slot whose log defers, before and after the limit. -/
def deferring (limit : Bool) : State := peer.modSlot 0 fun x => { x with log := { x.log with st := .logging, limit := limit } }

/-- The last 8 bytes of the space that stage 2 maps, for each operation. -/
theorem wit_RequestsAtTheirHome :
    (peer.offsetRuns 0 lastByte 8 Acc.write = .ok [(.hbm lastByte ⟨0, 0⟩, 8)]) ∧
    (peer.offsetRuns 0 lastByte 8 Acc.read = .ok [(.hbm lastByte ⟨0, 0⟩, 8)]) ∧
    (peer.agentPlace 0 lastByte 8 Acc.both = .ok (.hbm lastByte ⟨0, 0⟩)) ∧ lastByte % 8 = 0 ∧
    (peer.agentPlace 0 (lastByte - 8) 16 Acc.both = .ok (.hbm (lastByte - 8) ⟨0, 0⟩)) ∧ (lastByte - 8) % 16 = 0 ∧
    ((fromPeer 4).packet [] |>.typ) = 4 ∧ ({ fromPeer 4 with atype := 8, aop := 7 }.packet (List.replicate 8 0)).payload.length = 8 ∧
    ({ fromPeer 4 with aop := 13 }.packet []).aop = 13 ∧ base.validLog? 0 = none ∧ peer.validLog? 0 = some 0x3000000 ∧
    ((peer.slot 0).log.st = .running) ∧ peer.homeHeld 0 ((fromPeer 1).packet []) = false ∧
    ((deferring true).validLog? 0).isSome = true ∧ ((deferring true).slot 0).log.st ≠ .running ∧ ((deferring true).slot 0).log.limit = true ∧
    ((deferring false).slot 0).log.limit = false ∧
    (peer.appendRecord 0 (peer.msgRing 0x3000000) ((fromPeer 6).packet [])).isSome = true ∧
    ((deferring false).appendRecord 0 ((deferring false).defRing 0x3000000) ((fromPeer 1).packet [])).isSome = true := by decide +kernel

def stream0 : StreamId := ⟨0, 1, 0⟩

/-- A stream from slot 0 to vchip 1, with one request unacknowledged for 10 ms. -/
def sending (fz : Option SrcFreeze) : State :=
  peer.setSrc ⟨stream0, 0, 1, false, [], [], [⟨0, (fromPeer 1).packet [], false, 0, .none, 10000⟩], [], fz⟩

/-- An answer or control from the peer. -/
def answerOf (typ oparg : Nat) (rev : Bool) : Hdr := { fromPeer typ with rev := rev, oparg := oparg, keyix := if rev then 2 else 1 }

/-- Answers and controls that pass the check; the stream that they name stands, frozen or not, and a destination's confirmation is awaited
by no held packet. -/
theorem wit_AnswersAndSourceStreams_controls :
    ∀ t ∈ [(3, 0, true), (5, 0, true), (8, 0, true), (0x10, 0, true), (0x11, 0, true), (0x11, 1, true), (0x11, 1, false)],
      ∃ p s1, (atPort (sending none) p).arrival = some (0, p, s1) ∧ p.typ = t.1 ∧ p.oparg % 2 = t.2.1 ∧ p.rev = t.2.2 ∧ s1.check p = (none, s1) ∧
        (s1.srcStream? ⟨p.dslot, p.svch, p.rstream⟩).isSome = true ∧ (s1.dstStream ⟨p.dslot, p.svch, p.rstream⟩).held = [] := by
  intro t ht
  refine ⟨sealedPacket (answerOf t.1 t.2.1 t.2.2) [], _, arrives ?_, ?_, ?_, ?_,
    passes (k := if t.2.2 then outKey else inKey) ?_ ?_, ?_, ?_⟩ <;>
  · simp only [List.mem_cons, List.not_mem_nil, or_false] at ht
    rcases ht with rfl | rfl | rfl | rfl | rfl | rfl | rfl <;> decide +kernel

theorem wit_AnswersAndSourceStreams_fails :
    (((atPort peer ({ fromPeer 3 with keyix := 9, rev := true }.packet [])).check ({ fromPeer 3 with keyix := 9, rev := true }.packet [])).1) = some 5 ∧
    (let p := { fromPeer 3 with keyix := 9, rev := true }.packet []
     p.rev = true ∧ ((sending none).vchip? p.dslot).isSome = true ∧
      ((sending none).srcStream? ⟨p.dslot, p.svch, p.rstream⟩).any (fun x => x.frozen.isNone && !x.sent.isEmpty) = true) ∧
    (sending (some ⟨1, 0, false⟩)).srcStream? stream0 ≠ none ∧
    ((sending (some ⟨1, 0, false⟩)).srcStream? stream0).bind (·.frozen) = some ⟨1, 0, false⟩ ∧
    ((sending none).srcStream? stream0).bind (·.frozen) = none := by decide +kernel

/-- A stream with a request to send, to a loopback peer; with an unacknowledged one to send again. -/
def toSend : State := peer.setSrc ⟨stream0, 0, 2 ^ 24 - 1, false, [⟨1, 0, 0, 0, 8, 0, false, 0, 0, List.replicate 8 1, .none, none⟩], [], [], [], none⟩
def toResend : State :=
  peer.setSrc ⟨stream0, 0, 1, false, [], [0], [⟨0, (fromPeer 1).packet [], true, 0, .none, 0⟩], [], none⟩

theorem wit_AnswersAndSourceStreams_send :
    ((toSend.srcStream? stream0).any fun x => toSend.mayInject x && x.resend.isEmpty && !x.queued.isEmpty && !x.wrapped &&
      !toSend.paused x.guest && x.queued.all fun r => toSend.originReady r.origin && toSend.lateReady r) = true ∧
    ((toSend.vchip? stream0.slot).any fun c => (toSend.guest? (toSend.headerOf c)).any fun g => mapV (g.mapEntry stream0.dvch) &&
      mapLoop (g.mapEntry stream0.dvch) && labV (g.label (mapLabel (g.mapEntry stream0.dvch)))) = true ∧
    toSend.keyIxOf stream0.slot stream0.dvch ≠ 0 ∧
    ((toResend.srcStream? stream0).any fun x => toResend.mayInject x && !x.resend.isEmpty &&
      (x.sent.find? fun e => e.seq == 0).any fun p => !toResend.blocked 0 p.loopback (some p.port)) = true := by decide +kernel

/-- A stream whose oldest request has waited 10 ms; an answer that may go; a key whose count is spent and whose next key stands. -/
theorem wit_AnswersAndSourceStreams_source :
    (((sending none).srcStream? stream0).any fun x => x.frozen == none &&
      (x.sent.find? fun q => 10000 ≤ q.age && !x.resend.contains q.seq).isSome) = true ∧
    (((sending (some ⟨9, 0, true⟩)).srcStream? stream0).any fun x => x.frozen.isSome) = true ∧
    (sending none).fabricRuns = true ∧
    (peer.nextOut [⟨({ fromPeer 8 with dmod := 1, rev := true }).packet [], 1, false, false⟩]).isSome = true ∧
    (let k : Key := ⟨0xC020001000000000, 0, 7, 8, none, 0, 0, true⟩
     k.wrap = true ∧ k.nxv = true ∧ (peer.oldEpoch 1 k) = false) := by decide +kernel

end Sys2Proof.Tests
end

