-- ==== Sys2Proof/Tests/WitnessCore.lean ====
section
/-! SUPPORT. Witnesses for the statements about scalar, vector and memory instructions, traps and contexts. -/

set_option Elab.async false

namespace Sys2Proof.Tests

open Sys2Proof.Machine

set_option maxRecDepth 100000

/-! ### Scalar and control instructions, waits, widths -/

/-- Every clause's hypotheses, each with a state and operands. -/
def allHold (l : List Bool) : Bool := l.all fun b => b

def plainB (x : Ictx) (g : Guard) (os : List Operand) : Bool := x.any g && mayName x os

theorem plain_of {x : Ictx} {g : Guard} {os : List Operand} (h : plainB x g os = true) : Plain x g os := by
  simp only [plainB, Bool.and_eq_true] at h
  exact ⟨h.1, named_of h.2⟩

/-- The last scalar registers and both ends of the integer constants; the frame of every scalar statement. -/
theorem wit_ScalarInstructions : ∃ x, Issues base x ∧ Plain x .always [.s 63, .int (-16), .int 31] ∧ Ty.i32 ∈ aluTypes ∧ Ty.b64 ∈ aluTypes := by
  obtain ⟨x, hx, h⟩ := exists_frame (s := base) (f := fun x => plainB x .always [.s 63, .int (-16), .int 31]) (by decide +kernel)
  exact ⟨x, hx, plain_of h, by decide, by decide⟩

/-- A guard that holds in no lane; a name that only level 2 may use. -/
theorem wit_GoingOnOrNot :
    onIssuer base (fun x => !x.any ⟨0, false⟩ && mayName x [.s 0, .s 1, .s 2]) = true ∧
    onIssuer base (fun x => decide (x.w.trap.level < 2) && privOf [.spec .utpc, .s 0] && Spec.isPriv .utcause) = true ∧
    (Instr.sadd ⟨0, false⟩ .i64 0 (.s 0) (.s 1), [Operand.s 0, Operand.s 1]) ∈
      onceRows ⟨0, false⟩ .i64 .eq 0 0 1 (.s 0) (.s 1) (.s 2) 0 0 0 := by
  refine ⟨by decide +kernel, by decide +kernel, ?_⟩
  simp [onceRows]

/-- p6 and p7 as destinations. -/
theorem wit_PredicateInstructions : onIssuer base (fun x => KMap.rising x.w.vr.p && x.any .always && decide (6 ≠ 7)) = true := by decide +kernel

def atLevel (n : Nat) (s : State) : State := withWarp (fun w => { w with trap := { w.trap with level := n, own1 := fullMask 32, own2 := fullMask 32 } }) s

theorem wit_SpecialRegisters :
    allHold [
      onIssuer base fun x => plainB x .always [.spec .lane] && plainB x .always [.spec .vlt, .v 319] && plainB x .always [.s 63] &&
        KMap.rising x.w.vr.v && decide (x.w.trap.level = 0) && (specialRows x 0).any (fun r => r.1 == .vlt),
      onIssuer (atLevel 1 base) fun x => plainB x .always [.spec .tpc] && decide (x.w.trap.level = 1),
      onIssuer (atLevel 2 base) fun x => plainB x .always [.spec .utpc] && decide (x.w.trap.level = 2) && plainB x .always [.spec .utcause, .v 0] ] = true := by
  decide +kernel

/-- p1 holds in lanes 0 to 3. -/
def some4 (s : State) : State := withWarp (fun w => w.setP 1 0xF) s

def region0 (join : Word) (members arrived parked : Mask) (s : State) : State :=
  withWarp (fun w => { (w.modPath 0 fun p => { p with link := some 31 }) with
    stack := setAt w.stack 31 (some ⟨.region ⟨join, members, arrived, parked, none⟩, 0⟩) }) s

def fullStack (s : State) : State :=
  withWarp (fun w => { w with stack := List.replicate 32 (some ⟨.region ⟨0, 1, 0, 0, none⟩, 5⟩) }) s

theorem wit_Branches :
    allHold [
      -- every lane taken, none taken, some taken
      onIssuer base fun x => x.any .always && decide (x.act &&& x.w.pred 7 = x.act) && decide (x.act &&& x.w.pred 7 ≠ 0),
      onIssuer base fun x => decide (x.act &&& ~~~(x.w.pred 7) = 0),
      onIssuer (some4 base) fun x => decide (x.act &&& x.w.pred 1 ≠ 0) && decide (x.act &&& x.w.pred 1 ≠ x.act) &&
        decide ((if x.w.freePlace = none then 2 else 1) ≤ x.w.freeEntries) && decide (x.w.nseq < 0xFFFF) && decide (x.p.link = none),
      -- no entry free
      onIssuer (fullStack (some4 base)) fun x => decide (x.act &&& x.w.pred 1 ≠ 0) && decide (x.act &&& x.w.pred 1 ≠ x.act) &&
        decide (x.w.freeEntries < (if x.w.freePlace = none then 2 else 1)),
      -- a region with another join; BRX beyond the chain, and to a region with another join
      onIssuer (region0 8 0xFF 0 0 base) fun x => decide (x.p.link = some 31) && (x.w.region? 31).any (fun q => q.join != x.p.pc) &&
        decide ((x.w.chainOf x.p.link).length < 2) && decide ((x.w.chainOf x.p.link)[0]? = some 31) ] = true := by decide +kernel

theorem wit_Reconvergence :
    allHold [
      -- lanes 32 and up are members that have not arrived
      onIssuer (region0 (2 ^ 26) (BitVec.allOnes 64 |>.setWidth 128) 0 0 base) fun x => x.any .always && decide (x.p.link = some 31) &&
        (x.w.region? 31).any fun q => q.join == x.p.pc && ((q.members &&& ~~~x.w.exited) &&& ~~~((q.arrived ||| x.act) ||| q.parked)) != 0,
      -- the last to arrive
      onIssuer (region0 (2 ^ 26) 0xFFFFFFFF 0 0 base) fun x => (x.w.region? 31).any fun q => q.join == x.p.pc &&
        ((q.members &&& ~~~x.w.exited) &&& ~~~((q.arrived ||| x.act) ||| q.parked)) == 0 &&
        (((q.arrived ||| x.act) ||| q.parked) &&& ~~~x.w.exited) != 0,
      -- BRX to a region with a member left
      onIssuer (region0 (2 ^ 26 + 8) (BitVec.allOnes 64 |>.setWidth 128) 0 0 base) fun x => (x.w.region? 31).any fun q =>
        q.join == x.p.pc + 8 * (1 : BitVec 18).signExtend 64 &&
        ((q.members &&& ~~~x.act &&& ~~~x.w.exited) &&& ~~~(q.arrived ||| (q.parked ||| x.act))) != 0,
      decide (31 < 32) ] = true := by decide +kernel

def setReg (n : Nat) (v : Word) (s : State) : State := withWarp (fun w => w.setS n v) s
def boostedW (s : State) : State := withWarp (fun w => { w with task := { w.task with st := .active } }) s

theorem wit_CallsAndExit :
    allHold [
      onIssuer (setReg 63 8 base) fun x => plainB x .always [.s 63] && decide (x.uni .b64 (.s 63) &&& 7 = 0),
      onIssuer (setReg 63 7 base) fun x => plainB x .always [.s 63] && decide (x.uni .b64 (.s 63) &&& 7 ≠ 0),
      onIssuer (boostedW base) fun x => x.w.boosted,
      -- only lanes 0 to 15 are on the path
      onIssuer (withWarp (fun w => w.modPath 0 fun p => { p with mask := 0xFFFF }) base) fun x => !x.w.boosted && decide (x.w.trap.level = 0) &&
        decide (x.p.link = none) && decide ((x.w.exited ||| x.act) &&& fullMask x.w.width ≠ fullMask x.w.width) ] = true := by decide +kernel

/-- Handle 15 as given, with these counters. -/
def withHandle (h : Handle) (c : Counters) (s : State) : State :=
  withWarp (fun w => { w with handles := setAt w.handles 15 h, cnt := c }) s

/-- A linear copy of handle 15 of warp 0, and its place in the engine. -/
def copyOf (len : Nat) : Copy :=
  ⟨7, 0, 15, 0, 0, 0, fetchRecord, [⟨0, 0, 0, []⟩], .linear, 0x2000000, 0x3000000, len, 0, none, false, [], [], 0, false, 0, none, [], [], 0⟩
def withCopy (c : Copy) (s : State) : State := s.modWork fun k => { k with copies := [(c.id, c)], nextCopy := 8 }

/-- A post of handle 15 of warp 0 with 960 bytes acknowledged, and its place in the engine; `sent` once its first packet has left. -/
def postOf (sent : Bool) : Post := ⟨3, 0, 15, .write, 0, 0x2000000, 4096, 0, 0, 960, sent, [], [], none, 0, 0, fetchRecord, [⟨0, 0, 0, []⟩], [], 0⟩
def withPost (sent : Bool) (s : State) : State := s.modWork fun k => { k with posts := [(3, postOf sent)] }

def overflowOn (s : State) : State := withWarp (fun w => { w with mode := 0x1F00 }) s

theorem wit_WaitsAndHandles :
    allHold [
      onIssuer (withHandle ⟨.pending, 2, 0, 0, false, 0, 0⟩ ⟨63, 63, 31, 15⟩ base) fun x => x.any .always && decide (15 < x.w.handles.length) &&
        decide (x.w.cnt.ld ≤ 63 ∧ x.w.cnt.st ≤ 63 ∧ x.w.cnt.cp ≤ 31 ∧ x.w.cnt.tl ≤ 15) && decide ((x.w.handle 15).st = .pending ∧ (x.w.handle 15).op ≠ 0 ∧ (x.w.handle 15).op ≠ 5),
      onIssuer (withHandle ⟨.idle, 0, 0, 0, false, 0, 0⟩ ⟨1, 0, 0, 0⟩ base) fun x => decide (0 < x.w.cnt.ld) && decide ((x.w.handle 15).st ≠ .pending),
      onIssuer (withHandle ⟨.done, 0, 0, 0x1F, false, 0, 0⟩ ⟨0, 0, 0, 0⟩ base) fun x => decide (x.mergeTrap (x.w.covers 0 0) = none) &&
        !((x.w.covers 0 0).isEmpty) && decide ((x.w.handle 15).flags.toNat &&& x.w.enables = 0),
      onIssuer (overflowOn (withHandle ⟨.done, 0, 0, 0x1F, false, 0, 0⟩ ⟨0, 0, 0, 0⟩ base)) fun x => decide ((x.w.handle 15).st = .done) &&
        !(x.w.handle 15).merged && decide ((x.w.handle 15).flags.toNat &&& x.w.enables ≠ 0) && decide (x.w.trap.level < 2),
      -- a copy of handle 15 that has not started
      onIssuer (withCopy (copyOf 64) (withHandle ⟨.pending, 0, 0, 0, false, 0, 0⟩ ⟨0, 0, 1, 0⟩ base)) fun x => (x.s.idleCopy x.c.warp 15).isSome,
      -- posts: one that has sent nothing, one that has sent
      onIssuer (withPost false (withHandle ⟨.pending, 5, 0, 0, false, 960, 0⟩ ⟨0, 0, 0, 0⟩ base)) fun x => (x.s.idlePost x.c.warp 15).isSome &&
        decide ((x.w.handle 15).st = .pending ∧ (x.w.handle 15).op = 5),
      onIssuer (withPost true (withHandle ⟨.pending, 5, 0, 0, false, 960, 0⟩ ⟨0, 0, 0, 0⟩ base)) fun x => (x.s.idlePost x.c.warp 15).isNone ] = true := by
  decide +kernel

def graceState (s : State) : State :=
  (s.modSched 0 fun c => { c with grace := true }).modWork fun k => { k with gangs := k.gangs.map fun e =>
    (e.1, { e.2 with words := setAt e.2.words 2 (recWord e.2.words 2 ||| (1 <<< 24)) }) }

def fullPort (s : State) : State := s.modSlot 0 fun x => { x with win := { x.win with port := List.replicate 256 ⟨0, 0, none⟩ } }

theorem wit_YieldRgetLaunch :
    allHold [
      onIssuer base fun x => plainB x .always [.s 63, .int 16] && !(x.s.slot x.v).sched.grace,
      onIssuer (graceState base) fun x => (x.s.slot x.v).sched.grace && x.g.yg && !x.w.boosted && decide (x.w.trap.level = 0) &&
        x.w.handles.all fun h => h.st != .pending,
      onIssuer base fun x => decide (15 < (x.index 0 (.int 16)).toNat) && decide ((x.index 0 (.int 15)).toNat ≤ 15),
      onIssuer (setReg 1 64 (setReg 2 0xFF base)) fun x => decide (63 < (x.index 0 (.s 1)).toNat) && decide ((x.index 0 (.s 2)) &&& 0xFF ≠ 0),
      onIssuer (setReg 1 63 (setReg 2 0x100 base)) fun x => decide ((x.index 0 (.s 1)).toNat ≤ 63) && decide (x.index 0 (.s 2) &&& 0xFF = 0) &&
        decide ((x.s.slot x.v).win.port.length < 256),
      onIssuer (fullPort base) fun x => decide (256 ≤ (x.s.slot x.v).win.port.length) ] = true := by decide +kernel

def ofWidth (n : Nat) (s : State) : State := withWarp (fun w => { w with width := n }) s

/-- Warp 1 of the workgroup, in the next slot. -/
def two (f : Warp → Warp) (s : State) : State :=
  match s.warp? 0 with
  | none => s
  | some w => s.modWork fun k => { k with warps := [(0, w), (1, f { w with id := { w.id with slot := 1 } })], nextWarp := 2 }

def rz (r : Rendezvous) (w : Warp) : Warp := w.modPath 0 fun p => { p with rz := some r }

theorem wit_WidthChanges :
    allHold [
      onIssuer base fun x => x.any .always && decide (x.w.trap.level = 0) && decide (x.w.width = 32) && !x.w.boosted && !x.w.diverged && !x.w.pending &&
        decide (x.w.mergeAllTraps x.w.enables = []) && decide (x.w.exited = 0) && decide (x.act = fullMask 32) &&
        decide (x.c.warp < x.s.work.nextWarp) && decide (x.w.work.ops = []) && KMap.rising x.w.set.s && decide (x.w.task.st ≠ .replay),
      onIssuer (withWarp (fun w => { w with task := { w.task with st := .replay } }) base) fun x => x.any .always && decide (x.w.trap.level = 0) &&
        decide (x.w.task.st = .replay),
      onIssuer (ofWidth 8 base) fun x => decide (x.w.width ∈ [8, 16, 32, 64, 128]),
      onIssuer (boostedW base) fun x => x.w.boosted,
      onIssuer (some4 (region0 8 0xFF 0 0 base)) fun x => !x.w.boosted && x.w.diverged,
      onIssuer (withHandle ⟨.pending, 2, 0, 0, false, 0, 0⟩ ⟨0, 0, 0, 1⟩ base) fun x => !x.w.boosted && !x.w.diverged && x.w.pending,
      onIssuer (atLevel 1 base) fun x => plainB x .always [.int 0] && decide (x.w.trap.level ≠ 0),
      onIssuer (ofWidth 64 base) fun x => decide (x.p.rz = none) && decide (x.w.width = 64),
      onIssuer (ofWidth 16 base) fun x => decide (x.w.width < 32) && decide (32 < x.w.width * 4),
      onIssuer (two (fun w => w) (boostedW base)) fun x => decide (x.w.width = 32) && x.w.boosted &&
        (List.range 2).all (fun j => x.s.partnerAt x.w (4 * (x.w.id.slot / 2 * 2 + j)) != .misfit),
      onIssuer (two (fun w => { w with width := 64 }) base) fun x => decide (x.w.width = 32) &&
        (List.range 2).any (fun j => x.s.partnerAt x.w (4 * (x.w.id.slot / 2 * 2 + j)) == .misfit),
      onIssuer (withWarp (rz ⟨2, 0, 0, 5, 5⟩) base) fun x => x.p.rz.isSome,
      onIssuer (two (fun w => w) base) fun x => decide (x.s.fuseCheck x.w 2 = 0) && decide (x.p.rz = none) && decide (x.w.task.st ≠ .replay) &&
        (x.s.partnerIds x.w 2).all (fun i => (x.s.warp? i).all fun w => (w.waiting 2 15).isEmpty),
      -- a rendezvous before and at its deadline, its partner not waiting
      (let s := two (fun w => { w with paths := [some (Path.start 0 1 none), none, none, none] }) (withWarp (rz ⟨2, 15, 0, 5, 5⟩) base)
       (s.warp? 0).any fun w => decide (s.cyc w.id.core < 5) && decide (w.livePaths.length = 1) && decide (s.partnerIds w 2 = [0, 1]) &&
        (s.warp? 1).any fun v => (v.waiting 2 15).isEmpty),
      (let s := two (fun w => { w with paths := [some (Path.start 0 1 none), none, none, none] }) (withWarp (rz ⟨2, 15, 0, 0, 0⟩) base)
       (s.warp? 0).any fun w => decide (0 ≤ s.cyc w.id.core) && decide (s.partnerIds w 2 = [0, 1])) ] = true := by decide +kernel

/-! ### Vector and cross-lane instructions -/

def vecB (x : Ictx) (d : Nat) (os : List Operand) : Bool := mayName x (.v d :: os) && KMap.rising x.w.vr.v

theorem vec_of {s : State} {x : Ictx} {d : Nat} {os : List Operand} (hx : Issues s x) (h : vecB x d os = true) : VecFrame s x d os := by
  simp only [vecB, Bool.and_eq_true] at h
  exact ⟨hx, named_of h.1, h.2⟩

/-- The frame of every vector statement: the last vector register, scalar registers, constants and special registers, at the widths of a
launch and at 128, with no flag enabled. -/
theorem wit_vector : ∃ x, Issues base x ∧ VecFrame base x 319 [.v 319, .s 63, .int (-16)] ∧ x.w.enables = 0 ∧ x.w.width = 32 ∧
    ((List.range 128).all fun l => !(x.w.width ≤ l && Mask.has x.act l)) = true ∧ KMap.rising x.w.vr.p = true ∧ x.lanes .always ≠ 0 ∧ x.lanes ⟨0, false⟩ = 0 := by
  obtain ⟨x, hx, h⟩ := exists_frame (s := base) (f := fun x => vecB x 319 [.v 319, .s 63, .int (-16)] && decide (x.w.enables = 0) &&
    decide (x.w.width = 32) && ((List.range 128).all fun l => !(x.w.width ≤ l && Mask.has x.act l)) && KMap.rising x.w.vr.p &&
    decide (x.lanes .always ≠ 0) && decide (x.lanes ⟨0, false⟩ = 0)) (by decide +kernel)
  simp only [Bool.and_eq_true, decide_eq_true_eq] at h
  obtain ⟨⟨⟨⟨⟨⟨h1, h2⟩, h3⟩, h4⟩, h5⟩, h6⟩, h7⟩ := h
  exact ⟨x, hx, vec_of hx h1, h2, h3, h4, h5, h6, h7⟩

theorem wit_VectorIntegerArithmetic : Ty.isInt .i8 = true ∧ Ty.isInt .n64 = true ∧ Ty.signed .i8 = true ∧ (Ty.b1 ≠ Ty.i8) := by decide

theorem wit_VectorLogicShiftsSelect : Ty.n64 ≠ .cb4 ∧ Ty.n64 ≠ .b1 ∧ 32 ≤ Ty.width .n64 ∧ 32 ≤ Ty.width .i32 := by decide

/-- f64 lane 0 holds an infinity in v0 and its negation in v1. -/
def infs (s : State) : State := withWarp (fun w => (w.setV 0 0 0x7FF0000000000000).setV 1 0 0xFFF0000000000000) s

theorem wit_FloatRulesAndTraps :
    onIssuer (overflowOn (infs base)) (fun x =>
      let r (l i : Nat) := (fmtOf .f64).add (x.w.mode &&& 3).toNat (elem .f64 (x.src .f64 l (.v 0)) i).toNat (elem .f64 (x.src .f64 l (.v 1)) i).toNat
      let fl (l : Nat) := (List.range (Ty.count .f64)).foldl (fun f i => f ||| (r l i).fl) 0
      vecB x 2 [.v 0, .v 1] && decide (x.w.trap.level < 2) && decide ((Mask.lanes (x.lanes .always)).filter (fun l => fl l &&& x.w.enables != 0) ≠ [])) = true ∧
    Ty.isFlt .f64 = true ∧ Fmt.f64 ∈ formats ∧ 2 ^ 64 - 1 < 2 * Fmt.f64.signBit ∧ Fmt.f64.isNan (2 ^ 64 - 1) = true ∧ Fmt.f64.isNan 0 = false := by
  decide +kernel

/-- At level 2 no flag traps, whatever is enabled. -/
theorem wit_VectorFloatInstructions : onIssuer (atLevel 2 (overflowOn (infs base))) (fun x => vecB x 2 [.v 0, .v 1] && decide (x.w.trap.level = 2)) = true := by
  decide +kernel

theorem wit_VectorComparesConversions :
    Ty.isInt .i8 = true ∧ Ty.isInt .n16 = true ∧ Ty.count .i8 = 2 * Ty.count .n16 ∧ Ty.count .n64 < Ty.count .i8 ∧ Ty.count .f64 = 1 ∧
      Ty.isFlt .f64 = true ∧ (6 ≠ 7) := by decide

theorem wit_Shuffles : ∃ x, Issues base x ∧ Named x [.v 319, .v 318, .v (318 + (Ty.count .i8 - 1) / 4)] ∧ x.w.width ∈ [8, 16, 32, 64, 128] := by
  obtain ⟨x, hx, h⟩ := exists_frame (s := base) (f := fun x => mayName x [.v 319, .v 318, .v (318 + (Ty.count .i8 - 1) / 4)] &&
    decide (x.w.width ∈ [8, 16, 32, 64, 128])) (by decide +kernel)
  simp only [Bool.and_eq_true, decide_eq_true_eq] at h
  exact ⟨x, hx, named_of h.1, h.2⟩

/-- Both kinds of types, the last vector register, at width 32. -/
theorem wit_ReductionsAndScans :
    onIssuer base (fun x => vecB x 319 [.v 319] && decide (x.w.enables = 0) && decide (x.w.width ∈ [8, 16, 32, 64, 128]) && decide (x.lanes .always ≠ 0) &&
      decide (x.lanes ⟨0, false⟩ = 0) && ((List.range 128).all fun l => decide (l < x.w.width) || !Mask.has x.act l)) = true ∧
    Ty.isInt .n64 = true ∧ Ty.isFlt .f16 = true ∧ groupLanes 8 .g16 = 8 ∧ groupLanes 128 .whole = 128 := by decide +kernel

/-! ### Memory instructions and completions -/

/-- v0 holds the address 2^27 + 64 l in lane l, s5 holds it for lane 0; with a fault of alignment in lanes 0 and 31, or beyond the map. -/
def addrs (f : Nat → Nat) (s : State) : State :=
  withWarp (fun w => (upTo 32).foldl (fun w l => w.setV 0 l (BitVec.ofNat 64 (f l))) (w.setS 5 (BitVec.ofNat 64 (f 0)))) s

def even (l : Nat) : Nat := 2 ^ 27 + 64 * l

def mem3 : MemOpt := ⟨3, false, false, 0, .plain⟩
def counters (n m : Nat) (s : State) : State := withWarp (fun w => { w with cnt := ⟨n, m, 0, 0⟩ }) s

/-- What a row needs to issue. -/
def rowOk (x : Ictx) (r : MemRow) : Bool :=
  mayName x r.os && (r.op.kind.uncounted || !x.w.cnt.full r.op.onLoads) && decide (x.lanes .always ≠ 0) &&
    (Mask.lanes (x.lanes .always)).all r.fits &&
    (resolveLanes x.v x.g r.accs x.s (Mask.lanes (x.lanes .always))).any fun (e : List (Nat × List Target) × State) =>
      e.1.all (fun (q : Nat × List Target) => r.permits q.2) &&
        decide (e.2.requests 0 + ({ r.op with lanes := e.1.flatMap fun (q : Nat × List Target) => r.lanes q.1 q.2 }).charge 0 ≤ 1536)

/-- v2 holds vault addresses, v4 nodes in device memory. -/
def nodes (s : State) : State :=
  withWarp (fun w => (upTo 32).foldl (fun w l => (w.setV 2 l (BitVec.ofNat 64 (64 * l))).setV 4 l (BitVec.ofNat 64 (2 ^ 28 + 64 * l))) w) (addrs even s)

/-- Every loading and storing row, at device addresses or, for LDV and STV, vault addresses; each remote operation's row; full counters. -/
theorem wit_MemoryInstructionsIssue :
    allHold [
      onIssuer (nodes base) fun x => ((accessRows x .always mem3 319 (.v 1) (.v 0) (.int 0)).filter (rowOk x)).length == 4,
      onIssuer (nodes base) fun x => ((accessRows x .always mem3 319 (.v 1) (.v 2) (.int 0)).filter (rowOk x)).length == 6,
      onIssuer (counters 63 63 base) fun x => (accessRows x .always mem3 319 (.v 1) (.v 0) (.int 0)).all fun r =>
        !r.op.kind.uncounted && x.w.cnt.full r.op.onLoads ] = true := by decide +kernel

theorem wit_MemoryInstructionsIssue_remote :
    allHold [
      -- ATOM, FADDD, FDSET, RCAS4, RENQ; BARI and BARA; RCHASE
      onIssuer (nodes base) fun x =>
        ((agentRows x .always .f64 .add .ar .pod (some 316) 318 4 64 8 16 (.v 0) (.v 4) (.int 1)).filter (rowOk x)).length == 5,
      onIssuer (nodes base) fun x =>
        (((agentRows x .always .f64 .add .ar .pod none 318 4 64 8 16 (.v 2) (.int 1) (.int 1)).filter (rowOk x)).map (·.op.kind)).filter (·.isBar) == [.bari, .bara],
      onIssuer (nodes base) fun x =>
        (((agentRows x .always .f64 .add .ar .pod none 318 4 64 8 16 (.v 0) (.int 8) (.int 1)).filter (rowOk x)).any fun r => r.op.kind == .rchase 64 8) ] =
      true := by decide +kernel

/-- 1536 requests of another warp: the next does not fit. -/
def crowded (s : State) : State :=
  two (fun w => { w with work := { w.work with ops := [{ opOf .renq .wg false false (some 0) false with
    lanes := List.replicate 1536 (laneOp 0 0 (.hbm 0 ⟨0, 0⟩) 8 [] []) }] } }) s

theorem wit_MemoryInstructionsIssue_full : onIssuer (crowded (addrs even base)) (fun x => decide (1536 < x.s.requests 0 + 1)) = true := by decide +kernel

/-- Stage 2 maps only the first 64 MiB; lanes and s5 lie beyond. -/
def beyond (s : State) : State :=
  (addrs (fun _ => 2 ^ 27) s).hbmWrite ⟨64, 0⟩ 0x10000 (wordsBytes [0x39, 0x3FFF000, 0, 0x4])

/-- Translations of the first lane's range are cached. -/
def cached (s : State) : State :=
  match s.gang? 0 with
  | none => s
  | some g => (upTo 2).foldl (fun s i => (s.resolve 0 g .any (BitVec.ofNat 64 (even 0 + 4096 * i)) 8 Acc.read).2) s

/-- One granule of registers. -/
def fewRegs (s : State) : State :=
  s.modWork fun k => { k with gangs := k.gangs.map fun e => (e.1, { e.2 with words := setAt e.2.words 2 (wordOf (place 1 52 + place 384 43 + place 1024 32)) }) }

/-- SLD and SST: an address that resolves, one of the last byte that does not align, one beyond stage 1, one beyond
stage 2, and a full counter. -/
theorem wit_ScalarAccess :
    allHold [
      onIssuer (addrs even base) fun x => plainB x .always [.int 0] && !x.w.cnt.full true && !x.w.cnt.full false &&
        decide ((x.w.sreg 5 + x.index 0 (.int 0) <<< 0).toNat % 8 = 0) && (match (x.s.resolve x.v x.g .device (x.w.sreg 5) 8 Acc.read).1 with | .ok _ => true | _ => false),
      onIssuer (addrs (fun _ => 2 ^ 27 + 7) base) fun x => decide ((x.w.sreg 5).toNat % 8 ≠ 0),
      onIssuer (addrs (fun _ => 2 ^ 48) base) fun x => (match (x.s.resolve x.v x.g .device (x.w.sreg 5) 8 Acc.read).1 with | .error (.fault _ _) => true | _ => false),
      onIssuer (beyond base) fun x => (match (x.s.resolve x.v x.g .device (x.w.sreg 5) 8 Acc.read).1 with | .error (.violation _ _) => true | _ => false),
      onIssuer (counters 63 63 base) fun x => x.w.cnt.full true && x.w.cnt.full false ] = true := by decide +kernel

/-- What LD and ST need at their faults: no name above the allocation, and every lane misaligned, unmapped, or outside stage 2. -/
theorem wit_FaultsAndTranslation :
    allHold [
      onIssuer (addrs (fun l => even l + (if l = 0 ∨ l = 31 then 1 else 0)) (cached base)) fun x => !privOf [.v 0, .int 0, .v 1] &&
        decide (topOf [.v 319, .v 1, .v 0, .int 0] ≤ x.g.nv) &&
        decide (((Mask.lanes (x.lanes .always)).filter fun l => (x.src .b64 l (.v 0)).toNat % 8 != 0) = [0, 31]) &&
        ((Mask.lanes (x.lanes .always)).filter fun l => (x.src .b64 l (.v 0)).toNat % 8 == 0).all fun l =>
          match x.s.resolve x.v x.g .any (x.src .b64 l (.v 0)) 8 Acc.read with | (.ok _, t) => t.slots == x.s.slots | _ => false,
      onIssuer (addrs (fun _ => 2 ^ 48) base) fun x => (Mask.lanes (x.lanes .always)).all fun l =>
        match x.s.resolve x.v x.g .any (x.src .b64 l (.v 0)) 8 Acc.read with | (.error (.fault 16 1), t) => t.slots == x.s.slots | _ => false,
      onIssuer (addrs (fun _ => 2 ^ 27) (beyond base)) fun x => (Mask.lanes (x.lanes .always)).all fun l =>
        match x.s.resolve x.v x.g .any (x.src .b64 l (.v 0)) 8 Acc.read with | (.error (.violation _ _), t) => t.slots == x.s.slots | _ => false,
      onIssuer (fewRegs base) fun x => decide (x.g.nv < topOf [.v 32, .int 0]),
      KMap.rising base.slots ] = true := by decide +kernel

def outstanding (o : MemOp) (s : State) : State :=
  withWarp (fun w => { w with cnt := ⟨1, 1, 0, 0⟩, work := { w.work with ops := [o], nextOp := 1 } }) s

def opWith (k : OpKind) (dst : Option Nat) (l : LaneOp) : MemOp := { opOf k .plain false false dst false with lanes := [l] }

/-- The operation's lane stands ready, as its last, in a warp that lives. -/
def readyLane (s : State) (o : MemOp) (l : LaneOp) (kinds : OpKind → Bool) : Bool :=
  (s.laneReady 0 o.id 0 kinds).any fun e => e.2 == (o, l) && o.lanes == [l] && !e.1.allExited && !o.pair && !Mask.has e.1.exited l.lane

def last (place : Place) (n : Nat) (data cmp : List Word) : LaneOp := laneOp 31 0 place n data cmp

/-- Lane 31 at the last byte of HBM's map. -/
theorem wit_MemoryCompletions :
    allHold [
      (let l := last (.hbm (2 ^ 40 - 1) ⟨0, 0⟩) 1 [] []
       readyLane (outstanding (opWith (.load true) (some 319) l) base) (opWith (.load true) (some 319) l) l OpKind.isLoad),
      (let l := last (.hbm (2 ^ 40 - 8) ⟨0, 0⟩) 8 [] []
       let o := { opWith (.load false) (some 63) l with scalar := true }
       readyLane (outstanding o base) o l OpKind.isLoad),
      -- an LDG's lane, which has read its element
      (let l := last (.hbm 0x2000000 ⟨0, 0⟩) 8 [7] []
       readyLane (outstanding (opWith (.load false) (some 319) l) base) (opWith (.load false) (some 319) l) l OpKind.isLoad),
      (let l := last (.host 0) 8 [7] []
       readyLane (outstanding (opWith .store none l) base) (opWith .store none l) l fun k => k == .store),
      (base.laneReady 0 0 0 fun k => k == .store).isNone,
      -- a lane that has exited
      (let l := last (.host 0) 8 [] []
       let o := opWith (.load false) (some 0) l
       let s := withWarp (fun w => { w with exited := 1 <<< 31 }) (outstanding o base)
       (s.laneReady 0 0 0 OpKind.isLoad).any fun e => e.2 == (o, l) && !e.1.allExited && Mask.has e.1.exited l.lane),
      -- stores to each kind of place
      (Memory.wf base.hbm.bytes && Memory.wf base.hostMem && Memory.wf base.dies.vault && base.ownerTag ⟨0, 0⟩ != 0 && KMap.rising base.hbm.tags && KMap.rising base.hbm.keys),
      !base.hbm.retiredLine ((2 ^ 40 - 1) / 64) ] = true := by decide +kernel

theorem wit_AtomicsPerformed :
    allHold ([(OpKind.atom .cas .i32, 4, [(0xFFFFFFFF : Word)], [(0 : Word)]), (.rcas 4, 32, [1, 2, 3, 4], [0, 0, 0, 0]), (.renq, 16, [8], [0, 0]),
      (.renq, 16, [8], [1, 0]), (.renq, 16, [8], [2, 0]), (.rchase 1 2040, 8, [5], [2040, 0])].map fun (e : OpKind × Nat × List Word × List Word) =>
        let l := last (.hbm 0x2000000 ⟨0, 0⟩) e.2.1 e.2.2.1 e.2.2.2
        let o := opWith e.1 (some 318) l
        readyLane (outstanding o base) o l OpKind.isAtomic) = true := by decide +kernel

/-- A slot of type f64 that expects three ranks and has applied `n`. -/
def slotAt (n : Nat) (active : Bool) (s : State) : State :=
  s.hbmWrite ⟨0, 0⟩ 0x2000000 (wordsBytes [0, BitVec.ofNat 64 ((if active then 2 ^ 63 else 0) + 2 ^ 62 + 3 * 2 ^ 16 + n)])

/-- Inactive; of the other type; rank 3 of 3; rank 2 while 0 is next; rank 2 while it is next; set up. -/
theorem wit_DeterministicAdd :
    allHold ([(OpKind.faddd .f64, 0, false, 0), (.faddd .f32, 0, true, 0), (.faddd .f64, 0, true, 3), (.faddd .f64, 0, true, 2), (.faddd .f64, 2, true, 2),
      (.fdset .f64, 0, false, 65535)].map fun (e : OpKind × Nat × Bool × Nat) =>
        let l := last (.hbm 0x2000000 ⟨0, 0⟩) 16 [0x3FF0000000000000] [BitVec.ofNat 64 e.2.2.2]
        let o := opWith e.1 (some 0) l
        let s := slotAt e.2.1 e.2.2.1 base
        readyLane (outstanding o s) o l OpKind.isDet && (s.heldAt (Place.hbm 0x2000000 ⟨0, 0⟩).num).isEmpty &&
        (s.readWord (Place.hbm 0x2000008 ⟨0, 0⟩) 8).getLsbD 63 == e.2.2.1) = true := by decide +kernel

/-- Rank 1 is held already, and comes again; rank 0 is next, with rank 1 held behind it. -/
theorem wit_DeterministicAdd_held :
    allHold ([1, 0].map fun k =>
      let p : Place := .hbm 0x2000000 ⟨0, 0⟩
      let l := last p 16 [0x3FF0000000000000] [BitVec.ofNat 64 k]
      let o := opWith (.faddd .f64) (some 0) l
      let s := (slotAt 0 true base).setHeld p.num [(1, 0x4000000000000000, none)]
      readyLane (outstanding o s) o l OpKind.isDet && decide ((outstanding o s).heldAt p.num = [(1, 0x4000000000000000, none)])) = true := by
  decide +kernel

/-- A barrier object at byte 64 of core 0's vault, with ARR `n`, INIT 5 and BYTES 0. -/
def barrierAt (n : Nat) (poison : Bool) (s : State) : State :=
  let b : Bar := { Bar.ofWords 0 0 with arr := n, init := 5, poison := poison, cause := if poison then 3 else 0 }
  (s.writeBar 0 64 b).modDies fun d => { d with barriers := [(barBlock 0 64, false)] }

theorem wit_BarriersAndFences :
    allHold ([(OpKind.bari, (1 : Word), 0, false), (.bari, 65535, 0, false), (.bara, 0, 2, false), (.bara, 0, 1, false), (.bara, 0, 0, false)].map
      (fun (e : OpKind × Word × Nat × Bool) =>
        let l := last (.vault 0 64) 16 [e.2.1] []
        let o := opWith e.1 none l
        let s := barrierAt e.2.2.1 e.2.2.2 base
        readyLane (outstanding o s) o l OpKind.isBar && !s.barUndefined 0 64 && (s.readBar 0 64).arr == e.2.2.1 && !(s.readBar 0 64).poison) ++
      [ onIssuer (setReg 1 64 (barrierAt 1 false base)) (fun x => plainB x .always [.s 1, .int 0] && decide ((x.uni .b64 (.s 1)).toNat % 16 = 0) &&
          (match x.g.vaultPlace (x.uni .b64 (.s 1)) 16 with | .ok t => t.place == .vault 0 64 | _ => false) && decide (x.p.barw = none) &&
          decide ((x.s.readBar 0 64).phase = fld (x.uni .b64 (.int 0)) 0 15) && decide ((x.s.readBar 0 64).phase ≠ fld (x.uni .b64 (.int 1)) 0 15)),
        onIssuer (setReg 1 64 (barrierAt 1 true base)) (fun x => (x.s.readBar 0 64).poison && !x.s.barUndefined 0 64),
        -- its own arrival at the object is still on the way
        onIssuer (outstanding (opWith .bara none (last (.vault 0 64) 16 [0] [])) base) (fun x => !x.w.barsDone 0 64),
        onIssuer base (fun x => x.any .always && x.w.work.ops.isEmpty && x.w.barsDone 0 64),
        onIssuer (outstanding (opWith .store none (last (.host 0) 8 [7] [])) base) (fun x => !(x.w.work.ops.all fun p => x.w.work.nextOp ≤ p.id)) ]) = true := by
  decide +kernel

/-! ### Traps, system instructions, contexts -/

def trap0 : Trap := Trap.all 15 255 1 0

def withUtvec (s : State) : State := withWarp (fun w => { w with trap := { w.trap with utvec := 8 } }) s
def withPhvec (s : State) : State := s.modSlot 0 fun x => { x with blk := { x.blk with phvec := 0x101 } }

/-- A user trap with %utvec set, a privileged one with PHVEC valid, one with neither, one at level 2; classes 15 and 16 are the two sides. -/
theorem wit_TrapsEnterTheirLevel :
    ([withUtvec base, withPhvec base, base, atLevel 2 base].all fun s => (s.warp? 0).any fun w => (w.path? 0).isSome &&
      KMap.rising w.set.s && KMap.rising w.vr.v && KMap.rising w.vr.p && KMap.rising w.trap.taddr && KMap.rising w.set.bank &&
      w.set.bank.all (fun e => 56 ≤ e.1 && e.1 < 64) && w.set.s.all (fun e => e.1 < 64)) = true ∧
    (trap0.cls < 16 ∧ trap0.sub < 256 ∧ trap0.hnd.getD 0 < 16) ∧
    allHold [
      onIssuer (withUtvec base) fun x => decide (x.w.trap.level = 0) && decide (x.w.trap.utvec ≠ 0),
      onIssuer (withPhvec base) fun x => decide (x.w.trap.utvec = 0) && decide (x.w.trap.level < 2) && (x.s.slot 0).blk.phvec.getLsbD 0,
      onIssuer base fun x => decide (x.w.trap.utvec = 0) && !(x.s.slot 0).blk.phvec.getLsbD 0,
      onIssuer (atLevel 2 base) fun x => decide (x.w.trap.level = 2) ] = true := by decide +kernel

def holding (h : Hold) (s : State) : State := withWarp (fun w => w.modPath 0 fun p => { p with hold := some h }) s

/-- Stage 2 maps the code to host memory; the slot's TDI is outside RUN. -/
def hostCode (s : State) : State := s.hbmWrite ⟨64, 0⟩ 0x10000 (wordsBytes [0x4000039, 0x4000000, 0, 2, 0x39, 0xFFFFFFF000, 0, 0x4])
def tdiLocked (s : State) : State :=
  s.modSlot 0 fun x => { x with tdi := some .locked, blk := { x.blk with s2range := 0x10002 } }

theorem wit_SystemInstructions :
    allHold [
      onIssuer base fun x => x.any .always && decide (x.w.trap.level = 0) && mayName x [.s 0, .int 0] && decide (x.p.hold = none),
      onIssuer (atLevel 2 base) fun x => decide (x.w.trap.level = 2) && x.w.task.miss.isEmpty && KMap.rising x.w.set.s && KMap.rising x.w.set.bank &&
        (x.s.warpsOf x.w.id.gang).all (fun e => e.2.task.st == .none) && (x.s.launch? x.g.slot x.g.launch).all (fun l => l.pod.isNone) && x.g.st != .saved && KMap.rising x.s.work.warps &&
        KMap.rising x.s.work.gangs,
      onIssuer (atLevel 1 base) fun x => decide (x.w.trap.level = 1) && !x.s.codeHeld x.g (2 ^ 26) &&
        (match (x.s.codeWord x.g (2 ^ 26)).1 with | .ok _ => true | _ => false),
      onIssuer (tdiLocked (hostCode (atLevel 1 base))) fun x => x.s.codeHeld x.g (2 ^ 26),
      onIssuer (holding (.tlbi 1 false) (outstanding (opWith .store none (last (.host 0) 8 [7] [])) base)) fun x =>
        decide (x.p.hold = some (.tlbi 1 false)) && x.w.work.ops.any fun o => o.id < 1 && o.kind.writes,
      onIssuer (holding (.tlbi 0 false) base) fun x => (x.w.work.ops.all fun o => !(o.id < 0 && o.kind.writes)) &&
        decide (fld (x.uni .b64 (.int 0)) 0 32 = 0) && !(x.uni .b64 (.int 0)).getLsbD 63 && decide (fld (x.uni .b64 (.int 1)) 0 32 ≠ 0),
      onIssuer (holding (.tlbi 0 true) base) fun x => (x.s.invsOf x.v).all fun q => q.src != .tlbi x.c.warp x.c.path,
      onIssuer ((holding (.tlbi 0 true) base).addInv 0 ⟨.tlbi 0 0, 0, 1, false, false, []⟩) fun x =>
        (x.s.invsOf x.v).any fun q => q.src == .tlbi x.c.warp x.c.path,
      ((withWarp (fun w => { w with work := { w.work with abandon := some 5 } }) base).warp? 0).any fun w => w.work.abandon == some 5 &&
        w.trap.level == 0 && w.livePaths.length == 1,
      base.warpResident 0 && base.enginesRun 0 ] = true := by decide +kernel

/-- A handler at level 2 with s5 at an address; the warp's saved context there. -/
def saver (a : Nat) : State := setReg 5 (BitVec.ofNat 64 a) (atLevel 2 (fewRegs base))

theorem wit_ContextBlocks :
    allHold [
      onIssuer (saver (2 ^ 27)) fun x =>
        let A := x.uni .b64 (.s 5)
        let n := (0x1700 + 8 * x.g.nv * x.w.width + 63) / 64
        x.any .always && decide (2 ≤ x.w.trap.level) && !x.w.boosted && !x.w.pending && x.w.work.ops.isEmpty && x.w.work.landing.isEmpty &&
        decide (A.toNat % 64 = 0) && !x.blockInPod A n &&
        (match x.blockPlaces A Acc.write n A x.s with
          | (.ok ps, s1) => ps.all (fun p => s1.placeOpen x.v p.place) | _ => false) &&
        (match x.blockPlaces A Acc.read 92 A x.s with
          | (.ok ps, s1) => ps.all (fun p => s1.placeOpen x.v p.place) &&
            -- zero bytes are no block of a 32-lane warp
            decide (8 * 2 ^ fld (wordIn (ps.flatMap fun p => s1.readPlace p.place 64) 0) 20 3 ≠ x.w.width)
          | _ => false),
      onIssuer (boostedW (saver (2 ^ 27))) fun x => x.w.boosted,
      onIssuer (saver (2 ^ 27 + 63)) fun x => decide ((x.uni .b64 (.s 5)).toNat % 64 ≠ 0),
      onIssuer (saver 0x0100000000000000) fun x => decide ((x.uni .b64 (.s 5)).toNat % 64 = 0) && x.blockInPod (x.uni .b64 (.s 5)) 92,
      onIssuer (withHandle ⟨.pending, 2, 0, 0, false, 0, 0⟩ ⟨0, 0, 0, 1⟩ (saver (2 ^ 27))) fun x => x.w.pending && !x.w.boosted,
      -- a fixed part that fits
      onIssuer (saver (2 ^ 27)) fun x =>
        let b := x.w.context ⟨x.g.nv, 0, 0, false, none⟩
        decide (8 * 2 ^ fld (wordIn b 0) 20 3 = x.w.width) && decide (fld (wordIn b 0) 16 2 = x.w.id.first) && decide (fld (wordIn b 0) 23 9 ≤ x.g.nv) &&
          decide (fld (wordIn b 0) 8 8 = 0 ∧ fld (wordIn b 0) 0 4 = 0 ∧ fld (wordIn b 0) 5 1 = 0 ∧ fld (wordIn b 32) 63 1 = 0 ∧ fld (wordIn b 40) 63 1 = 0 ∧
            fld (wordIn b 8) 43 21 = 0) && (upTo 16).all fun f => fld (wordIn b (0x1140 + 16 * f)) 62 2 != 1,
      onIssuer (atLevel 2 base) fun x => decide (x.w.width ∈ [8, 16, 32, 64, 128]) && decide (x.w.id.first < 4) && decide (x.w.trap.level ≤ 2) &&
        x.w.task.st == .none ] = true := by decide +kernel

end Sys2Proof.Tests
end

