-- ==== Sys2Proof/Tests/WitnessEngines.lean ====
section
/-! SUPPORT. Witnesses for the statements about copies, arrays, grids and boosted tasks. -/

set_option Elab.async false

namespace Sys2Proof.Tests

open Sys2Proof.Machine

set_option maxRecDepth 100000

/-! ### Copies -/

/-- Runs of 32 bytes; strides that reach over both corners. -/
def strides (s : State) : State :=
  setReg 20 64 (setReg 21 4096 (setReg 22 64 (setReg 23 4096 (setReg 24 (wordOf (place 2 0 + place 3 32)) s))))

def faultsOf (x : Ictx) (r : CopyRow) (bar : Option Operand) : List Nat :=
  let bw := bar.map (x.uni .b64)
  r.faults ++ (if bw.any (fun w => w.toNat % 16 ≠ 0) then [1] else []) ++ (if bw = some 0 then [8] else [])

/-- From HBM into the vault's byte 64, with a barrier at 128; of no byte; out of the vault's space; a barrier at 0; a copy that is too long. -/
theorem wit_CopiesIssue :
    let R (x : Ictx) (bar : Option Operand) := copyRows x .always true true 15 (.s 1) (.s 2) (.s 3) (.s 4) bar 20 22 24
    allHold [
      onIssuer (setReg 1 64 (setReg 2 (2 ^ 27) (setReg 3 32 (setReg 4 (2 ^ 27) (setReg 5 128 (strides base)))))) fun x =>
        x.any .always && decide ((x.w.handle 15).st ≠ .pending) && decide (x.w.cnt.cp ≤ 30) && decide (x.mergeTrap [15] = none) &&
        (R x (some (.s 5))).all (fun r => !privOf r.os && decide (faultsOf x r (some (.s 5)) = []) && decide (r.len ≠ 0) &&
          r.ends.all fun e => decide (2 ^ 26 ≤ e.1.toNat) || (match x.g.vaultPlace e.1 e.2 with | .ok _ => true | _ => false)) &&
        (match x.g.vaultPlace 128 16 with | .ok _ => true | _ => false),
      onIssuer (setReg 1 64 (setReg 2 (2 ^ 27) (setReg 3 0 (strides base)))) fun x => (R x none).all fun r => decide (r.len = 0) && decide (faultsOf x r none = []),
      onIssuer (setReg 1 (2 ^ 26) (setReg 3 (2 ^ 31 + 2) (strides base))) fun x => ((R x (some (.s 3))).map fun r => (faultsOf x r (some (.s 3)))) ==
        [[1], [7, 1], [3, 7, 9, 1]],
      onIssuer (setReg 5 0 base) fun x => decide (faultsOf x ⟨.copy .always false 15 (.s 1) (.s 2) (.s 3) (some (.s 5)), [], .linear, 0, 0, 0, [], []⟩ (some (.s 5)) = [8]),
      onIssuer (withHandle ⟨.pending, 0, 0, 0, false, 0, 0⟩ ⟨0, 0, 1, 0⟩ base) fun x => decide ((x.w.handle 15).st = .pending),
      onIssuer (withHandle ⟨.idle, 0, 0, 0, false, 0, 0⟩ ⟨0, 0, 31, 0⟩ base) fun x => decide (31 ≤ x.w.cnt.cp) && decide ((x.w.handle 15).st ≠ .pending) ] = true := by
  decide +kernel

def going (c : Copy) (s : State) : State := withCopy { c with started := true } (withHandle ⟨.pending, 0, 0, 0, false, 0, 0⟩ ⟨0, 0, 1, 0⟩ s)

/-- The engine's view of copy 7. -/
def copyHolds (s : State) (f : Copy → Bool) : Bool :=
  (KMap.find? s.work.copies 7).any fun c => decide (c.id = 7) && decide (s.podBeats 7 < 32) && (s.warp? c.warp).isSome && ((s.warp? c.warp).any fun w => !w.allExited) &&
    KMap.rising s.work.copies && f c

def hbmCopy (len : Nat) : Copy := { copyOf len with src := 2 ^ 27, dst := 2 ^ 28 }

/-- First of its channel; behind another; its first, a middle and its last beat; one whose bytes were read; COPYX with its metadata; a source beyond stage 1. -/
theorem wit_CopiesDeliverInOrder :
    allHold [
      copyHolds (withCopy (hbmCopy 64) base) fun c => !c.started && base.enginesRun c.slot && base.warpResident c.warp && (withCopy (hbmCopy 64) base).copyMayRead c,
      copyHolds (base.modWork fun k => { k with copies := [(6, { hbmCopy 64 with id := 6, f := 3 }), (7, hbmCopy 64)] }) fun c => decide (3 % 4 = c.f % 4) && base.warpResident c.warp,
      copyHolds (going (hbmCopy 128) base) fun c =>
        let s := going (hbmCopy 128) base
        c.started && decide (c.err = none) && s.enginesRun c.slot && s.warpResident c.warp && decide (c.inPod = 0) && decide (c.fill < c.len) && decide (c.barrier = none) &&
        decide (c.fill + beatAt c 0 < c.len) &&
        (match s.engResolve c.slot c.gang (c.src + BitVec.ofNat 64 0) 64 Acc.read with
          | (.local p, s1) => s1.placeOpen c.slot p &&
            (match (s1.setCopy { c with ahead := [(0, some (s1.readPlace p 64))] }).engResolve c.slot c.gang (dstAt c 0) 64 Acc.write with
              | (.local q, s2) => s2.placeOpen c.slot q | _ => false)
          | _ => false),
      copyHolds (going { hbmCopy 128 with fill := 64 } base) fun c => decide (c.fill + beatAt c 64 = c.len),
      copyHolds (going { hbmCopy 64 with ahead := [(0, some (List.replicate 64 7))] } base) fun c => c.ready 0 64 &&
        (match (going { hbmCopy 64 with ahead := [(0, some (List.replicate 64 7))] } base).engResolve c.slot c.gang (dstAt c 0) 64 Acc.write with
          | (.local q, s2) => s2.placeOpen c.slot q | _ => false),
      copyHolds (going { hbmCopy 64 with kind := .expand true (2 ^ 29), dst := 64, ahead := [(0, some (List.replicate 32 7)), (64, some (List.replicate 4 0xE4))] } base) fun c =>
        decide (beatAt c 0 = 64) && c.ready 0 64,
      copyHolds (going { hbmCopy 64 with src := 2 ^ 48 } base) fun c => decide (c.err = none) &&
        ((going { hbmCopy 64 with src := 2 ^ 48 } base).copyError c).any fun e => e.1.err? == some .stage1 ] = true := by decide +kernel

/-! ### Matrix instructions -/

def vaultPut (off : Nat) (ws : List Word) (s : State) : State := s.storeAt (.vault 0 off) (wordsBytes ws)

def tl (n : Nat) (s : State) : State := withWarp (fun w => { w with cnt := ⟨0, 0, 0, n⟩ }) s

/-- The array is free to take the instruction, with handle 15. -/
def readyArr (x : Ictx) : Bool := decide ((x.w.handle 15).st ≠ .pending ∧ x.w.cnt.tl < 15 ∧ x.lanes .always = fullMask x.w.width ∧ x.mergeTrap [15] = none)

/-- s1 holds the vault address 64 and s2 a pitch of 256; or an odd address; or a tile beyond the last; a full counter; a lane that is off. -/
theorem wit_ArrayInstructionsIssue :
    let R (x : Ictx) (t : Ty) (zt : Nat) := arrayRows (afterMerge x 15) .always t true 16 15 zt (.s 1) (.s 2)
    allHold [
      onIssuer (setReg 1 64 (setReg 2 256 base)) fun x => readyArr x && ((R x .f32 383).filter fun r => !privOf r.os && decide (r.faults = []) &&
        (r.ends.all fun e => x.g.holds e.1 e.2)).length == 3,
      onIssuer (setReg 1 1 (setReg 2 256 base)) fun x => readyArr x && ((R x .f32 383).filter fun r => !privOf r.os && decide (r.faults = [])).length == 1,
      onIssuer (setReg 1 0 base) fun x => readyArr x && (R x .f32 383).any fun r => decide (r.op.kind = .mzclr 0) && decide (r.faults = []),
      onIssuer (setReg 1 (2 ^ 22 - 16) (setReg 2 16 base)) fun x => readyArr x && ((R x .i32 383).filter fun r => decide (r.faults = []) &&
        (r.ends.find? fun e => !x.g.holds e.1 e.2).isSome).length == 3,
      onIssuer (setReg 1 1 (setReg 2 0xFFFFFFE0 base)) fun x => readyArr x && (R x .f32 384).all fun r => decide (0x29 ∈ r.faults),
      onIssuer (setReg 1 1 (setReg 2 0xFFFFFFE0 base)) fun x => (R x .f32 384).any fun r => decide (r.faults = [0x21, 0x25, 0x29]),
      onIssuer (tl 15 base) fun x => !readyArr x,
      onIssuer (withHandle ⟨.pending, 0, 0, 0, false, 0, 0⟩ ⟨0, 0, 1, 0⟩ base) fun x => !readyArr x,
      onIssuer (withWarp (fun w => w.modPath 0 fun p => { p with mask := 0x7FFFFFFF }) base) fun x => decide (x.lanes .always ≠ fullMask x.w.width) &&
        decide ((x.w.handle 15).st ≠ .pending ∧ x.w.cnt.tl < 15),
      -- MZMV: the last registers that fit, one more, another width, the last tile, one more
      onIssuer base fun x => decide (312 + 8 ≤ x.g.nv) && decide (x.g.nv < 305 + 16) && decide (x.w.width = 32) && decide (383 < x.g.zt) && decide (x.g.zt ≤ 384) &&
        decide (x.lanes .always = fullMask x.w.width) && KMap.rising x.w.vr.v,
      onIssuer (withWarp (fun w => w.modPath 0 fun p => { p with mask := 0xFF }) (ofWidth 8 base)) fun x => decide (x.w.width ≠ 32) && decide (x.lanes .always = fullMask x.w.width),
      -- MOPF: no load is left, and one is
      onIssuer base fun x => x.any .always && x.w.work.ops.isEmpty,
      onIssuer (outstanding (opWith (.load false) (some 1) (last (.host 0) 8 [] [])) base) fun x =>
        decide (x.p.hold = none) && decide (x.w.work.nextOp = 1) && x.w.work.ops.any fun o => decide (o.id < 1) && o.dst != none && !o.scalar ] = true := by decide +kernel

/-- A format block of zeros at 0x8000 and a block table of one block of two at 0x9000; A at 0, B at 0x4000, both of pitch 64. -/
def operands (s : State) : State :=
  vaultPut 0x9000 [wordOf (place 1 0 + place 2 16), 1] (setReg 1 0x4000 (setReg 2 0x8000 (setReg 3 (wordOf (place 64 32 + place 64 48)) (setReg 4 0x9000 s))))

def table (x : Ictx) (m : MulRow) : Nat × Nat × Nat × List Nat :=
  if m.mmab then (x.s.readTable x.g (x.uni .b64 (.s 4))).getD (0, 1, 0, []) else (0, 1, 1, [0])

/-- One operation stands in core 0's array. -/
def arrayOf (f : Ictx → MatOp) (s : State) : State :=
  match s.ictx? with
  | none => s
  | some x => tl 1 (s.modWork fun k => { k with arrays := [(0, [f x])], nextMat := 1 })

/-- Issue arguments of a multiply of `mulRows` with these operands. -/
def argsOf (x : Ictx) (m : MulRow) (av : Bool) : MulArgs :=
  ⟨m.kind, m.mmab, m.dsq, m.walk, 15, 383, av, true, regOf (if av then .int 0 else .v 312), 0, x.uni .b64 (.s 1), x.uni .b64 (.s 2), x.uni .b64 (.s 3),
    0, if m.mmab then x.uni .b64 (.s 4) else 0⟩

/-- A store of the warp that has not been performed, with a FENCE.X after it. -/
def behindStore (s : State) : State :=
  withWarp (fun w => { w with work := { w.work with xfence := 1 } }) (outstanding (opWith .store none (last (.host 0) 8 [7] [])) s)

/-- The four multiplies with A in the vault, and in the last registers; a block at an odd address, with a reserved field, and with a codebook out of the vault. -/
theorem wit_MultipliesIssue :
    let rows (av : Bool) := mulRows .always av true true true 15 383 (if av then .int 0 else .v 312) (.s 1) (.s 2) (.s 3) (.int 0) (.s 4)
    allHold [
      onIssuer (operands base) fun x => readyArr x && !privOf [.int 0, .s 1, .s 2, .s 3, .int 0, .s 4] && (rows true).all fun m =>
        decide (x.s.fmtFault x.g (x.uni .b64 (.s 2)) (aScaleRuns 1) (bScaleRuns 1 (table x m).2.2.2) = none) && x.g.holds 0 (31 * 64 + 64) && x.g.holds 0x4000 (31 * 64 + 64) &&
          x.g.holds 0x9000 10 && decide ((table x m).1 = 0 ∧ 0 < (table x m).2.1 ∧ (table x m).2.2.1 = 1),
      onIssuer (behindStore (operands base)) fun x => readyArr x && (rows true).all fun m => !(afterMerge x 15).arrayLanded.mulReady (argsOf x m true),
      -- behind an MZST of the array to the format block
      onIssuer (arrayOf (fun x => { x.blankOp 14 (.mzst .i32) 383 with a := 0x7FC0, b := 64 }) (operands base)) fun x => (rows true).all fun m =>
        !(afterMerge x 15).arrayLanded.mulReady (argsOf x m true),
      -- MMAB of no block
      onIssuer (vaultPut 0x9000 [wordOf (place 2 16)] (operands base)) fun x => (rows true).all fun m => (afterMerge x 15).arrayLanded.mulReady (argsOf x m true),
      onIssuer (operands base) fun x => readyArr x && (rows false).all (fun m => (afterMerge x 15).arrayLanded.mulReady (argsOf x m false)) && decide (312 + 8 ≤ x.g.nv) && !privOf [.v 312, .s 1, .s 2, .s 3, .int 0, .s 4] && decide (x.w.width = 32),
      onIssuer (setReg 2 0x8010 (operands base)) fun x => decide ((x.uni .b64 (.s 2)).toNat % 32 ≠ 0),
      onIssuer (vaultPut 0x8000 [wordOf (place 1 2)] (operands base)) fun x => decide (x.s.fmtFault x.g (x.uni .b64 (.s 2)) (aScaleRuns 1) (bScaleRuns 1 [0]) = some 0x11),
      onIssuer (vaultPut 0x8000 [3, wordOf (place 0x3FFFFFF 32)] (operands base)) fun x =>
        decide (x.s.fmtFault x.g (x.uni .b64 (.s 2)) (aScaleRuns 1) (bScaleRuns 1 [0]) = some 0x12),
      -- no block; a reserved half of the geometry; a table that is not ascending
      onIssuer (vaultPut 0x9000 [wordOf (place 2 16)] (operands base)) fun x => (x.s.readTable x.g (x.uni .b64 (.s 4))).any fun t => decide (t.2.2.1 = 0 ∧ 0 < t.2.1),
      onIssuer (setReg 3 (wordOf (place 1 12)) (operands base)) fun x => decide (fld (x.uni .b64 (.s 3)) 12 20 ≠ 0),
      onIssuer (vaultPut 0x9000 [wordOf (place 2 0 + place 2 16), 1] (operands base)) fun x => (x.s.readTable x.g (x.uni .b64 (.s 4))).any fun t => decide (¬ t.2.2.2.Pairwise (· < ·)) ] = true := by decide +kernel

/-- Both stages allow near-memory reads (R75). -/
def near (s : State) : State :=
  let r := wordsBytes [0x39, 0xFFFFFFF000, 0, 0xC]
  (s.hbmWrite ⟨64, 0⟩ 0x10000 r).hbmWrite ⟨0, 0⟩ 0x20000 r

/-- W at 2^27, x at 0x4000, y at 0x5000, one row of 32 elements, a pitch of 256; W in the vault; y over x. -/
def vecOf (a y : Word) (s : State) : State :=
  setReg 1 a (setReg 2 0x4000 (setReg 3 y (setReg 4 0x8000 (setReg 5 (wordOf (place 32 32)) (setReg 6 256 s)))))

def nearPages (x : Ictx) (f : Target → Bool) : Bool :=
  (x.s.pagesOf x.v (rowPages (2 ^ 27) 256 1 64)).1.all fun e => match e.2 with | .ok t => f t | _ => false

theorem wit_MatrixVectorInstruction_issues :
    allHold [
      onIssuer (vecOf (2 ^ 27) 0x5000 (near base)) fun x => readyArr x && !privOf [.s 1, .s 2, .s 3, .s 4, .s 5, .s 6] &&
        decide (x.s.fmtFault x.g 0x8000 (fun f => [(0, 32 / f.a.block)]) (fun f => [(0, 32 / f.b.block)]) = none) &&
        decide (fmtBytes (x.s.readFmt x.g 0x8000).a.fmt 32 = 64) && x.g.holds 0x4000 64 && x.g.holds 0x5000 4 &&
        nearPages x (fun t => t.nme && match t.place with | .hbm _ _ => true | _ => false),
      onIssuer (vecOf 0x100 0x5000 base) fun x => decide ((x.uni .b64 (.s 1)).toNat < 2 ^ 26),
      onIssuer (behindStore (vecOf (2 ^ 27) 0x5000 base)) fun x => !(afterMerge x 15).engineReady,
      -- a page without NME, a K length of 31, y beyond the vault's space, and a page that does not translate
      onIssuer (vecOf (2 ^ 27) 0x5000 base) fun x => nearPages x fun t => !t.nme,
      onIssuer (setReg 5 (wordOf (place 31 32)) (vecOf (2 ^ 27) 0x5000 (near base))) fun x => decide (fld (x.uni .b64 (.s 5)) 32 16 % 32 ≠ 0),
      onIssuer (vecOf (2 ^ 27) (2 ^ 26 - 16) (near base)) fun x => !x.g.holds (x.uni .b64 (.s 3)) 4,
      onIssuer (vecOf (2 ^ 48) 0x5000 (near base)) fun x => (x.s.pagesOf x.v (rowPages (2 ^ 48) 256 1 64)).1.all fun e =>
        match e.2 with | .error (.fault c _) => c == 16 | _ => false,
      onIssuer (vecOf (2 ^ 27) 0x4030 base) fun x => decide ((x.uni .b64 (.s 3)).toNat < 0x4000 + 64),
      onIssuer (vecOf (2 ^ 27 + 1) 0x5000 base) fun x => decide ((x.uni .b64 (.s 1)).toNat % 16 ≠ 0) ] = true := by decide +kernel

/-! ### The arrays at work -/

/-- The first operation of core 0's array. -/
def headHolds (s : State) (f : MatOp → Warp → Gang → Bool) : Bool :=
  (s.arrayHead 0).any fun e => s.arrayRuns e.2.2 && s.engineMayRead e.1.warp e.1.after e.1.xfence && decide (s.warp? e.1.warp = some e.2.1) && !e.2.1.allExited && decide (e.2.1.handles.length = 16) &&
    e.1.flags == 0 && !e.1.undef && KMap.rising s.dies.z && KMap.rising s.work.arrays && Memory.wf s.dies.vault && f e.1 e.2.1 e.2.2

def side (fmt blk : Nat) : OperandFmt := ⟨fmt, blk, 0, 0, List.replicate 16 0, []⟩

def mulOf (zero dsq iacc bt : Bool) (fa fb : OperandFmt) (x : Ictx) : MatOp :=
  { x.blankOp 15 (.mul zero false false dsq) 383 with b := 0x4000, geo := wordOf (place 64 32 + place 64 48), av := true, bt := bt, iacc := iacc, fa := fa, fb := fb, list := [0] }

/-- MZCLR of all tiles; MZLD of the last; each format of a multiply, INT8 to an integer; MTOPK of one; an array with nothing queued. -/
theorem wit_ArrayPerformsItsOperations :
    allHold ([
      headHolds (arrayOf (fun x => x.blankOp 15 (.mzclr 384) 0) base) fun o _ _ => o.kind == .mzclr 384,
      headHolds (arrayOf (fun x => { x.blankOp 15 (.mzld .i32) 383 with a := 64, b := 128 }) base) fun o _ _ => o.kind == .mzld .i32,
      headHolds (arrayOf (fun x => { x.blankOp 15 (.topk .i32 false 1) 383 with a := 64, c := 0xFFFFFFDF }) base) fun o _ g => g.holds o.a 8192 &&
        decide (o.c.toNat < 0xFFFFFFE0),
      (base.arrayHead 0).isNone,
      (let s := arrayOf (fun x => { x.blankOp 15 (.mzld .i32) 383 with xfence := 1 }) (behindStore base)
       (s.arrayHead 0).any fun e => s.arrayRuns e.2.2 && !s.engineMayRead e.1.warp e.1.after e.1.xfence) ] ++
      ([(false, false, false, true, side 0 32, side 1 16), (true, true, false, false, side 3 8, side 2 32), (false, false, true, true, side 2 32, side 2 32)].map
        fun (e : Bool × Bool × Bool × Bool × OperandFmt × OperandFmt) =>
          headHolds (arrayOf (mulOf e.1 e.2.1 e.2.2.1 e.2.2.2.1 e.2.2.2.2.1 e.2.2.2.2.2) base) fun o _ g =>
            decide (fld o.geo 0 12 = 0 ∧ o.list = [0] ∧ o.kstep = 0 ∧ o.block = 0) && o.av && decide (o.fa.fmt ≤ 3 ∧ o.fb.fmt ≤ 3) &&
            (upTo 32).all fun m => g.holds (o.a + BitVec.ofNat 64 (m * fld o.geo 32 16)) (fmtBytes o.fa.fmt 32) &&
              g.holds (o.b + o.bstr * 0 + BitVec.ofNat 64 (m * fld o.geo 48 16)) (fmtBytes o.fb.fmt 32))) = true := by decide +kernel

def lateW (late : Bool) (s : State) : State := withWarp (fun w => { w with work := { w.work with late := late } }) s

/-- A near-memory product of two rows of 32 elements, y at 0x5000. -/
def mvnOf (acc : Bool) (s : State) : State :=
  match s.ictx? with
  | none => s
  | some x => tl 1 (s.modWork fun k => { k with nextMat := 1, mvns := [(0, ⟨{ x.blankOp 15 (.mzclr 0) 0 with a := 2 ^ 27, b := 0x4000, fa := side 0 32, fb := side 0 32 },
      2, 32, 256, acc, 0x5000, [(2 ^ 15, 2 ^ 15, ⟨0, 0⟩)], none⟩)] })

theorem wit_MatrixVectorInstruction_completes :
    allHold ([(false, false), (true, true)].map fun (e : Bool × Bool) =>
      let s := lateW e.2 (mvnOf e.1 base)
      (KMap.find? s.work.mvns 0).any fun n => (s.warp? n.op.warp).any fun w => (s.gangOf w).any fun g => s.arrayRuns g && !w.allExited && decide (n.klen = 32) &&
        Memory.wf s.dies.vault && decide (n.op.f < w.handles.length ∧ n.op.f < 16) && g.holds n.y (4 * n.rows) && decide (n.y.toNat + 4 * n.rows < 2 ^ 64)) = true := by decide +kernel

/-! ### Grids -/

/-- A grid of 8 cells of i64 along x, owned whole, with a ghost layer on either side: rules of both faces, widths, stale policy. -/
def descOf (rule hw spol : Nat) : List Word :=
  [wordOf (place 1 46 + place 7 42 + place spol 32 + place 2 16), wordOf (8 + place 1 16 + place 1 32), wordOf (1 + place 1 16 + place 1 32),
    wordOf (place rule 24 + place rule 27 + hw + place hw 4), wordOf (place 0x100 22 + 0x1000), 0x2000, 0, 0, 5, 6, 0, 0, 0, 0, 0, 0]

def bindingOfDesc (ws : List Word) : Binding := ⟨0, 0, 7, ws, 0, 0, false⟩

/-- Slot 7 of the workgroup is bound; the tag block's words. -/
def bind7 (ws : List Word) (tags : List Word) (s : State) : State :=
  (vaultPut 0x2000 tags s).modSlot 0 fun y => { y with bindings := [bindingOfDesc ws] }

def boundHolds (x : Ictx) (f : Binding → Bool) : Bool := (x.s.binding? x.g x.w.id.gang x.w.id.wg 7).any fun b => !b.tampered && f b

def atMem (ws : List Word) (s : State) : State := s.hbmWrite ⟨0, 0⟩ (2 ^ 27) (wordsBytes ws)

/-- The descriptor that GBIND reads. -/
def readDesc (x : Ictx) (f : Desc → List Word → State → Bool) : Bool :=
  match x.landed.s.deviceRead x.v (x.uni .b64 (.s 1)) 2 with
  | (.ok (bs, ps), s1) => x.landed.mayRead ps 64 && (x.landed.s.ownerOf x.g x.w.id.wg (Desc.of (bytesWords bs))).any fun oc =>
      decide (oc.2 = 1) && f (Desc.of (bytesWords bs)) (bytesWords bs) s1
  | _ => false

def valid (n : Nat) : Word := wordOf (2 ^ 63 + n)

/-- Slot 6 of the workgroup binds the grid. -/
def bindGrid (s : State) : State := s.modSlot 0 fun y => { y with bindings := [{ bindingOfDesc (descOf 4 8 0) with gslot := 6 }] }

theorem wit_GridInstructions :
    let tagsAt (n : Nat) : List Word := [valid n, valid n, valid n, valid n]
    allHold [
      -- resolution: the last cell at the last step, below and at the edge with rules 0 and 1
      (bindingOfDesc (descOf 0 0 0)).d.atEdge 0 0 && decide ((bindingOfDesc (descOf 0 0 0)).d.rule 0 = 0) && decide ((bindingOfDesc (descOf 1 1 0)).d.rule 0 = 1) &&
        decide (fld 7 48 16 < (bindingOfDesc (descOf 0 0 0)).d.ncomp) && decide (2 ^ 24 - 1 < 2 ^ 24) && decide ((7 : Int) < (bindingOfDesc (descOf 0 0 0)).d.b 0) &&
        decide (((0xFFFF : Word).extractLsb' 0 16).toInt < 0),
      -- GBIND: at a bad address, of a refused descriptor, of an allowed one, with slot 7 bound
      onIssuer (setReg 1 (2 ^ 27 + 32) base) fun x => x.any .always && decide ((x.uni .b64 (.s 1)).toNat % 64 ≠ 0),
      onIssuer (setReg 1 (2 ^ 27) (atMem (descOf 6 1 0) base)) fun x => readDesc x fun e ws _ => e.bad ws 1 (x.g.vlt * 4096) && decide (e.okind = 0),
      onIssuer (setReg 1 (2 ^ 27) (atMem (descOf 4 8 0) base)) fun x => readDesc x fun e ws s1 => !e.bad ws 1 (x.g.vlt * 4096) && decide (e.okind = 0) && (x.s.slot x.v).bindings.isEmpty &&
        (x.s.binding? x.g x.w.id.gang x.w.id.wg 7).isNone && (s1.bindPlace ⟨0, 0, 7, ws, 0, s1.streamOf x.w, false⟩ e.toff).isSome &&
        decide (x.s.stage1Aper x.v (x.uni .b64 (.s 1)) ≠ some 1) && decide (x.s.stage1Aper x.v (x.uni .b64 (.s 1)) ≠ some 3),
      onIssuer (setReg 1 (2 ^ 27) (bind7 (descOf 4 1 0) [] base)) fun x => (x.s.binding? x.g x.w.id.gang x.w.id.wg 7).isSome,
      -- LDG: owned cells; ghosts of step 5, whose tags hold it; ghosts that have not come; past steps; SPOL
      onIssuer (addrs (fun l => l % 8) (bind7 (descOf 4 1 0) [] base)) fun x => decide (topOf [.v 0, .v 319] ≤ x.g.nv) && decide (x.lanes .always ≠ 0) && boundHolds x fun b =>
        (Mask.lanes (x.lanes .always)).all (fun l => b.resolve (x.src .b64 l (.v 0)) 5 == .cell (0x100 + 8 * (l % 8))) && decide (x.w.cnt.ld < 63) &&
        (x.landed.mayRead (x.s.ghostPlaces b ((Mask.lanes (x.lanes .always)).map fun l => (l, b.resolve (x.src .b64 l (.v 0)) 5))) 8),
      onIssuer (addrs (fun _ => 0xFFFF) (bind7 (descOf 4 1 0) (tagsAt 5) base)) fun x => boundHolds x fun b =>
        (Mask.lanes (x.lanes .always)).all fun l => match b.resolve (x.src .b64 l (.v 0)) 5 with
          | .ghost f p _ => (x.s.bindPlace b (b.d.toff + 8 * (2 * f + p))).any fun pl => (x.s.readWord pl 8).getLsbD 63 && decide (fld (x.s.readWord pl 8) 0 24 = 5)
          | _ => false,
      onIssuer (addrs (fun _ => 8) (bind7 (descOf 4 1 0) [] base)) fun x => boundHolds x fun b => !b.d.spol && decide (b.d.stall ≠ 0) && decide (x.p.stall = none) &&
        (Mask.lanes (x.lanes .always)).all fun l => match b.resolve (x.src .b64 l (.v 0)) 5 with
          | .ghost f p _ => (x.s.bindPlace b (b.d.toff + 8 * (2 * f + p))).any fun pl => x.s.readWord pl 8 == 0
          | _ => false,
      onIssuer (addrs (fun _ => 8) (bind7 (descOf 4 1 0) (tagsAt 7) base)) fun x => boundHolds x fun b =>
        (Mask.lanes (x.lanes .always)).all fun l => match b.resolve (x.src .b64 l (.v 0)) 5 with
          | .ghost f p _ => (x.s.bindPlace b (b.d.toff + 8 * (2 * f + p))).any fun pl => decide (5 < fld (x.s.readWord pl 8) 0 24)
          | _ => false,
      (bindingOfDesc (descOf 4 1 1)).d.spol,
      onIssuer (counters 63 63 (bind7 (descOf 4 1 0) [] base)) fun x => boundHolds x fun _ => decide (63 ≤ x.w.cnt.ld),
      -- GBIND where another slot of the workgroup binds the grid, and at the last 64 bytes before pod space
      onIssuer (setReg 1 (2 ^ 27) (atMem (descOf 4 8 0) (bindGrid base))) fun x => readDesc x fun e _ _ =>
        (x.s.binding? x.g x.w.id.gang x.w.id.wg 7).isNone && (x.s.slot x.v).bindings.any fun b => decide (b.d.gridid = e.gridid) && decide (b.gang = x.w.id.gang ∧ b.wg = x.w.id.wg),
      onIssuer (setReg 1 0x00FFFFFFFFFFFFC0 base) fun x => decide ((x.uni .b64 (.s 1)).toNat % 64 = 0) && !inPodWindow (x.uni .b64 (.s 1)) &&
        inPodWindow (x.uni .b64 (.s 1) + 64),
      onIssuer base fun x => (x.s.binding? x.g x.w.id.gang x.w.id.wg 7).isNone,
      -- STG of every lane
      onIssuer (addrs (fun l => l % 8) (bind7 (descOf 4 1 0) [] base)) fun x => boundHolds x fun b => decide (b.d.ndim ≤ 3) && decide (x.w.cnt.st < 63) &&
        decide (x.s.requests x.w.id.core + 64 ≤ 1536) && (Mask.lanes (x.lanes .always)).all fun l => decide (fld (x.src .b64 l (.v 0)) 48 16 < b.d.ncomp) &&
          decide (((x.src .b64 l (.v 0)).extractLsb' 0 16).toInt < b.d.b 0) && (x.s.bindPlace b (ownedAt b.d 0 7 0 0)).isSome,
      -- HWAIT: step 2^24; arrived. HPUB: step 0 at first, with faces to deliver, and with none
      onIssuer (setReg 1 (2 ^ 24) (bind7 (descOf 4 1 0) (tagsAt 5) base)) fun x => decide (2 ^ 24 ≤ (x.index 0 (.s 1)).toNat) && decide (5 < 2 ^ 24) && boundHolds x fun b =>
        ((List.range 6).filter fun f => b.d.receives b.owner f || b.d.supplies b.owner f) == [0, 1] && decide (5 % b.d.d = 0),
      onIssuer (bind7 (descOf 4 1 0) [] base) fun x => boundHolds x fun b => decide ((x.w.handle 15).st = .idle) && decide (x.w.cnt.cp < 31) && x.w.work.ops.isEmpty &&
        ((List.range 6).filter fun f => b.d.delivers b.owner f) == [0, 1] && (x.s.bindPlace b (b.d.toff + 144)).any fun p => !(x.s.readWord p 8).getLsbD 63,
      onIssuer (outstanding (opWith .store none (last (.host 0) 8 [7] [])) (bind7 (descOf 4 1 0) [] base)) fun x =>
        decide ((x.w.handle 15).st = .idle ∧ x.w.cnt.cp < 31 ∧ x.p.hold = none) && x.w.work.ops.any fun o => decide (o.id < x.w.work.nextOp),
      onIssuer (bind7 (descOf 0 1 0) [] base) fun x => boundHolds x fun b => ((List.range 6).filter fun f => b.d.delivers b.owner f).isEmpty ] = true := by decide +kernel

/-! ### Halo exchange -/

/-- A halo message of kind `k` to the binding's face 1, last of step 5, in the Sound. -/
def haloOf (k : Nat) (grid : Nat) : Packet :=
  Hdr.packet { typ := 7, sslot := 0, dslot := 0, oparg := 5, imm := haloImm grid 0 1 k true 0 } (List.replicate 64 9)

def inSound (p : Packet) (s : State) : State :=
  { s with fabric := { s.fabric with arriving := some (.sound 0), sound := [(p, .none)] } }

def publishing (f : Nat) (step : Nat) (s : State) : State :=
  s.modWork fun k => { k with publishes := [(0, ⟨0, 0, 0, 0, 7, 0, 0, 15, step, [f], 0, 0, []⟩)], nextPublish := 1 }

/-- A warp that has stalled at HWAIT of slot 7 since cycle 0; its code's translation is held. -/
def stalledAt (cycles : Nat) : State :=
  let s := State.reset.withFetchWord 64 3546584739840262144
  let s := bind7 (descOf 4 1 0) [] { s with agenda := [], dies := { s.dies with ticks := cycles } }
  let s := withWarp (fun w => w.modPath 0 fun p => { p with stall := some 0 }) s
  match s.gang? 0 with
  | none => s
  | some g => (s.codeWord g (2 ^ 26)).2

theorem wit_HaloExchange :
    let s0 := bind7 (descOf 4 1 0) [] base
    allHold ([0, 1, 2].map (fun k =>
      let s := inSound (haloOf k 0) s0
      s.clocksRun && (s.fabric.sound[0]?).any fun e => decide (fld e.1.imm 27 2 = k) && decide (fld e.1.imm 29 3 = 1) &&
        (s.haloTarget e.1.dslot e.1.imm e.1.svch (some e.1.offset) e.1.aop).any fun b => !b.tampered &&
          (s.bindPlace b (b.d.buffer 1 (e.1.oparg / b.d.d % 2) + 64 * fld e.1.imm 0 16)).isSome) ++
      [ (inSound (haloOf 0 1) s0).fabric.sound.all fun e => ((inSound (haloOf 0 1) s0).haloTarget e.1.dslot e.1.imm e.1.svch (some e.1.offset) e.1.aop).isNone,
        -- a publish of step 0 with the neighbour bound; of step 1 after it published step 0; without credit
        ((publishing 0 0 (bind7 (descOf 4 1 0) (List.replicate 12 0 ++ [valid 0]) base)).work.publishes).all fun e =>
          let s := publishing 0 0 (bind7 (descOf 4 1 0) (List.replicate 12 0 ++ [valid 0]) base)
          (s.bindingOf e.2).any fun b => (s.gang? e.2.gang).any fun g => g.st == .resident && !s.isFrozen e.2.slot && (b.d.neighbour b.owner 0).isSome &&
            (s.bindPlace b (b.d.toff + 96)).any fun p => (s.readWord p 8).getLsbD 63,
        ((publishing 0 1 (bind7 (descOf 4 1 0) (List.replicate 12 0 ++ [wordOf (2 ^ 63 + 2 ^ 62)]) base)).work.publishes).all fun e =>
          let s := publishing 0 1 (bind7 (descOf 4 1 0) (List.replicate 12 0 ++ [wordOf (2 ^ 63 + 2 ^ 62)]) base)
          (s.bindingOf e.2).any fun b => (s.bindPlace b (b.d.toff + 96)).any fun p => (s.readWord p 8).getLsbD 62 && decide (e.2.step ≤ fld (s.readWord p 8) 0 24 + b.d.d),
        ((publishing 0 0 s0).work.publishes).all fun e =>
          ((publishing 0 0 s0).bindingOf e.2).any fun b => ((publishing 0 0 s0).bindPlace b (b.d.toff + 96)).any fun p => !((publishing 0 0 s0).readWord p 8).getLsbD 63 ] ++
      -- one cycle short of the limit, and at it
      [511, 512].map fun n =>
        let s := stalledAt n
        (s.warp? 0).any fun w => (s.gangOf w).any fun g => g.st == .resident && s.enginesRun g.slot && decide (w.trap.level = 0) && decide (w.livePaths.length = 1) &&
          w.livePaths.all fun e => decide (e.2.stall = some 0) &&
            (match s.codeWord g e.2.pc with | (.ok w0, u) => decide (u = s) && decide (lpOf w0 = 0) && decide ((decode w0 0).instr = .hwait .always 7 (.int 0)) | _ => false) &&
            (s.binding? g w.id.gang w.id.wg 7).any fun b => !b.tampered && !b.d.spol && decide (b.d.stall * 256 = 512) &&
              ((List.range 6).any fun f => b.d.receives b.owner f || b.d.supplies b.owner f) &&
              (List.range 12).all fun i => (s.bindPlace b (b.d.toff + 8 * i)).any fun p => !(s.readWord p 8).getLsbD 63 && decide (s.cyc w.id.core = n)) = true := by
  decide +kernel

/-! ### Boosted tasks -/

/-- The warp's task: begun at its present instruction, its stack of 64 KiB at 0x10000. -/
def tasked (f : Task → Task) (s : State) : State :=
  withWarp (fun w => { w with task := f { w.task with st := .active, target := 2 ^ 26, sd := 63, ub := 0x10000, sp := 0x10000, size := 64, vb := 317, age := 16, lanes := 0xFFFFFFFF } }) s

/-- Warp 1 has a task of age `n` that holds key `key` as kind 3; the table's entry for kinds 1 and 3. -/
def rival (n e : Nat) (key : Word) (s : State) : State :=
  let s := two (fun w => { w with task := { w.task with age := n } }) s
  let s := { s with dies := { s.dies with dirs := [⟨0, 0, 1, key, [3]⟩] } }
  s.modSlot 0 fun y => { y with ctab := setAt (setAt (List.replicate 64 0) 1 (BitVec.ofNat 128 (e * 64))) 3 (BitVec.ofNat 128 (e * 4)) }

/-- One lane left on the path. -/
def oneLane (s : State) : State := withWarp (fun w => w.modPath 0 fun p => { p with mask := 1 }) s

def keysOf (x : Ictx) : List (Nat × Word) := (Mask.lanes (x.lanes .always)).map fun l => (l, x.src .b64 l (.v 0))

def meets (n e : Nat) (key : Word) : State := oneLane (rival n e key (tasked id base))

theorem wit_BoostedInstructions :
    allHold [
      -- BBEGIN: with the largest stack, of a new target and of the last one's; too large; boosted already; without BOOST
      onIssuer (setReg 1 0x10000 (setReg 2 64 base)) fun x => x.any .always && !x.w.boosted && decide (x.w.width = 32) && decide (x.w.livePaths.length = 1) &&
        x.w.stack.all (fun e => e == none) && decide (317 + 3 ≤ x.g.nv) && x.g.boost && decide ((x.index 0 (.s 2)).toNat ≤ 64) && x.g.holds (x.uni .b64 (.s 1)) (64 * 1024) &&
        decide (x.w.task.st ≠ .active) && decide (x.w.task.st ≠ .replay),
      onIssuer (setReg 1 32 (setReg 2 65 (withWarp (fun w => { w with task := { w.task with lastTarget := some (2 ^ 26) } }) base))) fun x => decide (64 < (x.index 0 (.s 2)).toNat) &&
        decide (x.w.task.lastTarget = some x.p.pc),
      onIssuer (tasked id base) fun x => x.w.boosted && decide (x.w.task.st = .active) && decide ((0 : Word) + 8 * (-1 : BitVec 26).signExtend 64 = -8),
      onIssuer (base.modWork fun k => { k with gangs := k.gangs.map fun e => (e.1, { e.2 with words := setAt e.2.words 2 (recWord e.2.words 2 &&& ~~~((1 : Word) <<< 27)) }) }) fun x => !x.g.boost,
      -- BOP: alone; with a full stack; with its last record; against an older and a younger task; with a table miss
      onIssuer (tasked id base) fun x => decide (topOf [.v 0, .s 1, .s 2] ≤ x.g.nv) && (x.s.slot x.v).ctabLoads.isEmpty && (x.findings 63 (keysOf x)).isEmpty &&
        decide ((x.w.task.sp - x.w.task.ub).toNat + 32 * 32 ≤ x.w.task.size * 1024) && !x.noRoom (x.newKeys ((keysOf x).map (·.2))) && Memory.wf x.s.dies.vault &&
        x.g.holds x.w.task.ub (x.w.task.size * 1024),
      onIssuer (tasked (fun t => { t with sp := t.ub + 64 * 1024 - 1024 + 32 }) base) fun x => decide (x.w.task.size * 1024 < (x.w.task.sp - x.w.task.ub).toNat + 32 * 32) &&
        (x.findings 63 (keysOf x)).isEmpty,
      onIssuer (meets 15 2 7) fun x => decide ((Mask.lanes (x.lanes .always)) = [0]) && (x.s.otherTasks x.v x.c.warp).map (·.1) == [1] && decide (x.s.kindsOf 1 = [3]) &&
        decide (tableEntry (x.s.slot x.v).ctab 1 3 = 2) && ((x.s.warp? 1).any fun v => decide (v.task.age < x.w.task.age)),
      onIssuer (meets 17 1 0) fun x => decide (tableEntry (x.s.slot x.v).ctab 1 3 = 1) && x.s.holdsKey 1 (x.src .b64 0 (.v 0)) 3 &&
        (x.s.warp? 1).any fun v => decide (x.w.task.age ≤ v.task.age) && decide (v.task.st = .active) && v.task.pendingAbort.isNone,
      onIssuer (withWarp (fun w => w.modPath 0 fun p => { p with bop := some [1] }) (tasked id base)) fun x => decide (x.p.bop = some [1]) && decide (x.w.task.st = .active) &&
        decide (x.lanes .always ≠ 0),
      onIssuer (meets 17 3 0) fun x => decide (tableEntry (x.s.slot x.v).ctab 1 3 = 3) && x.w.task.memos.isEmpty,
      -- BRET, BCOMMIT, BABORT
      onIssuer (tasked (fun t => { t with st := .replay, glanes := 0xFFFFFFFF, sp := t.ub + 32 }) base) fun x => decide (x.act = x.w.task.glanes) && decide (x.w.task.sp ≠ x.w.task.ub),
      onIssuer (tasked (fun t => { t with st := .replay, glanes := 0xFFFFFFFF }) base) fun x => decide (x.act = x.w.task.glanes) && decide (x.w.task.sp = x.w.task.ub) && x.w.work.ops.isEmpty,
      onIssuer (outstanding (opWith .store none (last (.host 0) 8 [7] [])) (tasked (fun t => { t with st := .replay, glanes := 0xFFFFFFFF }) base)) fun x =>
        decide (x.act = x.w.task.glanes) && decide (x.w.task.sp = x.w.task.ub) && decide (x.p.hold = none) && x.w.work.ops.any fun o => decide (o.id < x.w.work.nextOp),
      onIssuer (tasked id base) fun x => (List.range 128).all fun l => !x.w.task.lanes.getLsbD l || x.w.exited.getLsbD l || x.act.getLsbD l,
      -- BCTL: a miss to judge; a table of zeros at vault address 0, and one that is not symmetric; a load that has been done
      onIssuer (withWarp (fun w => { w with trap := { w.trap with level := 1, tcause1 := 5 } }) (tasked (fun t => { t with miss := [⟨⟨2 ^ 26, 1 <<< 31, 0⟩, 1, 3, 31, true, 1, none, false⟩] }) base)) fun x =>
        decide (x.w.trap.level = 1) && decide (fld x.w.trap.tcause1 0 8 = 5) && !x.w.task.miss.isEmpty,
      onIssuer base fun x => !x.w.boosted && decide (x.p.hold ≠ some .table) && decide ((x.uni .b64 (.int 0)).toNat % 64 = 0) && isVaultAddr (x.uni .b64 (.int 0)) &&
        (x.s.otherTasks x.v x.c.warp).isEmpty &&
        match x.g.vaultPlace (x.uni .b64 (.int 0)) 1024 with
          | .ok pl => x.landed.mayRead ((List.range 16).map fun i => pl.place.add (64 * i)) 64 && symmetric (tableOf (x.s.readPlace pl.place 1024))
          | _ => false,
      onIssuer (vaultPut 0 [4] base) fun x => match x.g.vaultPlace (x.uni .b64 (.int 0)) 1024 with
          | .ok pl => !symmetric (tableOf (x.s.readPlace pl.place 1024)) | _ => false,
      onIssuer (holding .table base) fun x => !x.w.boosted && decide (x.p.hold = some .table) && (x.s.slot x.v).ctabLoads.isEmpty ] = true := by decide +kernel

/-- Warp 0's task and gang. -/
def taskHolds (s : State) (f : Warp → Gang → Bool) : Bool := (s.warp? 0).any fun w => (s.gangOf w).any fun g => g.st == .resident && f w g

def isIdle (w : Warp) : Bool := !w.pending && w.work.ops.isEmpty

theorem wit_BoostedEvents :
    let drain (f : Task → Task) := tasked (fun t => f { t with st := .drainA, cause := 2, value := 63, retry := 65536 }) base
    allHold [
      (let s := tasked (fun t => { t with pendingAbort := some (2, 63) }) base
       taskHolds s fun w _ => decide (w.task.st = .active) && decide (w.trap.level < 2) && s.warpResident 0 && s.enginesRun (s.slotOf w)),
      taskHolds (tasked id base) fun w _ => w.task.pendingAbort.isNone,
      taskHolds (outstanding (opWith .store none (last (.host 0) 8 [7] [])) (drain id)) fun w _ => !isIdle w,
      taskHolds (drain id) fun w _ => isIdle w && decide (w.task.sp = w.task.ub) && KMap.rising w.set.s,
      taskHolds (drain fun t => { t with sp := t.ub + 32 }) fun w g => isIdle w && decide (w.task.sp = w.task.ub + 32) && !w.task.tampered && KMap.rising w.vr.v &&
        decide (w.task.vb + 3 ≤ 320) && match g.vaultPlace w.task.ub 32 with | .ok _ => true | _ => false,
      taskHolds (tasked (fun t => { t with st := .drainC }) base) fun w _ => isIdle w && decide (w.task.st = .drainC),
      (let s := (rival 8 1 7 base).modSlot 0 fun y => { y with ctabLoads := [⟨0, 0, List.replicate 1024 0⟩] }
       (s.slot 0).ctabLoads.length == 1 && s.dies.dirs.any fun e => e.slot == 0),
      base.dies.dirs.all fun e => e.slot != 63 ] = true := by decide +kernel

end Sys2Proof.Tests
end

