-- ==== Sys2Proof/Tests/WitnessHost.lean ====
section
/-! SUPPORT. Witnesses for the statements about messages, pod gangs, logs, the scheduler, the host and the step. -/

set_option Elab.async false

namespace Sys2Proof.Tests

open Sys2Proof.Machine

set_option maxRecDepth 100000

/-! ### Pod messages and network posts -/

def withMset (ms : List Nat) (s : State) : State :=
  { s with tables := { s.tables with guests := s.tables.guests.map fun e => (e.1, { e.2 with msets := [(255, ⟨true, ms⟩)] }) } }

/-- One message record in the peer's log: a set's message of 960 bytes from stream 255. -/
def withMessage (n : Nat) (s : State) : State :=
  let p := Hdr.packet { typ := 6, stream := 255, svch := 1023, nbytes := n, mc := true, mset := 255 } (List.replicate n 3)
  (s.hbmWrite (s.logOwner 0) 0x4000000 (wordsBytes (recordWords p 0))).hbmWrite Owner.hv 0x3000018 (wordsBytes [64 * 16])

def ready15 (x : Ictx) : Bool := x.any .always && decide ((x.w.handle 15).st = .idle)

theorem wit_MessagesAndPosts :
    allHold [
      -- PSEND: lengths 961 and 960, to set 256 and 255, to vchip 2 of a pod of two, out of the vault
      onIssuer (setReg 1 256 (setReg 2 0x10000 (setReg 3 961 peer))) fun x => ready15 x && !privOf [.s 1, .s 2, .s 3] && decide (255 < (x.uni .b64 (.s 1)).toNat) &&
        decide (960 < (x.uni .b64 (.s 3)).toNat),
      onIssuer (setReg 1 255 (setReg 2 0x10000 (setReg 3 960 (withMset [0, 1] peer)))) fun x => (x.s.vchip? x.v).any fun v => decide ((x.s.members v 255).length = 1) &&
        match x.g.vaultPlace (x.uni .b64 (.s 2)) 960 with | .ok _ => true | _ => false,
      onIssuer (setReg 1 255 (withMset [0] peer)) fun x => (x.s.vchip? x.v).any fun v => (x.s.members v 255).isEmpty,
      onIssuer peer fun x => (x.s.vchip? x.v).any fun v => decide (x.s.podSize v.guest = 2),
      onIssuer (setReg 2 (2 ^ 26) peer) fun x => match x.g.vaultPlace (x.uni .b64 (.s 2)) 1 with | .error _ => true | _ => false,
      -- PRECV: nothing there; a message of 960 bytes into 960 and into none
      onIssuer (setReg 1 0x10000 (setReg 2 960 peer)) fun x => (x.s.validLog? x.v).any fun cb => decide ((x.s.slot x.v).log.st = .running) && (x.s.oldest? x.v (x.s.msgRing cb)).isNone,
      onIssuer (setReg 1 0x10000 (setReg 2 960 (withMessage 960 peer))) fun x => (x.s.validLog? x.v).any fun cb => (x.s.oldest? x.v (x.s.msgRing cb)).any fun pos =>
        decide (fld (recWord (x.s.recordAt x.v (x.s.msgRing cb) pos) 2) 46 10 = 960) && x.w.work.ops.isEmpty &&
        match x.g.vaultPlace (x.uni .b64 (.s 1)) 960 with | .ok t => x.s.placeOpen x.v t.place | _ => false,
      -- NPOST: endpoints 15 and 16, lengths 0, 2^32 - 1 and 2^32
      onIssuer (setReg 1 15 (setReg 2 (2 ^ 27) (setReg 3 (2 ^ 32 - 1) (peer.modSlot 0 fun y => { y with endpoints := [15] })))) fun x => ready15 x &&
        decide ((x.uni .b64 (.s 1)).toNat ∈ (x.s.slot x.v).endpoints) && decide (2 ^ 26 ≤ (x.uni .b64 (.s 2)).toNat) && decide ((x.uni .b64 (.s 3)).toNat < 2 ^ 32),
      onIssuer (setReg 1 16 (setReg 3 (2 ^ 32) peer)) fun x => decide (15 < (x.uni .b64 (.s 1)).toNat) && decide (2 ^ 32 ≤ (x.uni .b64 (.s 3)).toNat),
      onIssuer (setReg 1 15 peer) fun x => decide ((x.uni .b64 (.s 1)).toNat ∉ (x.s.slot x.v).endpoints) ] = true := by decide +kernel

/-- A post of handle 15 of warp 0. -/
def posting (op : NpostOp) (len count : Nat) (sent : Bool) (s : State) : State :=
  (withHandle ⟨.pending, 5, 0, 0, false, 0, 0⟩ ⟨0, 0, 0, 0⟩ s).modWork fun k => { k with nextPost := 1, posts :=
    [(0, ⟨0, 0, 15, op, 15, 2 ^ 27, len, 0, 0, count, sent, [], [], none, 0, 0, fetchRecord, [⟨0, 0, 0, []⟩], [], 0⟩)] }

def postHolds (s : State) (f : Post → Bool) : Bool :=
  s.fabricRuns && (s.post? 0).any fun p => decide (p.id = 0) && p.err.isNone && ((s.warp? p.warp).any fun w => !w.allExited) && KMap.rising s.work.posts && f p

theorem wit_NetworkEngine :
    allHold [
      postHolds (posting .read 64 63 true base) fun p => decide (p.count < p.len) && p.sent,
      postHolds (posting .read 64 64 true base) fun p => decide (p.len ≤ p.count),
      postHolds (posting .read 64 0 false base) fun p => !p.sent && base.enginesRun p.slot && base.postHere p && (posting .read 64 0 false base).postMayRead p,
      postHolds (posting .send 64 0 false base) fun p => decide (p.len ≤ 64 - p.addr.toNat % 64) &&
        match (posting .send 64 0 false base).engResolve p.slot p.gang p.addr p.len Acc.read with | (.local _, _) => true | _ => false,
      postHolds (posting .read 128 64 true base) fun p => decide (64 + 64 ≤ p.len) &&
        match (posting .read 128 64 true base).engResolve p.slot p.gang (p.addr + BitVec.ofNat 64 64) 64 Acc.write with | (.local _, _) => true | _ => false,
      postHolds (posting .write 64 0 true base) fun p => p.sent && decide (p.op ≠ .read),
      -- a post behind a store that a FENCE.X orders; bytes kept for a packet that is asked for again
      (let s := outstanding (opWith .store none (last (.host 0) 8 [7] [])) (posting .write 64 0 false base)
       let s := s.modWork fun k => { k with posts := k.posts.map fun e => (e.1, { e.2 with xfence := 1 }) }
       postHolds s fun p => !p.sent && s.enginesRun p.slot && s.postHere p && !s.postMayRead p),
      (let s := (posting .write 64 0 true base).modWork fun k => { k with posts := k.posts.map fun e => (e.1, { e.2 with data := [(0, [1])] }) }
       postHolds s fun p => decide (p.data.find? (fun e => e.1 == 0) = some (0, [1]))),
      (let s := base.modSlot 0 fun y => { y with endpoints := [15] }
       (s.vchip? 0).isSome && (s.slot 0).sched.switchedIn && !s.placeHeld 0 (2 ^ 40 - 4096) 64 && !s.isFrozen 0 && decide (15 ∈ (s.slot 0).endpoints) && (match s.stage2 0 (2 ^ 40 - 4096) Acc.write with | .ok _ => true | _ => false) &&
        (match s.stage2 0 (2 ^ 40) Acc.write with | .error (.violation _ _) => true | _ => false)),
      (let s := hostPeer.modSlot 0 fun y => { y with endpoints := [15] }
       s.placeHeld 0 0 8 && decide (15 ∈ (s.slot 0).endpoints) && !s.isFrozen 0),
      decide (15 ∉ (base.slot 0).endpoints) ] = true := by decide +kernel

/-! ### Pod gangs -/

/-- A launch record of a pod gang of set 255 with LID 7; the set holds vchips 0 and 1. -/
def podRecord : List Word := [wordOf (2 ^ 26), 0, wordOf (place 1 52 + place 1 26), wordOf (place 255 56 + 7)] ++ List.replicate 28 0

def podLaunch (res : Bool) (coord : Nat) (committed : Bool) : Launch :=
  ⟨3, if res then 64 else 0, podRecord, [], none, none, 0, 0, false, res, none, [], some ⟨coord, [0, 1], [0], none, committed, [0], [], 0, 0, 0, false⟩, none⟩

def withLaunches (ls : List Launch) (s : State) : State := s.modSlot 0 fun x => { x with sched := { x.sched with queues := ls, nextLaunch := 9 } }

def podPeer (ls : List Launch) : State := withLaunches ls (withMset [0, 1] peer)

/-- A GANG packet about LID 7. -/
def gangHdr (kind st bit : Nat) : Hdr := { fromPeer 0x21 with oparg := kind, imm := wordOf (7 + place st 32 + place bit 40) }

def gangHolds (s : State) (p : Packet) (f : State → Bool) : Bool :=
  decide (p.typ = 0x21) && !p.rev && decide (p.dslot = 0) && decide (p.svch = 1) && decide (fld p.imm 0 32 = 7) && f ((atPort s p).framesArrived 0 p)

/-- A packet of each kind passes the check: reserve, ack, ack to a commit, commit, release with STATUS 1, 4 and 0. -/
theorem wit_PodGangs_arrive :
    ∀ k ∈ [(0, 0, 0), (1, 0, 0), (1, 0, 1), (1, 2, 0), (2, 0, 0), (3, 1, 0), (3, 4, 0), (3, 0, 0)],
      ∃ p s1, (atPort (podPeer []) p).arrival = some (0, p, s1) ∧ s1.check p = (none, s1) ∧ p.typ = 0x21 ∧ p.rev = false ∧ p.oparg % 4 = k.1 ∧
        fld p.imm 32 8 = k.2.1 := by
  intro k hk
  refine ⟨sealedPacket (gangHdr k.1 k.2.1 k.2.2) (if k.1 = 0 then wordsBytes podRecord else []), _, arrives ?_, passes (k := inKey) ?_ ?_, ?_, ?_, ?_, ?_⟩ <;>
  · simp only [List.mem_cons, List.not_mem_nil, or_false] at hk
    rcases hk with rfl | rfl | rfl | rfl | rfl | rfl | rfl | rfl <;> decide +kernel

/-- The states that the clauses tell apart: a good record and a bad one; a reserve that stands; its release came before; an ack in time, and late. -/
theorem wit_PodGangs_packets :
    let res := sealedPacket (gangHdr 0 0 0) (wordsBytes podRecord)
    let ack := sealedPacket (gangHdr 1 0 0) []
    allHold [
      gangHolds (podPeer []) res fun u => ((u.slot 0).claimOf 1 7).isNone && ((u.slot 0).coordinated 7).isNone && !((u.slot 0).sched.droppedReserves.contains (1, 7)) &&
        decide (bytesWords (res.payload.take 256) = podRecord) && !u.badRecord 0 podRecord && !u.neverFits 0 (podLaunch true 1 false) && (podLaunch true 1 false).podg &&
        decide ((podLaunch true 1 false).lid = 7),
      gangHolds ((podPeer []).modSched 0 fun c => { c with droppedReserves := [(1, 7)] }) res fun u => (u.slot 0).sched.droppedReserves.contains (1, 7),
      gangHolds peer res fun u => u.badRecord 0 podRecord,
      gangHolds (podPeer [podLaunch true 1 false]) res fun u => ((u.slot 0).claimOf 1 7).any fun l => l.pod.any fun q => !q.committed,
      gangHolds (podPeer [podLaunch true 1 true]) res fun u => ((u.slot 0).claimOf 1 7).any fun l => l.pod.any fun q => q.committed,
      gangHolds (podPeer [podLaunch false 0 false]) ack fun u => ((u.slot 0).coordinated 7).any fun l => l.pod.any fun q => q.members.contains 1 && !q.committed && !q.lost &&
        decide (u.now < q.began + 200) && u.launch? 0 3 == some l && KMap.rising u.slots && q.members.all (q.acked ++ [1]).contains,
      gangHolds (podPeer [podLaunch false 0 true]) ack fun u => ((u.slot 0).coordinated 7).any fun l => l.pod.any fun q => q.committed ] = true := by decide +kernel

theorem wit_PodGangs_limits :
    allHold [
      [199, 200].all fun n =>
        let s := { podPeer [podLaunch false 0 false] with now := n }
        (s.launch? 0 3).any fun l => !l.isReserve && l.pod.any fun q => decide (q.coordinator = s.vchNum 0) && q.failed.isNone && !q.lost && !q.committed && decide (q.began = 0),
      [49, 50, 999, 1000].all fun n =>
        let s := { podPeer [podLaunch false 0 true] with now := n }
        (s.launch? 0 3).any fun l => l.pod.any fun q => q.committed && decide (q.resent = 0 ∧ q.commitAt = 0) && !q.members.all q.commitAcked.contains ] = true := by decide +kernel

/-! ### Receive logs, hypervisor commands, rewrites -/

/-- One deferral record, of a WRITE of 8 bytes at `off`, in the peer's log. -/
def deferred (off : Nat) (s : State) : State :=
  let p := Hdr.packet { typ := 1, svch := 1, nbytes := 8, offset := off } (List.replicate 8 3)
  (s.hbmWrite (s.logOwner 0) 0x5000000 (wordsBytes (recordWords p 0))).hbmWrite Owner.hv 0x3000028 (wordsBytes [128])

def replaying (s : State) : State := s.modSlot 0 fun y => { y with log := { y.log with st := .replaying } }

def deferralHolds (s : State) (f : HomeRes → Bool) : Bool :=
  (s.validLog? 0).any fun cb => decide ((s.slot 0).log.st = .replaying) && !s.isFrozen 0 && s.fabricRuns && (s.oldest? 0 (s.defRing cb)).any fun pos =>
    let r := s.defRing cb
    let ws := s.recordAt 0 r pos
    let n := 64 * (1 + fld (recWord ws 0) 54 4)
    let p := s.recordPacket 0 ws (s.hbmRead (s.logOwner 0) (r.base + pos % 2 ^ r.log2 + 64) (n - 64))
    !s.homeHeld 0 p && f (s.homeExec 0 p)

theorem wit_ReceiveLogEvents :
    let full (n : Nat) : State := (withMessage 8 peer).hbmWrite Owner.hv 0x3000018 (wordsBytes [BitVec.ofNat 64 (2 ^ 16 - n)])
    allHold [
      deferralHolds (replaying (deferred 0x2000000 peer)) isDone,
      deferralHolds (replaying (deferred (2 ^ 27) (beyond peer))) fun r => match r with | .fault _ => true | _ => false,
      ((replaying peer).validLog? 0).any fun cb => decide (((replaying peer).defRing cb).head = ((replaying peer).defRing cb).tail),
      -- a quarter of the message ring free, and less, with a record to replay
      ((deferred 0 (full (2 ^ 14))).validLog? 0).any fun cb => let s := deferred 0 (full (2 ^ 14))
        decide (2 ^ 16 / 4 ≤ 2 ^ 16 - ((s.msgRing cb).tail - (s.msgRing cb).head)) && decide ((s.defRing cb).head ≠ (s.defRing cb).tail),
      ((deferred 0 (full (2 ^ 14 - 64))).validLog? 0).any fun cb => let s := deferred 0 (full (2 ^ 14 - 64))
        decide (2 ^ 16 - ((s.msgRing cb).tail - (s.msgRing cb).head) < 2 ^ 16 / 4) && decide ((s.defRing cb).head ≠ (s.defRing cb).tail),
      [199, 200].all fun n => decide (((replaying { base with now := n }).slot 0).log.since + n = n),
      -- RLOGBASE of a vchip that is not running, and of a free slot with a valid control block
      base.answers && (base.vchip? 0).isSome && decide (((replaying base).slot 0).log.st ≠ .running),
      (let u := (peer.hbmWrite Owner.hv 0x3000040 (wordsBytes [0x6000010, 0x7000010, 9, 9, 9, 9, 0, 0])).modSlot 63 fun x => { x with blk := { x.blk with rlogbase := 0x3000041 } }
       let u' := match u.logBase? 63 with | some cb => u.hbmWrite Owner.hv (cb + 16) (List.replicate 32 0) | none => u
       (peer.vchip? 63).isNone && (u'.vchip? 63).isNone && u'.logValid 63),
      -- of the vchip whose log runs with both rings empty, and with a record in one
      (peer.vchip? 0).isSome && decide ((peer.slot 0).log.st = .running) && (peer.validLog? 0).any (fun cb =>
        decide ((peer.msgRing cb).head = (peer.msgRing cb).tail) && decide ((peer.defRing cb).head = (peer.defRing cb).tail)),
      ((deferred 0 peer).validLog? 0).any (fun cb => decide (((deferred 0 peer).defRing cb).head ≠ ((deferred 0 peer).defRing cb).tail)),
      (peer.logBase? 0).isSome && !(peer.slot 0).log.ran && peer.logValid 0,
      ((peer.modSlot 0 fun y => { y with log := { y.log with ran := true } }).slot 0).log.ran ] = true := by decide +kernel

def withToken (t : TokenOf) (s : State) : State := { s with evq := { s.evq with tokens := [(65535, t)] } }

def dst0 : DstId := ⟨0, 1, 0⟩
/-- The peer's stream 0 is frozen here with a code. -/
def frozenHere (code : Nat) (s : State) : State := s.setDst { s.dstStream dst0 with frozen := some ⟨code, 5, true, false⟩, last := some ((fromPeer 1).packet []) }

def rewriting (p : RwPhase) (s : State) : State := { s with tables := { s.tables with rewrite := { s.tables.rewrite with phase := p, ndesc := 1 } } }

/-- A descriptor of guest 0's header: two vchips, at host address 64. -/
def goodList (s : State) : State := (rewriting .loading s).hostWrite 0 (wordsBytes [wordOf (place 5 44 + place 1 6), 64, 0, 0, 0, 0, 0, 0, wordOf (2 ^ 63 + place 2 16)])

theorem wit_HvCommandsAndRewrites :
    allHold [
      { base with host := { base.host with hvBusy := true } }.host.hvBusy && !base.host.hvBusy && base.answers,
      (KMap.find? base.evq.tokens 65535).isNone,
      decide (KMap.find? (withToken (.master 0) base).evq.tokens 65535 = some (.master 0)),
      decide (KMap.find? (withToken (.tdi 0) base).evq.tokens 65535 = some (.tdi 0)),
      [7, 6].all fun c => let s := withToken (.dst dst0) (frozenHere c peer)
        decide (KMap.find? s.evq.tokens 65535 = some (.dst dst0)) && (s.dstStream dst0).last.isSome && (s.dstStream dst0).frozen.any fun f => f.code == c,
      [9, 1].all fun c => let s := withToken (.src stream0) (sending (some ⟨c, 0, true⟩))
        decide (KMap.find? s.evq.tokens 65535 = some (.src stream0)) && (s.srcStream stream0).frozen.any fun f => f.code == c,
      decide (base.tables.rewrite.phase = .idle),
      -- a list that passes, and one of zeros: count 0
      (let s := goodList peer; decide (s.loadResult (s.readDescs s.tables.rewrite.daddr s.tables.rewrite.ndesc) = 0)),
      (let s := rewriting .loading peer; decide (s.loadResult (s.readDescs s.tables.rewrite.daddr s.tables.rewrite.ndesc) = 1)),
      -- paused: drained, and with a request outstanding at 44 and 45 us
      (let s := rewriting .paused peer; s.fabric.src.isEmpty && s.fabric.dst.isEmpty && decide (s.tables.rewrite.phase = .paused)),
      (let s := rewriting .paused (sending none); s.fabric.src.any fun x => !x.sent.isEmpty && x.frozen.isNone && s.tables.rewrite.guests.contains x.guest),
      [44, 45].all fun n => let s := { rewriting .paused (sending none) with now := n }
        decide (s.runUs = n) && decide (s.tables.rewrite.since = 0) ] = true := by decide +kernel

/-! ### Scheduling -/

/-- A record of one gang at 2^26 with LID 7 and a flag dependence at 2^27 for value 5. -/
def plainRecord (gran : Nat) : List Word :=
  [wordOf (2 ^ 26), 0, wordOf (place gran 52), 7, 0, 0, 0, 0] ++ [wordOf (place 3 62 + 2 ^ 27), 5] ++ List.replicate 22 0

def submittedAt (a : Nat) (s : State) : State := s.modSlot 0 fun x => { x with win := { x.win with port := [⟨BitVec.ofNat 64 a, 63, none⟩] } }

def launchOf (ws : List Word) (deps : List Dep) : Launch := ⟨3, 63, ws, deps, some 0, none, 0, 0, false, false, none, [], none, none⟩

def readRecord (s : State) (f : State → List Word → Bool) : Bool :=
  s.schedRuns 0 && match (s.slot 0).win.port with
    | x :: rest => s.submitted x && (match (s.modSlot 0 fun y => { y with win := { y.win with port := rest } }).schedPlace 0 x.addr 256 Acc.read with
      | (some p, s2) => s2.placeOpen 0 p && f s2 (bytesWords (s2.readPlace p 256))
      | _ => false)
    | _ => false

def flagOf (n : Nat) (s : State) : State := (withLaunches [launchOf (plainRecord 1) [.flag true (2 ^ 27) 5]] s).hbmWrite ⟨0, 0⟩ (2 ^ 27) (wordsBytes [BitVec.ofNat 64 n])

theorem wit_SchedulingAndPlacement_events :
    let idle (s : State) : State := { s with work := State.reset.work }
    allHold [
      -- the port at 255 and 256 submissions, in RUN and outside it
      base.answers && decide ((base.slot 0).tdi = some .run) && decide ((base.slot 0).win.port = []) && decide ((base.slot 0).gen ≠ 0) && decide ((base.slot 0).blk.flr = .idle),
      decide (256 ≤ ((fullPort base).slot 0).win.port.length) && decide ((List.replicate 255 0).length < 256),
      decide (((base.modSlot 0 fun x => { x with tdi := some .unlocked }).slot 0).tdi = some .unlocked) && decide ((base.slot 63).tdi = none),
      -- records: outside stage 1, bad, good
      (let s := submittedAt (2 ^ 48) base; s.schedRuns 0 && match (s.modSlot 0 fun y => { y with win := { y.win with port := [] } }).schedPlace 0 (2 ^ 48) 256 Acc.read with
        | (none, _) => true | _ => false),
      readRecord (submittedAt (2 ^ 28) base) fun u ws => u.badRecord 0 ws,
      readRecord (submittedAt (2 ^ 28) (base.hbmWrite ⟨0, 0⟩ (2 ^ 28) (wordsBytes (plainRecord 10)))) fun u ws => !u.badRecord 0 ws && decide (ws = plainRecord 10),
      -- a flag that is the value and one that is not, and one out of stage 1
      [4, 5].all fun n => let s := flagOf n base
        (s.launch? 0 3).any fun l => decide (l.deps[0]? = some (.flag true (2 ^ 27) 5)) && !l.isReserve && decide (((s.slot 0).head? l.queue).map (·.id) = some 3) &&
          s.schedRuns 0 && match s.schedPlace 0 (2 ^ 27) 8 Acc.read with | (some p, u) => u.placeOpen 0 p && decide ((u.readWord p 8).toNat = n) | _ => false,
      (match base.schedPlace 0 (2 ^ 48) 8 Acc.read with | (none, _) => true | _ => false),
      -- placing: nothing picked; a head that fits; one that does not fit now; a pod gang's; with no log
      (let s := idle peer; s.mayPlace 0 && ((s.slot 0).pick s.now).isNone && decide (s.tryReserve 0 = s)),
      (let s := idle (withLaunches [launchOf (plainRecord 10) []] peer); s.mayPlace 0 && decide (s.tryReserve 0 = s) && ((s.slot 0).pick s.now).any fun l => decide (l.placed = 0) &&
        !l.podg && !s.neverFits 0 l && (s.fitLaunch 0 l (s.claims 0) (s.saveClaimed 0)).isSome),
      (let s := withLaunches [launchOf fetchRecord []] peer; (((s.slot 0).pick s.now).any fun l => !s.neverFits 0 l && s.mayPlace 0)),
      (let s := idle (withLaunches [launchOf podRecord []] (withMset [0, 1] peer)); ((s.slot 0).pick s.now).any fun l => l.podg && (s.fitLaunch 0 l (s.claims 0) (s.saveClaimed 0)).isSome),
      !base.mayPlace 0,
      -- retiring
      (base.gang? 0).isSome && base.clocksRun && !(base.warpsOf 0).isEmpty,
      (let s := base.modWork fun k => { k with warps := [] }; (s.gang? 0).any fun g => g.st == .resident && (s.warpsOf 0).isEmpty) ] = true := by decide +kernel

/-- 16 warps with all of the tiles and the vault on an empty core; and one beside another's. -/
theorem wit_SchedulingAndPlacement_placements :
    (fitCore [] 1023 ⟨1, 16, 1, 384, 1024, false⟩).isSome = true ∧
    (fitCore [(⟨1, 3, 1, 100, 10, false⟩, ⟨5, 0, 0, upTo 100⟩)] 5 ⟨1, 2, 2, 284, 1014, true⟩).isSome = true := by decide +kernel

/-! ### Sharing in time, pre-emption -/

def withSch (f : SchedRegs → SchedRegs) (s : State) : State := s.modSlot 0 fun x => { x with sch := f x.sch }
def inGroup (s : State) : State := withSch (fun r => { r with now := ⟨2000, 1, 63, false⟩ }) s

/-- A second vchip of the group, out, with a launch at its head. -/
def withNext (s : State) : State :=
  let x := ((withLaunches [launchOf (plainRecord 1) []] (inGroup peer)).slot 0)
  (s.modSlot 9 fun _ => { x with vchip := some ⟨0, 1, [0], 0⟩, sched := { x.sched with switchedIn := false } }).hbmWrite Owner.hv 0x3000000
    (wordsBytes [0x4000010, 0x5000010, 0, 0, 0, 0, 0, 0])

def shares (s : State) (f : Slot → Bool) : Bool :=
  (s.slot 0).vchip.isSome && s.answers && s.clocksRun && KMap.rising s.slots && f (s.slot 0)

def preempting (s : State) : State := (s.modSched 0 fun c => { c with preempting := true }).modWork fun k => { k with gangs := k.gangs.map fun e => (e.1, { e.2 with st := .stopping }) }

def hintHdr (kind : Nat) : Hdr := { fromPeer 0x20 with oparg := 256 + kind, imm := wordOf (place 1200 32 + 2400) }

theorem wit_SharingAndPreemption_arrive :
    ∀ k ∈ [0, 1, 2], ∃ p s1, (atPort peer p).arrival = some (0, p, s1) ∧ s1.check p = (none, s1) ∧ p.typ = 0x20 ∧ p.rev = false ∧ p.oparg % 256 = k ∧
      (s1.slot p.dslot).sch.now.dedic = true := by
  intro k hk
  refine ⟨sealedPacket (hintHdr k) [], _, arrives ?_, passes (k := inKey) ?_ ?_, ?_, ?_, ?_, ?_⟩ <;>
  · simp only [List.mem_cons, List.not_mem_nil, or_false] at hk
    rcases hk with rfl | rfl | rfl <;> decide +kernel

theorem wit_SharingAndPreemption :
    let out (s : State) : State := s.modSched 0 fun c => { c with switchedIn := false }
    allHold [
      (let s := goodList peer
       let s := { s with tables := { s.tables with rewrite := { s.tables.rewrite with
         phase := .paused, shadow := s.readDescs s.tables.rewrite.daddr s.tables.rewrite.ndesc } } }
       shares s fun _ => s.paused 0),
      shares (out base) fun x => !x.sched.switchedIn && !base.paused 0,
      shares base fun x => x.sched.switchedIn && x.sch.now.dedic && !x.sched.preempting,
      -- at its slice's end alone, and with another to run; before it
      (let s := { inGroup base with now := 2000 }; shares s fun x => decide (x.sched.inAt + x.sch.now.slice ≤ s.now) && decide (s.nextOf 63 = none) && !x.sch.now.dedic),
      (let s := withNext (withSch (fun r => { r with now := ⟨2000, 0, 63, false⟩ }) { peer with now := 2000 }); shares s fun x => decide (s.nextOf 63 = some 9) && !x.sch.now.dedic && decide (x.sched.inAt + x.sch.now.slice ≤ s.now)),
      (let s := { inGroup base with now := 1999 }; shares s fun x => decide (s.now < x.sched.inAt + x.sch.now.slice) && s.hasWork 0 && !s.isFrozen 0 && decide (s.nextOf 63 = none)),
      -- SCHED: slices 99 and 100 and 10000 of a dedicated vchip; of a shared one that stays shared
      decide ((99 : Nat) < 100 ∧ 10000 < 10001) && [100, 10000].all fun n => !base.schedRefused 0 ⟨n, 255, 63, true⟩ && (base.slot 0).sch.now.dedic,
      (let s := inGroup base; !s.schedRefused 0 ⟨100, 0, 0, true⟩ && !(s.slot 0).sch.now.dedic && (s.slot 0).sched.switchedIn),
      -- PREEMPT: with and without room to save; the shared vchip
      base.saveShort 0 && (base.slot 0).sch.now.dedic,
      (let s : State := { base with work := State.reset.work }; !s.saveShort 0),
      -- grace: not open; over at 200 us; each warp has yielded; one has not
      !(base.slot 0).sched.grace,
      (let s := graceState { base with now := 200 }; (s.slot 0).sched.grace && decide ((s.slot 0).sched.graceAt + 200 ≤ s.runUs)),
      (let s := graceState base; (s.graceGangs 0).any fun e => (s.warpsOf e.1).any fun u => u.2.work.yielded.isNone),
      (let s := graceState { base with now := 199 }; decide (s.runUs < (s.slot 0).sched.graceAt + 200)),
      -- a pre-emption that may end
      (let s := preempting base; shares s fun x => x.sched.preempting && !x.sched.grace && s.work.gangs.all (fun e => e.2.st != .ending) &&
        (s.work.gangs.filter fun e => e.2.slot == 0 && e.2.st == .stopping).all fun e => s.canSave 0 e.1 && !(s.warpsOf e.1).isEmpty) ] = true := by decide +kernel

/-! ### The host's registers and services -/

def invQueue (is : List Inv) (s : State) : State := { s with work := { s.work with invs := [(0, is)] } }

theorem wit_HostRegistersAndServices_ring :
    allHold [
      base.answers && decide ((base.slot 0).tdi = some .run) && !(base.slot 0).win.tinvBusy && !(base.slot 0).blk.s2Busy && (base.invsOf 0).isEmpty,
      ((base.modSlot 0 fun x => { x with win := { x.win with tinvBusy := true }, blk := { x.blk with s2Busy := true } }).slot 0).blk.s2Busy,
      decide ((0x7FFFFFFF00000000 : Word).getLsbD 63 = false) && decide (fld (0x7FFFFFFF00000000 : Word) 0 32 = 0),
      [InvFrom.tinv, .s2inv, .tlbi 0 3].all fun f => ((invQueue [⟨f, 0, 1, true, true, []⟩] base).invsOf 0).any fun i => i.begun && i.items.isEmpty && i.src == f,
      ((invQueue [⟨.tinv, 0, 1, true, false, []⟩] base).invsOf 0).any fun i => !i.begun,
      -- the host at the last page that stage 2 maps and beyond it, and through a TDI outside RUN
      (match base.stage2 0 (2 ^ 40) Acc.write with | .error _ => true | _ => false) && (match base.stage2 0 (2 ^ 40 - 1) Acc.read with | .ok _ => true | _ => false),
      decide (((base.modSlot 0 fun x => { x with tdi := some .locked }).slot 0).tdi = some .locked),
      base.unread.isEmpty && decide ((base.slot 63).tdi = none) && (base.slot 0).sched.heldWrites.isEmpty ] = true := by decide +kernel

def withSpdm (p : Spdm) (s : State) : State := { s with spdm := p }

theorem wit_HostRegistersAndServices_services :
    allHold [
      base.answers && decide (base.spdm.challenges = [] ∧ base.spdm.rewrites = [] ∧ base.spdm.deferred = []) && decide ((7 : Nat) ≤ 7 ∧ 7 < 8),
      -- one challenge pending, of either kind of slot
      [0, 7].all fun cs => let s := withSpdm { base.spdm with challenges := [⟨255, cs⟩] } base
        decide (s.spdm.challenges = [⟨255, cs⟩]) && s.spdm.rewrites.isEmpty && s.spdm.deferred.isEmpty,
      !State.reset.answers,
      (let s := withSpdm { base.spdm with rewrites := [⟨1, 7, 0, []⟩] } base; s.spdm.rewrites.any fun r => r.cslot == 7),
      [1999, 2000].all fun n => let s := withSpdm { base.spdm with challenges := [⟨255, 7⟩], rewrites := [⟨1, 7, 0, []⟩] } { base with now := n }
        decide (s.spdm.challenges = [⟨255, 7⟩]) && s.spdm.rewrites.all fun r => decide (r.cslot = 7 ∧ r.since + 2000 ≤ s.now ∨ s.now < r.since + 2000),
      decide ((base.slot 0).tdi = some .run) && decide ((base.slot 63).tdi = none) && decide (0x68 ∉ [0x00, 0x08, 0x10, 0x20, 0x48, 0x58, 0x60]),
      decide (base.power.start = .operational) && decide (base.power.cur.toNat < 2) && !base.power.thalt && KMap.rising base.hbm.bytes,
      (base.slot 0).vchip.isSome && decide ((base.slot 0).gen ≠ 0),
      (let s := base.modSlot 0 fun x => { x with gen := 0 }
       (s.slot 0).gen == 0 && decide ((s.slot 0).blk.flr = .idle) && !s.gens.available.isEmpty),
      (let s := base.modSlot 0 fun x => { x with gen := 0, blk := { x.blk with flr := .draining false 0 } }
       (s.slot 0).gen == 0 && (s.slot 0).blk.flr.begun),
      { base.gens with current := (List.range 256).map fun n => (n, n) }.available.isEmpty ] = true := by decide +kernel

/-- A packet of no listed type is refused by the check. -/
theorem wit_HostRegistersAndServices_header :
    ∃ p s1 code s2, (atPort peer p).arrival = some (0, p, s1) ∧ p.listed = false ∧ s1.check p = (some code, s2) ∧ (s2.dstStream p.dstId).frozen = none := by
  let p := ({ fromPeer 9 with keyix := 9 }.packet [])
  exact ⟨p, _, 5, (((atPort peer p).framesArrived 0 p).check p).2, arrives (by decide +kernel), by decide +kernel, Prod.ext (by decide +kernel) rfl, by decide +kernel⟩

/-! ### Resets, creation, destruction -/

def withFlr (p : FlrPhase) (s : State) : State := s.modSlot 0 fun x => { x with blk := { x.blk with flr := p } }

/-- The descriptor at host address 0: guest, vchip, slot, operation, the cluster bits of word 1; and what it is read as. -/
def ordered (guest vch slot op clusters : Nat) (s : State) : State :=
  s.hostWrite 0 (wordsBytes [wordOf (place guest 48 + place vch 38 + place slot 32 + place 1 9 + place 0 3 + op), BitVec.ofNat 64 clusters])

def creates (s : State) (f : VchDesc → Bool) : Bool :=
  !s.host.vchBusy && decide (s.power.start = .operational) && decide (s.power.cur ≠ 3) && decide (s.power.target ≠ some 3) && f (s.readDesc 0)

def ofOne (d : VchDesc) : Bool := decide (d.op = 1) && !d.reserved

theorem wit_ResetsAndCreation :
    allHold [
      (base.slot 0).vchip.isSome && base.answers && decide ((base.slot 0).blk.flr = .idle) && decide (base.outstanding 0 = 0),
      decide (((withFlr (.waitPause true) base).slot 0).blk.flr ≠ .idle),
      (let s := withFlr (.draining false 0) base
       decide ((s.slot 0).blk.flr = .draining false 0) && !s.power.thalt && KMap.rising s.slots && KMap.rising s.work.gangs && (s.slot 0).sched.switchedIn &&
        (s.slot 0).sch.now.dedic && !(s.slot 0).sched.preempting && !(s.slot 0).sch.heldOut && (s.slot 0).sch.next.isNone && decide (s.power.target ≠ some 2)),
      (let s := goodList peer
       let s := { s with tables := { s.tables with rewrite := { s.tables.rewrite with
         phase := .paused, shadow := s.readDescs s.tables.rewrite.daddr s.tables.rewrite.ndesc } } }
       s.paused 0 && s.answers && decide ((s.slot 0).blk.flr = .idle)),
      [1999, 2000].all fun n => let s := withFlr (.draining false 0) { sending none with now := n }
        decide (s.outstanding 0 ≠ 0) && decide (s.runUs = n),
      -- creates, in the order of the checks
      creates (ordered 0 1 0 3 2 peer) fun d => decide (d.op = 3),
      creates (ordered 0 1 0 1 2 peer) fun d => ofOne d && (peer.slot d.slot).vchip.isSome,
      creates (ordered 9 1 63 1 2 peer) fun d => ofOne d && decide (d.slot = 63) && ((peer.slot 63).vchip).isNone && (peer.guest? d.guest).isNone,
      creates (ordered 0 2 63 1 2 peer) fun d => ofOne d && (peer.guest? d.guest).isSome && decide (peer.podSize d.guest ≤ d.vch),
      creates (ordered 0 1 63 1 1 peer) fun d => ofOne d && peer.clusterConflict d.slot d.clusters d.dedic d.group && decide (d.vch < peer.podSize d.guest),
      creates (ordered 0 1 63 1 (2 ^ 63) peer) fun d => ofOne d && !peer.clusterConflict d.slot d.clusters d.dedic d.group && !d.clusters.isEmpty && !peer.vchTaken d.guest d.vch &&
        !peer.gens.available.isEmpty && KMap.rising peer.slots,
      -- destroys
      creates (ordered 0 0 0 2 0 peer) fun d => decide (d.op = 2) && !d.reserved && (peer.slot d.slot).vchip.isSome,
      creates (ordered 0 0 63 2 0 peer) fun d => decide (d.op = 2) && !d.reserved && (peer.slot d.slot).vchip.isNone,
      { base with host := { base.host with vchBusy := true } }.host.vchBusy ] = true := by decide +kernel

/-! ### Decoding, reset, the step -/

theorem wit_DecodeInvertsEncode :
    [Instr.nop ⟨0, true⟩, .sli .always 63 0xFFFFFFFFFFFFFFFF, .mma ⟨0, true⟩ false true 15 383 (.v 312) (.s 63) (.int (-16)) (.s 5),
      .brc .always 7 true 0x3FFFF 0x20000, .wait ⟨6, false⟩ 63 63 31 15].all (fun i => i.wf && encode i != []) = true := by decide +kernel

/-- A reset that waits for the pause of its guest, and a step from there. -/
theorem wit_ResetsNeverLate :
    ResetsWaitOnlyForPauses (withFlr (.waitPause true) (rewriting .paused base)) ∧
    ((withFlr (.waitPause true) (rewriting .paused base)).slot 0).blk.flr = .waitPause true ∧
    ∃ t, step (withFlr (.waitPause true) (rewriting .paused base)) = .next t := by
  refine ⟨fun v c d hv _ => ?_, by decide +kernel, ?_⟩
  · by_cases h : v = 0
    · subst h
      have e : ((withFlr (.waitPause true) (rewriting .paused base)).slot 0).vchip = some ⟨0, 0, [0], 0⟩ := by decide +kernel
      rw [e, Option.some.injEq] at hv
      subst hv
      decide +kernel
    · obtain ⟨x, hx⟩ : ∃ x, (withFlr (.waitPause true) (rewriting .paused base)).slots = [(0, x)] := ⟨_, rfl⟩
      simp [State.slot, hx, KMap.get, KMap.find?, Ne.symm h, Slot.reset] at hv
  · cases h : step (withFlr (.waitPause true) (rewriting .paused base)) with
    | next t => exact ⟨t, rfl⟩
    | fault f => exact absurd (show (match step (withFlr (.waitPause true) (rewriting .paused base)) with | .next _ => true | _ => false) = true by decide +kernel) (by simp [h])
    | refused r => exact absurd (show (match step (withFlr (.waitPause true) (rewriting .paused base)) with | .next _ => true | _ => false) = true by decide +kernel) (by simp [h])

/-- A core whose turn it is, with one warp that is ready; the same without an agenda; an event's turn; no core at all. -/
theorem wit_StepRunsTheDecodedInstruction :
    let s0 := State.reset.withFetchWord 64 0x0038000000000000
    let ready (u : State) : Bool := match u.candidates 0 with
      | [(0, w)] => (u.boundary 0 w).isNone && decide (u.choosePath 0 w = some (0, false)) &&
        let n := u.noteIssue 0 w 0 false
        (n.warp? 0).any fun w => (w.path? 0).any fun p => (n.gangOf w).any fun g => match n.fetch g p.pc with
          | (.words w0 w1, _) => decide ((decode w0 w1).instr = .nop .always)
          | _ => false
      | _ => false
    allHold [
      (s0.nextTurn s0.agenda == some (.issue 0, [])) && ready { s0 with agenda := [] },
      (base.nextTurn base.agenda).isNone && decide (base.nextCore = some 0) && ready { base with cur := none, rotor := 1 },
      (let s := { base with agenda := [.event .scrubberPassEnd, .packet (.wire 31 (Hdr.packet {} [])) .headerError] }
       decide ((s.nextTurn s.agenda).map (·.2.length) = some 1)),
      (State.reset.nextTurn State.reset.agenda).isNone && State.reset.nextCore.isNone ] = true := by decide +kernel

/-! ### Two rules in their own words -/

theorem wit_NopAndSli :
    onIssuer base (fun x => x.any .always) = true ∧ (⟨0, true⟩ : Guard).wf = true ∧ encode (.nop .always) = [0x0038000000000000] ∧
      (0x80BAFF0000000400 : Word).extractLsb' 54 8 = (0x02 : BitVec 8) ∧ (0x80BAFF0000000400 : Word).extractLsb' 62 2 = (2 : BitVec 2) ∧
      (0x80BAFF0000000400 : Word).extractLsb' 10 4 ≠ (0 : BitVec 4) := by decide +kernel

/-- The last registers as source and destination; p1 in lanes 0 to 3 only. -/
theorem wit_VselSelects : onIssuer (some4 base) (fun x => vecB x 319 [.v 319, .int 31] && decide (x.w.pred 1 = 0xF)) = true := by decide +kernel

end Sys2Proof.Tests
end

