-- ==== Sys2Proof/Tests/WitnessClauses.lean ====
section
/-! SUPPORT. Witnesses for clauses about waiting, halting and early or late landing. -/

set_option Elab.async false

namespace Sys2Proof.Tests

open Sys2Proof.Machine

set_option maxRecDepth 100000

def halted (s : State) : State := { s with power := { s.power with thalt := true } }

/-- Stage 2 maps everything, the stage-1 tables too, to host memory; the slot's TDI is outside RUN. -/
def hostTables (s : State) : State :=
  (s.hbmWrite ⟨64, 0⟩ 0x10000 (wordsBytes [0x39, 0xFFFFFFF000, 0, 2])).modSlot 0 fun x => { x with tdi := some .locked }

theorem wit_LinkRegistersAndSteps_halted : (halted base).fabricRuns = false ∧ ((halted base).port 31).up = true ∧ 31 < (halted base).links.ports.length := by
  decide +kernel

/-- Registers of 16 and more lanes, of a SPLIT; a pair of warps of a gang that is saved, past the deadline. -/
theorem wit_WidthChanges_children :
    allHold [
      onIssuer (some4 (addrs even base)) fun x => KMap.rising x.w.vr.v && KMap.rising x.w.vr.p && decide (x.w.vreg 0 31 ≠ 0),
      (let s := (withWarp (rz ⟨2, 15, 0, 0, 0⟩) base).modWork fun k => { k with gangs := k.gangs.map fun e => (e.1, { e.2 with st := .saved }) }
       (s.warp? 0).any fun w => !s.gangOnCore w.id.gang) ] = true := by decide +kernel

/-- A whole group with lanes, for the form with a scalar destination. -/
theorem wit_ReductionsAndScans_float : onIssuer base (fun x => vecB x 319 [.v 319] && decide (x.lanes .always ≠ 0) &&
    mayName x [.s 63, .v 319] && decide ((List.range 32).length = x.w.width)) = true := by decide +kernel

/-- RENQ's last write: the old tail leads to HBM, beyond stage 1, and through tables that are waited for. -/
theorem wit_AtomicsPerformed_link :
    let l (t : Word) := last (.hbm 0x2000000 ⟨0, 0⟩) 16 [8] [2, t]
    let st (t : Word) (s : State) := outstanding (opWith .renq none (l t)) s
    allHold [
      (let s := st (2 ^ 28) base; readyLane s (opWith .renq none (l (2 ^ 28))) (l (2 ^ 28)) OpKind.isAtomic &&
        match (s.follow 0 (2 ^ 28) Acc.write).1 with | .ok _ => true | _ => false),
      (let s := st (2 ^ 48) base; readyLane s (opWith .renq none (l (2 ^ 48))) (l (2 ^ 48)) OpKind.isAtomic &&
        match (s.follow 0 (2 ^ 48) Acc.write).1 with | .error (some _) => true | _ => false),
      (let s := st (2 ^ 28) (hostTables base); readyLane s (opWith .renq none (l (2 ^ 28))) (l (2 ^ 28)) OpKind.isAtomic &&
        match (s.follow 0 (2 ^ 28) Acc.write).1 with | .error none => true | _ => false) ] = true := by decide +kernel

/-- The last beat of a copy: one that may miss a store before it, and one whose words stand there early. -/
theorem wit_CopiesDeliverInOrder_last :
    allHold [
      copyHolds (going { hbmCopy 64 with past := [0], mark := 1 } base) fun c =>
        let s := going { hbmCopy 64 with past := [0], mark := 1 } base
        decide (c.past ≠ [] ∧ c.fill + beatAt c 0 = c.len ∧ c.ahead = []) &&
        (match s.engResolve c.slot c.gang (c.src + BitVec.ofNat 64 0) 64 Acc.read with
          | (.local p, s1) => s1.placeOpen c.slot p &&
            let r := s1.copyBytes c p 64
            (match (r.2.setCopy { c with ahead := [(0, some r.1)] }).engResolve c.slot c.gang (dstAt c 0) 64 Acc.write with
              | (.local q, s2) => s2.placeOpen c.slot q | _ => false)
          | _ => false),
      copyHolds (going { hbmCopy 64 with ahead := [(0, some (List.replicate 64 7))], early := [(8, 8)] } base) fun c =>
        let s := going { hbmCopy 64 with ahead := [(0, some (List.replicate 64 7))], early := [(8, 8)] } base
        c.ready 0 64 && decide (c.early ≠ [] ∧ c.fill + beatAt c 0 = c.len) &&
        match s.engResolve c.slot c.gang (dstAt c 0) 64 Acc.write with | (.local q, s2) => s2.placeOpen c.slot q | _ => false ] = true := by decide +kernel

/-- MVN: tables that are waited for; x and y beyond the gang's vault space. One in progress that is to be reissued. -/
theorem wit_MatrixVectorInstruction_held :
    allHold [
      onIssuer (hostTables (vecOf (2 ^ 27) 0x5000 base)) fun x => readyArr x && (afterMerge x 15).engineReady &&
        (x.s.pagesOf x.v (rowPages (2 ^ 27) 256 1 64)).1.any fun e => e.2 == .error .held,
      onIssuer (setReg 2 (2 ^ 26 - 32) (vecOf (2 ^ 27) 0x5000 base)) fun x => readyArr x && !x.g.holds (x.uni .b64 (.s 2)) 64,
      (let s := (mvnOf false base).modWork fun k => { k with mvns := k.mvns.map fun e => (e.1, { e.2 with err := some (0, 0) }) }
       (KMap.find? s.work.mvns 0).any fun n => n.err.isSome && (s.warp? n.op.warp).any fun w => (s.gangOf w).any fun g => s.arrayRuns g && !w.allExited) ] = true := by
  decide +kernel

/-- GBIND of an OKIND 2 grid where the workgroup binds it with OKIND 0, and of another vchip's. LDG and HWAIT as they acquire. -/
theorem wit_GridInstructions_acquire :
    allHold [
      onIssuer (addrs (fun l => l % 8) (bind7 (descOf 4 1 0) [] base)) fun x =>
        (x.acquires.s.binding? x.g x.w.id.gang x.w.id.wg 7).any fun b => !b.tampered && (Mask.lanes (x.lanes .always)).all fun l =>
          b.resolve (x.src .b64 l (.v 0)) 5 == .cell (0x100 + 8 * (l % 8)),
      onIssuer (setReg 1 (2 ^ 27) (atMem (descOf 4 8 0) (bindGrid base))) fun x =>
        match x.s.deviceRead x.v (x.uni .b64 (.s 1)) 2 with
        | (.ok (_, ps), _) =>
          let y := x.landedAt (ps.map fun p => (p, 64))
          (match y.s.deviceRead x.v (x.uni .b64 (.s 1)) 2 with | (.ok (_, qs), _) => y.mayRead qs 64 | _ => false)
        | _ => false ] = true := by decide +kernel

/-- FACE 7 of each kind. -/
theorem wit_HaloExchange_face :
    allHold ([0, 1, 2].map fun k =>
      let p := Hdr.packet { typ := 7, sslot := 0, dslot := 0, oparg := 5, imm := haloImm 0 0 7 k true 0 } (List.replicate 64 9)
      let s := inSound p (bind7 (descOf 4 1 0) [] base)
      s.clocksRun && s.fabric.sound.all fun e => decide (fld e.1.imm 27 2 = k ∧ 6 ≤ fld e.1.imm 29 3)) = true := by decide +kernel

/-- An endpoint with its key; a packet for another; a post of a frozen vchip; a read's request and a write's bytes that are asked for again. -/
theorem wit_NetworkEngine_keys :
    let net (s : State) : State := s.modSlot 0 fun y => { y with endpoints := [15], netcfg := [(15, ⟨0, 7, 0⟩)] }
    let kept (op : NpostOp) : State := net ((posting op 64 0 true base).modWork fun k => { k with posts := k.posts.map fun e => (e.1, { e.2 with data := [(0, [1])] }) })
    allHold [
      (KMap.find? ((net base).slot 0).netcfg 15).isSome && (KMap.find? ((net base).slot 0).netcfg 14).isNone,
      postHolds (kept .read) fun p => (KMap.find? ((kept .read).slot p.slot).netcfg p.endpoint).isSome && !(kept .read).isFrozen p.slot && p.sent && decide (p.op = .read),
      postHolds (kept .write) fun p => decide (p.op ≠ .read) && decide (p.data.find? (fun e => e.1 == 0) = some (0, [1])) && !(kept .write).isFrozen p.slot,
      ((kept .read).freezeMaster 0 0 0).isFrozen 0 ] = true := by decide +kernel

/-- Replay under a thermal halt; words that make a valid log invalid. -/
theorem wit_ReceiveLogEvents_halted :
    allHold [
      (let s := replaying peer; (s.validLog? 0).any fun cb => !s.power.thalt && (halted s).power.thalt && decide ((s.defRing cb).head = (s.defRing cb).tail)),
      peer.logValid 0 && (peer.logBase? 0).any fun cb => !(peer.hbmWrite Owner.hv cb (wordsBytes [0, 0])).logValid 0 ] = true := by decide +kernel

/-- A record and a flag behind tables in host memory. -/
theorem wit_SchedulingAndPlacement_held :
    allHold [
      (let s := hostTables (submittedAt (2 ^ 28) base); s.schedHeld 0 (2 ^ 28) Acc.read && (s.slot 0).win.port.length == 1),
      (let s := hostTables (flagOf 5 base); s.schedHeld 0 (2 ^ 27) Acc.read && (s.launch? 0 3).isSome && s.schedRuns 0),
      !(submittedAt (2 ^ 28) base).schedHeld 0 (2 ^ 28) Acc.read && !(flagOf 5 base).schedHeld 0 (2 ^ 27) Acc.read ] = true := by decide +kernel

/-- A slice that is over with SCHED written: of the group's own kind, and of another; one before its end without work. -/
theorem wit_SharingAndPreemption_sched :
    let wrote (n : SchedReg) (s : State) : State := withSch (fun r => { r with next := some n }) (inGroup s)
    allHold [
      (let s := wrote ⟨100, 2, 63, false⟩ { base with now := 2000 }
       shares s fun x => x.sch.next.any fun n => decide (n.dedic = x.sch.now.dedic ∧ n.group = x.sch.now.group) && decide (x.sched.inAt + x.sch.now.slice ≤ s.now) &&
         decide (s.nextOf 63 = none) && x.sched.switchedIn && !x.sched.preempting),
      (let s := wrote ⟨100, 2, 0, false⟩ { base with now := 2000 }
       shares s fun x => x.sch.next.any fun n => decide (n.group ≠ x.sch.now.group) && decide (s.nextOf 63 = none)),
      (let s := wrote ⟨100, 2, 63, false⟩ { base with work := State.reset.work }
       shares s fun x => !s.hasWork 0 && decide (s.now < x.sched.inAt + x.sch.now.slice) && decide (s.nextOf 63 = none)) ] = true := by decide +kernel

/-- An invalidation under a halt; completion words that wait for RUN; a key index without a key on a frozen stream. -/
theorem wit_HostRegistersAndServices_held :
    allHold [
      (let s := halted (invQueue [⟨.tinv, 0, 1, true, true, []⟩] base); s.power.thalt && (s.invsOf 0).any fun i => i.begun),
      (let s := (base.modSlot 0 fun x => { x with tdi := some .error }).modSched 0 fun c => { c with
         heldWrites := [.host 8 7 true, .host 16 7 false, .walk (plainRecord 1) 2] }
       (s.slot 0).tdi == some .error && (s.slot 0).sched.heldWrites.length == 3),
      (let p := { fromPeer 9 with keyix := 9 }.packet []
       let s := atPort (frozenHere 5 peer) p
       (s.dstStream p.dstId).frozen.isSome && !p.listed && s.keyFails p) ] = true := by decide +kernel

end Sys2Proof.Tests
end

section
/-! PROOF. NOP and SLI (R284): what they do, their words, and what of an SLI word is an illegal encoding. -/

namespace Sys2Proof.Proofs.NopSli

open Sys2Proof.Machine

/-! ### The fields of an encoded first word (R262) -/

/-- The fields of a first word read back. -/
theorem ofWords_word0 (lp : BitVec 2) (major : BitVec 8) (gp : BitVec 3) (gs : BitVec 1) (d a b c : BitVec 9)
    (ty : BitVec 4) (func : BitVec 10) (w1 : Word) :
    Raw.ofWords (word0 lp major gp gs d a b c ty func) w1 = ⟨lp, major, gp, gs, d, a, b, c, ty, func, w1⟩ := by
  simp (disch := omega) only [Raw.ofWords, word0, BitVec.extractLsb'_append_eq_of_le,
    BitVec.extractLsb'_append_eq_of_add_le, BitVec.extractLsb'_eq_self, Nat.reduceSub]

theorem ofWords_w1Of (lp : BitVec 2) (m : BitVec 8) (g : Guard) (d a b c : BitVec 9) (t f : Nat) (w1 : Word) :
    Raw.ofWords (w1Of lp m g d a b c t f) w1 =
      ⟨lp, m, BitVec.ofNat 3 g.p, BitVec.ofBool g.neg, d, a, b, c, BitVec.ofNat 4 t, BitVec.ofNat 10 f, w1⟩ :=
  ofWords_word0 ..

theorem guard_of_fields {r : Raw} {g : Guard} (hg : g.wf = true) (hp : r.gp = BitVec.ofNat 3 g.p)
    (hs : r.gs = BitVec.ofBool g.neg) : r.guard = g := by
  obtain ⟨p, neg⟩ := g
  have hlt : p < 8 := by
    simp only [Guard.wf, Bool.and_eq_true, decide_eq_true_eq] at hg
    obtain ⟨hp, -⟩ := hg
    exact hp
  have hneg : (BitVec.ofBool neg == 1) = neg := by cases neg <;> rfl
  simp only [Raw.guard, hp, hs, hneg, BitVec.toNat_ofNat, Nat.reducePow, Nat.mod_eq_of_lt hlt]

theorem toNat_sc {d : Nat} (h : d < 64) : (sc d).toNat = 320 + d := by
  simp only [sc, BitVec.toNat_ofNat]
  omega

theorem accepts_sc {d : Nat} (h : d < 64) (flt : Bool) : (Kind.s 1).accepts flt (sc d) = true := by
  have hn := toNat_sc h
  simp only [Kind.accepts, Bool.and_eq_true, decide_eq_true_eq]
  omega

theorem not_reserved_sc {d : Nat} (h : d < 64) : (sc d).toNat < 496 := by
  rw [toNat_sc h]
  omega

/-! ### The decoder's checks (R279) -/

theorem decodeRow_of_clean {row : Row} {r : Raw} (hty : row.tyOk = true) (hres : usesReserved (row.fields r) = false)
    (hzero : unusedNonzero row r (row.fields r) = false) (hbad : badField row r (row.fields r) = false) :
    decodeRow row r = row.instr := by
  simp [decodeRow, hty, hres, hzero, hbad]

theorem decodeRow_of_type_refused {row : Row} {r : Raw} (hty : row.tyOk = false) :
    ∃ p, decodeRow row r = .illegalInstruction 4 p :=
  ⟨_, by rw [decodeRow, hty]; rfl⟩

/-! ### SLI's words -/

/-- The row of the map that SLI's fields select (R275). -/
def sliRow (r : Raw) : Row := { d := .s 1, tyOk := r.tyZero, instr := .sli r.guard r.sD r.w1 }

theorem rowOf_sli {r : Raw} (hm : r.major = 0x02) : rowOf r = some (sliRow r) := by
  simp [rowOf, rowScalar, sliRow, hm]

/-- The words of major 0x02 with LP = 0b10: the I form does not exist, else the row decides. -/
theorem decodeRaw_sli {r : Raw} (hm : r.major = 0x02) (hl : r.lp = 2) :
    decodeRaw r = if r.isI then .illegalInstruction 1 false else decodeRow (sliRow r) r := by
  simp [decodeRaw, formsOf, formRefused, isAvMajor, rowOf_sli hm, hm, hl]

theorem fields_sliRow {r : Raw} (hm : r.major = 0x02) :
    (sliRow r).fields r = [(.s 1, r.d), (.none, r.a), (.none, r.b), (.none, r.c)] := by
  simp [Row.fields, sliRow, formsOf, hm]

/-- The fields of SLI's words. -/
def sliRaw (g : Guard) (d : Nat) (k : Word) : Raw :=
  ⟨2, 0x02, BitVec.ofNat 3 g.p, BitVec.ofBool g.neg, sc d, 0, 0, 0, 0, 0, k⟩

theorem sliRaw_guard {g : Guard} (hg : g.wf = true) (d : Nat) (k : Word) : (sliRaw g d k).guard = g :=
  guard_of_fields hg rfl rfl

theorem sliRaw_sD (g : Guard) {d : Nat} (hd : d < 64) (k : Word) : (sliRaw g d k).sD = d := by
  have hn : (sliRaw g d k).d.toNat = 320 + d := toNat_sc hd
  unfold Raw.sD
  omega

theorem fields_sliRaw (g : Guard) (d : Nat) (k : Word) :
    (sliRow (sliRaw g d k)).fields (sliRaw g d k) = [(.s 1, sc d), (.none, 0), (.none, 0), (.none, 0)] :=
  fields_sliRow rfl

/-- SLI's fields pass every check of the decoder, whatever the value. -/
theorem decodeRaw_sliRaw {g : Guard} {d : Nat} (hg : g.wf = true) (hd : d < 64) (k : Word) :
    decodeRaw (sliRaw g d k) = .sli g d k := by
  have hguard := sliRaw_guard hg d k
  have hform : (sliRaw g d k).isI = false := by simp [Raw.isI, Raw.fn, sliRaw]
  have hres : usesReserved ((sliRow (sliRaw g d k)).fields (sliRaw g d k)) = false := by
    simp [fields_sliRaw, usesReserved, Kind.isCode, not_reserved_sc hd]
  have hzero :
      unusedNonzero (sliRow (sliRaw g d k)) (sliRaw g d k) ((sliRow (sliRaw g d k)).fields (sliRaw g d k)) = false := by
    rw [fields_sliRaw]
    simp [unusedNonzero, sliRow, sliRaw, formsOf]
  have hbad :
      badField (sliRow (sliRaw g d k)) (sliRaw g d k) ((sliRow (sliRaw g d k)).fields (sliRaw g d k)) = false := by
    have hnone (flt : Bool) (c : BitVec 9) : Kind.none.accepts flt c = true := rfl
    rw [fields_sliRaw]
    simp [badField, sliRow, hguard, hg, accepts_sc hd, hnone]
  have hrow : (sliRow (sliRaw g d k)).instr = .sli (sliRaw g d k).guard (sliRaw g d k).sD k := rfl
  rw [decodeRaw_sli rfl rfl, hform, if_neg Bool.false_ne_true, decodeRow_of_clean rfl hres hzero hbad, hrow, hguard,
    sliRaw_sD g hd]

/-- Whatever the second word, it is the value (R263, R284). -/
theorem encode_sli_decodes {g : Guard} {d : Nat} (k : Word) (hg : g.wf = true) (hd : d < 64) :
    ∃ w, encode (.sli g d k) = [w, k] ∧ ∀ k', (decode w k').instr = .sli g d k' ∧ (decode w k').words = 2 := by
  refine ⟨w1Of 2 0x02 g (sc d) 0 0 0 0 0, rfl, fun k' => ⟨?_, ?_⟩⟩
  · calc (decode (w1Of 2 0x02 g (sc d) 0 0 0 0 0) k').instr
        = decodeRaw (sliRaw g d k') := congrArg decodeRaw (ofWords_w1Of ..)
      _ = .sli g d k' := decodeRaw_sliRaw hg hd k'
  · simp [decode, Laws.Words.double]

/-- An SLI word of a type other than b64 is refused: for its I form, else for its type. -/
theorem decode_sli_of_type {w0 : Word} (w1 : Word) (hm : w0.extractLsb' 54 8 = (0x02 : BitVec 8))
    (hl : w0.extractLsb' 62 2 = (2 : BitVec 2)) (ht : w0.extractLsb' 10 4 ≠ (0 : BitVec 4)) :
    ∃ sub p, (decode w0 w1).instr = .illegalInstruction sub p := by
  have hdec : (decode w0 w1).instr = _ := decodeRaw_sli (r := Raw.ofWords w0 w1) hm hl
  cases hi : (Raw.ofWords w0 w1).isI with
  | true => exact ⟨1, false, by rw [hdec, hi]; rfl⟩
  | false =>
    have hty : (sliRow (Raw.ofWords w0 w1)).tyOk = false := beq_eq_false_iff_ne.mpr ht
    obtain ⟨p, hp⟩ := decodeRow_of_type_refused hty
    exact ⟨4, p, by rw [hdec, hi, ← hp]; rfl⟩

/-! ### What the instructions do -/

/-- NOP acts once, with nothing to do. -/
theorem exec_nop (g : Guard) (s : State) : exec (.nop g) s = s.once g 0 false fun x => .done x.s := by
  rfl

/-- SLI acts once, and its body writes the value. -/
theorem exec_sli (g : Guard) (d : Nat) (k : Word) (s : State) :
    exec (.sli g d k) s = s.once g 0 false fun x => .done (x.put (x.w.setS d k)) := by
  rfl

/-- Whether its guard holds or not, NOP only goes on. -/
theorem exec_nop_goesOn {s : State} {x : Ictx} (g : Guard) (h : Issues s x) : GoesOn (exec (.nop g) s) x := by
  have hdone : x.finish (.done x.s) = x.then' x.w := finish_done_same h
  rw [GoesOn, exec_nop, ← hdone]
  cases hg : x.any g with
  | true => exact once_of _ h (.inl rfl) (Nat.zero_le _) hg
  | false => exact once_off _ h (.inl rfl) (Nat.zero_le _) hg

theorem exec_sli_writes {s : State} {x : Ictx} {g : Guard} (d : Nat) (k : Word) (h : Issues s x) (hg : x.any g = true) :
    WritesScalar (exec (.sli g d k) s) x d k := by
  have hput : x.finish (.done (x.put (x.w.setS d k))) = x.then' (x.w.setS d k) := finish_done_put _
  rw [WritesScalar, exec_sli, ← hput]
  exact once_of _ h (.inl rfl) (Nat.zero_le _) hg

theorem pairClass_nop (g : Guard) {w : Word} (h : encode (.nop g) = [w]) (w1 : Word) :
    pairClass (Raw.ofWords w w1) = .s := by
  obtain rfl : w1Of 0 0x00 g 0 0 0 0 0 0 = w := List.singleton_inj.mp h
  simp [ofWords_w1Of, pairClass]

/-- Settles O59: NOP goes on on both sides of its guard; SLI's words are read back field by field. -/
theorem nopAndSli : Obligations.NopAndSli := by
  unfold Obligations.NopAndSli
  exact ⟨fun _ _ g h => exec_nop_goesOn g h, fun g _ h => pairClass_nop g h 0, ⟨rfl, rfl, rfl⟩,
    fun _ _ _ d k h hg => exec_sli_writes d k h hg, fun _ _ k hg hd => encode_sli_decodes k hg hd,
    fun _ w1 hm hl ht => decode_sli_of_type w1 hm hl ht⟩

end Sys2Proof.Proofs.NopSli
end

section
/-! PROOF. VSEL (R306), over what every vector instruction without flags writes (R299). -/

namespace Sys2Proof.Proofs.Vsel

open Sys2Proof.Machine

/-! ### The lanes of a mask -/

theorem lt_of_has {m : Mask} {l : Nat} (h : Mask.has m l = true) : l < 128 := BitVec.lt_of_getLsbD h

theorem mem_lanes {m : Mask} {l : Nat} : l ∈ Mask.lanes m ↔ Mask.has m l = true := by
  simp only [Mask.lanes, upTo, List.mem_filter, List.mem_range]
  exact and_iff_right_of_imp lt_of_has

/-! ### Writing vector registers (R112) -/

theorem vreg_setV_same {w : Warp} (n l : Nat) (v : Word) (h : KMap.rising w.vr.v = true) :
    (w.setV n l v).vreg n l = v :=
  KMap.get_set_same w.vr.v 0 v (128 * n + l) h

theorem vreg_setV_other {w : Warp} {n k l j : Nat} (v : Word) (h : KMap.rising w.vr.v = true) (hl : l < 128)
    (hj : j < 128) (hne : ¬ (k = n ∧ j = l)) : (w.setV n l v).vreg k j = w.vreg k j :=
  KMap.get_set_other w.vr.v 0 v (128 * n + l) (128 * k + j) h (by omega)

theorem rising_setV {w : Warp} (n l : Nat) (v : Word) (h : KMap.rising w.vr.v = true) :
    KMap.rising (w.setV n l v).vr.v = true :=
  KMap.rising_set w.vr.v 0 v (128 * n + l) h

/-- Written lanes hold their values, every other lane of every register what it held. -/
theorem vreg_setLanes {w : Warp} {ls : List Nat} (d : Nat) (f : Nat → Word) (h : KMap.rising w.vr.v = true)
    (hls : ∀ l ∈ ls, l < 128) (n : Nat) {j : Nat} (hj : j < 128) :
    (w.setLanes d (ls.map fun l => (l, f l))).vreg n j = if n = d ∧ j ∈ ls then f j else w.vreg n j := by
  induction ls generalizing w with
  | nil => simp [Warp.setLanes]
  | cons l ls ih =>
    obtain ⟨hl, hls⟩ := List.forall_mem_cons.mp hls
    have hstep : (w.setLanes d ((l :: ls).map fun l => (l, f l))).vreg n j =
        if n = d ∧ j ∈ ls then f j else (w.setV d l (f l)).vreg n j := ih (rising_setV d l (f l) h) hls
    by_cases hhead : n = d ∧ j = l
    · obtain ⟨rfl, rfl⟩ := hhead
      rw [hstep, vreg_setV_same n j (f j) h, ite_self, if_pos ⟨rfl, List.mem_cons_self⟩]
    · rw [hstep, vreg_setV_other (f l) h hl hj hhead]
      have hiff : (n = d ∧ j ∈ l :: ls) ↔ (n = d ∧ j ∈ ls) := by
        rw [List.mem_cons]
        tauto
      simp only [hiff]

/-- Of the warp a write of lanes changes the vector registers alone. -/
theorem setLanes_frame (w : Warp) (d : Nat) (xs : List (Nat × Word)) (v : KMap Word) :
    { w.setLanes d xs with vr := { (w.setLanes d xs).vr with v := v } } = { w with vr := { w.vr with v := v } } := by
  induction xs generalizing w with
  | nil => rfl
  | cons e xs ih => exact ih (w.setV d e.1 e.2)

theorem lanesHold_setLanes {x : Ictx} (m : Mask) (d : Nat) (f : Nat → Word) (h : KMap.rising x.w.vr.v = true) :
    x.LanesHold (x.w.setLanes d ((Mask.lanes m).map fun l => (l, f l))) d m f := by
  refine ⟨fun n j hj => ?_, setLanes_frame x.w d _ x.w.vr.v⟩
  rw [vreg_setLanes d f h (fun l hl => lt_of_has (mem_lanes.mp hl)) n hj]
  simp only [mem_lanes]

/-- What lanes outside the mask would have received does not matter. -/
theorem writesLanes_congr {o : Host.Outcome State Fault Refusal} {x : Ictx} {d : Nat} {m : Mask} {f f' : Nat → Word}
    (h : WritesLanes o x d m f) (hf : ∀ l, Mask.has m l = true → f l = f' l) : WritesLanes o x d m f' := by
  obtain ⟨w, ho, hv, hframe⟩ := h
  refine ⟨w, ho, fun n l hl => ?_, hframe⟩
  rw [hv n l hl]
  exact ite_congr rfl (fun hm => hf l hm.2) fun _ => rfl

/-! ### Vector instructions that raise no flag (R222, R299) -/

theorem raise_zero (w : Warp) : w.raise 0 = w := by
  simp [Warp.raise]

theorem allFlags_zero (ls : List Nat) : allFlags (ls.map fun l => (l, 0)) = 0 := by
  rw [allFlags, List.foldl_map]
  exact List.foldl_fixed' (fun _ => Nat.or_zero 0) ls

theorem trapLanes_zero (en : Nat) (ls : List Nat) : trapLanes en (ls.map fun l => (l, 0)) = [] := by
  simp [trapLanes]

/-- With no flag raised there is no trap, and the flags stay. -/
theorem numeric_no_flags (x : Ictx) (ls : List Nat) (r : Warp → Res) : x.numeric (ls.map fun l => (l, 0)) r = r x.w := by
  simp only [Ictx.numeric, trapLanes_zero, allFlags_zero, raise_zero]

theorem vecWrite_no_flags (x : Ictx) (m : Mask) (d : Nat) (f : Nat → Word) :
    x.vecWrite m d (fun l => (f l, 0)) = .done (x.put (x.w.setLanes d ((Mask.lanes m).map fun l => (l, f l)))) := by
  simp only [Ictx.vecWrite, List.map_map]
  exact numeric_no_flags x (Mask.lanes m) _

theorem topOf_cons (o : Operand) (os : List Operand) : topOf (o :: os) = max (Operand.top o 1) (topOf os) := by
  have hfold (os : List Operand) : topOf os = (os.map (Operand.top · 1)).foldl max 0 := List.foldl_map.symm
  rw [hfold, hfold, List.map_cons, List.foldl_cons, max_comm, List.foldl_assoc]

/-- A vector instruction without flags writes its lanes and changes nothing else. -/
theorem vecOp_writesLanes {s : State} {x : Ictx} {d : Nat} {os : List Operand} (g : Guard) (f : Ictx → Nat → Word)
    (h : VecFrame s x d os) : WritesLanes (vecOp s g d os fun y l => (f y l, 0)) x d (x.lanes g) (f x) := by
  obtain ⟨hx, ⟨hpriv, hregs⟩, hrising⟩ := h
  rw [topOf_cons] at hregs
  refine ⟨x.w.setLanes d ((Mask.lanes (x.lanes g)).map fun l => (l, f x l)), ?_, lanesHold_setLanes _ d (f x) hrising⟩
  calc vecOp s g d os (fun y l => (f y l, 0))
      = .next (x.finish (x.vecWrite (x.lanes g) d fun l => (f x l, 0))) := perLane_of _ hx hpriv hregs
    _ = .next (x.then' (x.w.setLanes d ((Mask.lanes (x.lanes g)).map fun l => (l, f x l)))) := by
      rw [vecWrite_no_flags, finish_done_put, Ictx.then']

/-! ### VSEL (R306) -/

/-- What VSEL writes in a lane. -/
def selected (t : Ty) (a b : Operand) (p : Nat) (x : Ictx) (l : Nat) : Word :=
  if Mask.has (x.w.pred p) l = true then x.src t l a else x.src t l b

theorem exec_vsel (g : Guard) (t : Ty) (d : Nat) (a b : Operand) (p : Nat) (s : State) :
    exec (.vsel g t d a b p) s = vecOp s g d [a, b] fun x l => (selected t a b p x l, 0) := by
  rfl

theorem exec_vsel_writesLanes {s : State} {x : Ictx} {d : Nat} {a b : Operand} (g : Guard) (t : Ty) (p : Nat)
    (h : VecFrame s x d [a, b]) : WritesLanes (exec (.vsel g t d a b p) s) x d (x.lanes g) (selected t a b p x) := by
  rw [exec_vsel]
  exact vecOp_writesLanes g (selected t a b p) h

/-- Registers are read alike under every type; only constants depend on it (R266, R268). -/
theorem src_of_register {o : Operand} (h : (∃ n, o = .v n ∨ o = .s n) ∨ ∃ r, o = .spec r) (t t' : Ty) (x : Ictx)
    (l : Nat) : x.src t l o = x.src t' l o := by
  rcases h with ⟨n, rfl | rfl⟩ | ⟨r, rfl⟩
  · rfl
  · rfl
  · rfl

theorem exec_vsel_of_registers {a b : Operand}
    (h : ∀ o ∈ [a, b], (∃ n, o = .v n ∨ o = .s n) ∨ ∃ r, o = .spec r) (g : Guard) (t t' : Ty) (d p : Nat) (s : State) :
    exec (.vsel g t d a b p) s = exec (.vsel g t' d a b p) s := by
  have hsel : selected t a b p = selected t' a b p := by
    funext x l
    simp only [selected, src_of_register (h a (by simp)) t t', src_of_register (h b (by simp)) t t']
  rw [exec_vsel, exec_vsel, hsel]

/-- p7 holds in every lane (R112). -/
theorem has_pred_seven (w : Warp) {l : Nat} (h : l < 128) : Mask.has (w.pred 7) l = true := by
  rw [Warp.pred, if_pos rfl, Mask.has, BitVec.getLsbD_allOnes, decide_eq_true h]

theorem selected_seven (t : Ty) (a b : Operand) (x : Ictx) {l : Nat} (h : l < 128) :
    selected t a b 7 x l = x.src t l a :=
  if_pos (has_pred_seven x.w h)

/-- The word of R306's example. -/
theorem decodeWords_vsel_example :
    decodeWords [0x0A78020201812C00] = some (.vsel .always .f32 1 (.v 2) (.v 3) 4) := by
  decide

/-- Settles O60: VSEL is a vector instruction without flags, of registers that no type changes, and p7 holds in every lane. -/
theorem vselSelects : Obligations.VselSelects := by
  unfold Obligations.VselSelects
  refine ⟨decodeWords_vsel_example, fun s x g t t' d p a b h => ⟨exec_vsel_writesLanes g t p h,
    fun hregs => exec_vsel_of_registers hregs g t t' d p s, ?_⟩⟩
  rintro rfl
  exact writesLanes_congr (exec_vsel_writesLanes g t 7 h) fun _ hl => selected_seven t a b x (lt_of_has hl)

end Sys2Proof.Proofs.Vsel
end
